-- ==== Sys2Proof/Word.lean ====
section
/-! DEFINITION. The widths of data the SX9 manual names: a byte, and words of 16, 32, 40, 48 and 64 bits (R3, R4). -/
namespace Sys2Proof

/-- One byte (R4). -/
abbrev Byte := BitVec 8
/-- A 16-bit field. -/
abbrev W16 := BitVec 16
/-- A 32-bit field or register (R171, R359). -/
abbrev W32 := BitVec 32
/-- A 64-bit field (time, step numbers, addresses in slots). -/
abbrev W64 := BitVec 64
/-- An accumulator word (R128). -/
abbrev W40 := BitVec 40

end Sys2Proof
end

