-- ==== Sys2Proof/Syntax.lean ====
section
/-! DEFINITION. The commands the block takes: one constructor of `Instr` per row of the table of operations and
events, with the operands each row carries. Numbers are unsigned unless their type says otherwise; `Instr.wf`
(WellFormed.lean) says which operand values are legal. -/
namespace Sys2Proof

/-- Where a command slot comes from: a queue pair or a sideband endpoint (R358, R370). -/
inductive Source where
  | pair (n : Nat)
  | endpoint (eid : Byte)
  deriving DecidableEq, Repr, Inhabited

/-- A command slot (Table 15.5) without its opcode, which the constructor names, with what its extended buffer
holds in host memory when the slot is taken (`none`: it cannot be read or written over PCIe, R372). -/
structure Slot where
  src : Source
  tag : W16
  target : Byte
  flags : Byte
  inlineLen : W16
  extAddr : W64
  extLen : W32
  seq : W32
  deadline : W32
  crc : W32
  inl : List Byte
  ext : Option (List Byte)
  deriving DecidableEq, Repr, Inhabited

/-- The physical faults that hit the hardware while a descriptor runs (R71, R72, R298, R66, R302). -/
structure Hw where
  /-- the unit is still busy at the descriptor's start (R66) -/
  busy : Bool
  /-- a tally lane disagrees in this column (R71) -/
  tally : Option Nat
  /-- a residue check modulo 127 fails (R72, R298) -/
  residue : Bool
  /-- bytes flipped in HBM before the reads: data address of a byte, or of a check byte as 2^48 + 4 * codeword + k,
  and the XOR value -/
  hbmFlips : List (Nat × Byte)
  /-- bytes flipped in the tile's SRAM, in the same form -/
  sramFlips : List (Nat × Byte)
  /-- bytes flipped in the scale-record store: 68 * record + place in its codeword, and the XOR value (R300) -/
  recFlips : List (Nat × Byte)
  deriving DecidableEq, Repr, Inhabited

/-- Where a descriptor runs: its plot, logical tile, place in the tile's descriptor list, and the faults. -/
structure At where
  plot : Nat
  tile : Nat
  index : Nat
  hw : Hw
  deriving DecidableEq, Repr, Inhabited

/-- The fields of the common header a meaning uses (Table 3.7). -/
structure DHead where
  start : Nat
  duration : Nat
  anchored : Bool
  phase : Nat
  record : Nat
  tensor : Nat
  deriving DecidableEq, Repr, Inhabited

/-- Table 3.8, with bytes 46 and 47 taken apart (R141, Table 6.9). -/
structure MatMulOps where
  aOff : Nat
  bOff : Nat
  outOff : Nat
  m : Nat
  n : Nat
  k : Nat
  fa : Nat
  fb : Nat
  mode : Nat
  bank : Nat
  chainIn : Bool
  chainOut : Bool
  keep : Bool
  outFmt : Nat
  outStoch : Bool
  outNonsat : Bool
  kBase : Nat
  rowBase : Nat
  colBase : Nat
  deriving DecidableEq, Repr, Inhabited

/-- Table 9.2. -/
structure VecOps where
  fn : Nat
  src1 : Nat
  src2 : Nat
  dst : Nat
  rows : Nat
  len : Nat
  const : W32
  deriving DecidableEq, Repr, Inhabited

/-- Table 9.3. -/
structure UpdOps where
  fn : Nat
  role : Nat
  emit : Bool
  emitT : Bool
  stoch : Bool
  block16 : Bool
  fmt : Nat
  inOff : Nat
  outOff : Nat
  parOff : Nat
  n : Nat
  c : Nat
  rowBase : Nat
  chunk : Nat
  facOff : Nat
  deriving DecidableEq, Repr, Inhabited

/-- PAIR_CHECK's use of Table 9.2 (R198). -/
structure PairOps where
  src1 : Nat
  src2 : Nat
  rows : Nat
  first : Nat
  third : Bool
  role : Nat
  deriving DecidableEq, Repr, Inhabited

/-- Table 5.6. -/
structure ConvOps where
  src : Nat
  dst : Nat
  rows : Nat
  sf : Nat
  sBlock : Bool
  df : Nat
  dBlock : Bool
  stoch : Bool
  nonsat : Bool
  block16 : Bool
  rowLen : Nat
  rowBase : Nat
  elemBase : Nat
  deriving DecidableEq, Repr, Inhabited

/-- Table 7.3 for types 0x04 and 0x05: five extents, s_0 in elements, s_1 to s_4 in bytes. -/
structure DmaOps where
  hbm : Nat
  sram : Nat
  esize : Nat
  pad : Bool
  mirror : Bool
  ext : List Nat
  s0 : Int
  strides : List Int
  deriving DecidableEq, Repr, Inhabited

/-- Table 7.3 for type 0x06. -/
structure PermOps where
  hbm : Nat
  sram : Nat
  esize : Nat
  fmt : Nat
  block16 : Bool
  pad : Bool
  reblock : Bool
  toHbm : Bool
  mirror : Bool
  ext : List Nat
  perm : List Nat
  strides : List Int
  deriving DecidableEq, Repr, Inhabited

/-- Table 7.4. -/
structure GatherOps where
  table : Nat
  sram : Nat
  idx : Nat
  n : Nat
  len : Nat
  stride : Int
  size : Nat
  policy : Nat
  add : Bool
  pad : Bool
  mirror : Bool
  wide : Bool
  deriving DecidableEq, Repr, Inhabited

/-- Table 7.7. -/
structure CopyOps where
  engine : Nat
  permuting : Bool
  mirror : Bool
  esize : Nat
  src : Nat
  dst : Nat
  b : Nat
  rows : Nat
  cols : Nat
  srcPitch : Nat
  dstPitch : Nat
  deriving DecidableEq, Repr, Inhabited

/-- Table 6.8. -/
structure HandoffOps where
  bank : Nat
  dst : Nat
  w : Nat
  deriving DecidableEq, Repr, Inhabited

/-- Table 10.12. -/
structure CellOps where
  port : Nat
  tag : Nat
  c : Nat
  sram : Nat
  b : Nat
  deriving DecidableEq, Repr, Inhabited

/-- Table 12.12. -/
structure DigestOps where
  words : Bool
  src : Nat
  n : Nat
  dst : Nat
  deriving DecidableEq, Repr, Inhabited

/-- Table 12.3, less the operation, which the constructor names. `first` is the first chunk or the routing table. -/
structure CollOps where
  ingress : Option Nat
  egress : Option Nat
  egress2 : Option Nat
  packFp32 : Bool
  own : Bool
  extra : Bool
  keep : Bool
  coll : Nat
  inTag : Nat
  egTag : Nat
  eg2Tag : Nat
  c : Nat
  h : Nat
  localOff : Nat
  resOff : Nat
  n : Nat
  first : Nat
  extraOff : Nat
  rowLen : Nat
  deriving DecidableEq, Repr, Inhabited

/-- A host copy entry (Table 7.11) with the bytes host memory holds at the source (kind 2), and what PCIe and the
engine did with it. `reserved` says that a reserved byte of the entry is nonzero (R172). -/
structure CopyEntry where
  kind : Nat
  signal : Bool
  tag : W16
  src : Nat
  dst : Nat
  b : Nat
  rows : Nat
  cols : Nat
  srcPitch : Nat
  dstPitch : Nat
  esizeCode : Nat
  reserved : Bool
  hostData : List Byte
  deriving DecidableEq, Repr, Inhabited

/-- A send entry (Table 11.9). -/
structure SendEntry where
  kind : Nat
  signal : Bool
  tag : W16
  chip : Nat
  localAddr : Nat
  remote : Nat
  b : Nat
  reserved : Bool
  deriving DecidableEq, Repr, Inhabited

/-- What HOST_COPY_ENTRY_START reads (R172): the entry, none when the ring cannot be read, and whether a completion written at once
reaches the ring (R171). -/
structure CopyStart where
  entry : Option CopyEntry
  ringOk : Bool
  deriving DecidableEq, Repr, Inhabited

/-- What SEND_ENTRY_START reads (R262), in the same way. -/
structure SendStart where
  entry : Option SendEntry
  ringOk : Bool
  deriving DecidableEq, Repr, Inhabited

/-- Where a link control cell comes in: its slot at the sender, and whether the schedule has a vote word due there (R236, R293). -/
structure ControlAt where
  slot : Nat
  voteDue : Bool
  deriving DecidableEq, Repr, Inhabited

/-- How a scheduled slot arrived at a port (R36, R219): the cell, if any, its early-arrival margin in cycles
(negative: late), drift above 8 cycles, whether the schedule has a vote word due in this entry (R293), whether
the two copies of the vote unit disagree on it (R299), and, in a forwarding slot, the collective whose round ends with
this cell as its trailer, or whose round has it as a data cell (R283). -/
structure Arrival where
  cell : Option (List Byte)
  margin : Int
  drift : Bool
  voteDue : Bool
  voteCopies : Bool
  trailer : Option Nat
  data : Option Nat
  deriving DecidableEq, Repr, Inhabited

/-- One lane's group of 25,700 bits (Table 10.2), its codewords corrected and uncorrectable by the FEC (R210), and
whether lane skew stays within 102 cycles (R213). -/
structure GroupRx where
  port : Nat
  lane : Nat
  group : BitVec 25700
  corrected : Nat
  uncorrectable : Nat
  skewOk : Bool
  deriving DecidableEq, Repr, Inhabited

/-- How the attempt to set VCORE in BOOT ended, and which banks' signatures the boot ROM verified (R411, R421). -/
structure BootInfo where
  avsAnswers : Bool
  readBackMv : Nat
  bank0Ok : Bool
  bank1Ok : Bool
  deriving DecidableEq, Repr, Inhabited

/-- What a self-test step found (Table 17.8): tiles that failed as (cluster, physical position), stacks and ports
that failed, another failure of the step, and its duration in ms. -/
structure StepResult where
  tiles : List (Nat × Nat)
  hstacks : List Nat
  ports : List Nat
  otherFail : Bool
  ms : Nat
  deriving DecidableEq, Repr, Inhabited

/-- What initialising the flash device found (R439, R440): the link, and the usable namespaces with their LBAs. -/
structure FlashInfo where
  ok : Bool
  width : Nat
  speed : Nat
  nsUsable : Nat
  nsLbas : List Nat
  /-- I/O queue pairs that the controller grants, and MQES (R440) -/
  granted : Nat
  mqes : Nat
  deriving DecidableEq, Repr, Inhabited

/-- A TAP instruction (R447). -/
inductive TapInstr where
  | bypass
  | idcode
  | extest
  | sample
  | intest
  | other (code : Nat)
  deriving DecidableEq, Repr, Inhabited

/-- The commands of the block: one constructor per row of the table. -/
inductive Instr where
  | getInfo (c : Slot)
  | getState (c : Slot)
  | readCounters (c : Slot)
  | runSelftest (c : Slot)
  | readSelftest (c : Slot)
  | runVectors (c : Slot)
  | setProfile (c : Slot)
  | readProfile (c : Slot)
  | writeProfile (c : Slot)
  | plotStop (c : Slot)
  | plotStart (c : Slot)
  | plotReconfig (c : Slot) (program : Option (List Byte))
  | loadImage (c : Slot) (image : Option (List Byte))
  | loadImageValidationEnd
  | arm (c : Slot)
  | start (c : Slot)
  | stop (c : Slot)
  | selectVariant (c : Slot)
  | setPolicy (c : Slot)
  | linkTrain (c : Slot)
  | linkTrainPortActive (port : Nat)
  | linkTrainWaitExpiry
  | linkState (c : Slot)
  | setCoord (c : Slot)
  | setRouteEpoch (c : Slot)
  | setSluice (c : Slot)
  | timeArm (c : Slot)
  | hamperSeal (c : Slot)
  | hamperRestore (c : Slot)
  | hamperList (c : Slot)
  | setMirror (c : Slot)
  | recallNotice (c : Slot)
  | recallHalt
  | planeShift (c : Slot)
  | planeShiftDone
  | planeShiftWaitExpiry
  | shiftRetryTimer (run : Nat)
  | leaveSlice (c : Slot)
  | audit (c : Slot)
  | readEvents (c : Slot)
  | readCper (c : Slot)
  | clearSuspect (c : Slot)
  | readJournal (c : Slot)
  | fwStage (c : Slot)
  | fwActivate (c : Slot)
  | controllerRestartEnd
  | fwRevertTimeout
  | readPower (c : Slot)
  | readThermal (c : Slot)
  | reset (c : Slot)
  | commandChipReset
  | completionWrite (pair : Nat) (ok : Bool)
  | mgtQueueEnable (pair : Nat)
  | mgtQueueDisable (pair : Nat)
  | mgtSqtailDoorbell (pair : Nat) (value : W32) (readable : Bool)
  | mgtCqheadWrite (pair : Nat) (value : W32)
  | dmaQueueEnable (q : Nat)
  | dmaQueueDrain (q : Nat)
  | dmaQueueAbort (q : Nat) (bytesDone : Nat)
  | dmaQtailDoorbell (q : Nat) (value : W32)
  | hostCopyEntryStart (q : Nat) (e : CopyStart)
  | hostCopyComplete (q : Nat) (failedAt : Option Nat) (ringOk : Bool)
  | sendQueueEnable
  | sendQueueDrain
  | sendQueueAbort
  | sendQtailDoorbell (value : W32)
  | sendEntryStart (e : SendStart)
  | timNowLoRead (fn : Nat)
  | hstEventSeqLoRead (fn : Nat)
  | hstJournalSeqLoRead (fn : Nat)
  | hstPassPost (fn : Nat) (count : Nat)
  | registerWrite (fn : Nat) (off : Nat) (width : Nat) (value : W64)
  | bar2Read (fn : Nat) (off : Nat) (n : Nat)
  | bar2Write (fn : Nat) (off : Nat) (data : List Byte)
  | bufWrite (eid : Byte) (off : Nat) (data : List Byte)
  | bufRead (eid : Byte) (off : Nat) (n : Nat)
  | setEndpointId (eid : Byte)
  | ftsyncRisingEdge
  | timeArmWaitExpiry
  | epochCheckSend
  | epochCheckWindowClose
  | refLost
  | corePllLock
  | pllReferenceSwitch
  | stepBoundary
  | phaseStart
  | descriptorFetch (plot tile group : Nat)
  | matrixMultiply (x : At) (h : DHead) (o : MatMulOps)
  | vectorFunction (x : At) (h : DHead) (o : VecOps)
  | updateDescriptor (x : At) (h : DHead) (o : UpdOps)
  | pairCheck (x : At) (h : DHead) (o : PairOps)
  | formatConversion (x : At) (h : DHead) (o : ConvOps)
  | tileDmaIn (x : At) (h : DHead) (o : DmaOps)
  | tileDmaOut (x : At) (h : DHead) (o : DmaOps)
  | tileDmaPermute (x : At) (h : DHead) (o : PermOps)
  | gather (x : At) (h : DHead) (o : GatherOps)
  | scatter (x : At) (h : DHead) (o : GatherOps)
  | copyEngine (x : At) (h : DHead) (o : CopyOps)
  | chainHandoff (x : At) (h : DHead) (o : HandoffOps)
  | cellEgress (x : At) (h : DHead) (o : CellOps)
  | cellIngress (x : At) (h : DHead) (o : CellOps)
  | wait (x : At) (h : DHead) (unit : Nat)
  | contextSave (x : At) (h : DHead) (off : Nat)
  | contextRestore (x : At) (h : DHead) (off : Nat)
  | scaleRecordUpdate (x : At) (h : DHead)
  | digestDescriptor (x : At) (h : DHead) (o : DigestOps)
  | collectivePack (x : At) (h : DHead) (o : CollOps)
  | collectiveRound (x : At) (h : DHead) (o : CollOps)
  | collectiveCheck (x : At) (h : DHead) (o : CollOps)
  | place (x : At) (h : DHead) (o : CollOps)
  | combine (x : At) (h : DHead) (o : CollOps)
  | copyWindow (engine : Nat) (page : Nat)
  | hbmRefreshWindow (stack : Nat)
  | slotDeparture (port slot : Nat)
  | scheduledCellReceive (port slot : Nat) (a : Arrival)
  | votePhaseEnd
  | beaconDeadline (port : Nat)
  | stepCommit
  | backgroundCellReceive (port : Nat) (cell : List Byte) (fecBad : Bool)
  | linkControlCellReceive (port : Nat) (cell : List Byte) (slot : ControlAt)
  | idleCellReceive (port : Nat) (cell : List Byte)
  | linbyGroupReceive (g : GroupRx)
  | laneSignalLoss (port lane : Nat)
  | routerTick
  | ejectionWrite (packets : Nat)
  | ackTimer (chip stream : Nat)
  | trackerIdleExpiry (chip stream : Nat)
  | retransmitTimeout (chip stream seq : Nat)
  | fetchTimeout (stream : Nat)
  | fetchRetryTimer (stream : Nat)
  | unscheduledCopyGroup (q : Nat)
  | hamperDrain (page : Nat)
  | passStart (plot : Nat)
  | passEnd (plot : Nat)
  | vectorRunEnd (fired : Option Nat)
  | powerOnReset (vioLost : Bool)
  | pwrOkDeassert
  | pinReset
  | supplyDipBegin (vcore : Bool) (mv : Nat)
  | supplyDipEnd (lowestMv : Nat)
  | supplyReset (vcore : Bool)
  | supplyDipTimeout
  | thermalSample (readings : List Int)
  | thermalTrip
  | powerSample (mv : List Nat) (ma : List Nat)
  | bootComplete (i : BootInfo)
  | selftestStepEnd (r : StepResult)
  | flashInit (i : FlashInfo)
  | nvmeCompletion (status : Nat)
  | nvmeTimeout
  | hostLinkReset
  | vfFlr (vf : Nat)
  | pmdTrainingEnd (port : Nat) (ok : Bool)
  | armEnd
  | setProfileEnd
  | writeProfileEnd (ok : Bool)
  | plotReconfigEnd (plot : Nat)
  | fwStageEnd
  | hamperRestoreEnd
  | leaveSliceEnd
  | resetNDeassert (profsel slotId : Nat)
  | flashLinkDown (retrained : Bool)
  | hbmControllerRefresh (stack : Nat)
  | badOpcode (opcode : W16) (c : Slot)
  | tapInstruction (i : TapInstr) (trst : Bool)
  deriving DecidableEq, Repr

end Sys2Proof
end

