-- ==== Sys2Proof/Config.lean ====
section
/-! DEFINITION. What one part fixes and the manual does not give, and the free values: constants without a body,
so that no proof can lean on a value of them (log 4). The plain numbers here are the manual's own. -/
namespace Sys2Proof.Config

/-- The result of a table-based function (division, square root, the transcendental functions) of a microprogram
version, on the points where the manual bounds it but does not give its bits (R113, R205; log 7). -/
opaque tableFn (version fn : Nat) (a b : W32) : W32

/-- What a byte of HBM holds after the chip reset number `gen` (R418: undefined; log 5). -/
opaque hbmUndefined (gen addr : Nat) : Byte

/-- Whether the vendor key fixed in the die accepts a firmware image's signature (R389; the key is not
published; log 8). -/
opaque fwSignatureGood (image : List Byte) : Bool

/-- The serial number of this part, 16 ASCII bytes as one number (R382; log 8). -/
opaque serial : BitVec 128

/-- The fused VCORE setpoint of this part, before it is brought into 0.700 to 0.800 V in steps of 5 mV (R411). -/
opaque fusedSetpoint : Nat

/-- Versions of the firmware the part is shipped with (R389; log 8). -/
opaque shippedFirmware : W32
/-- Version of the microprograms the part is shipped with (R113, R389; log 8). -/
opaque shippedMicroprograms : W32

/-- The maximum of a row without elements, by function (R114, Table 9.6: not stated; log 20). -/
opaque emptyRow (fn : Nat) : W32

/-- A value the manual leaves open where it arises: the n-th one drawn (log 4). -/
opaque freeNat (n : Nat) : Nat

/-- What the chip of an old replica holds committed at a step of an image beside its pages, as a chip that takes its place copies it: a
byte of one of its scale records, and its carry-pending bit (R349; log 90). -/
opaque otherRecord (image replica step record byte : Nat) : Byte
/-- The carry-pending bit. -/
opaque otherCarry (image replica step : Nat) : Bool

/-- Cycles in a tick (R28). -/
def cyclesPerTick : Nat := 1024
/-- Core cycles in 1 ms: 1.6 GHz (R3). -/
def cyclesPerMs : Nat := 1600000
/-- HBM data bytes of one stack, 47,370,752 groups of 1 KiB (R86, Table 16.3). -/
def groupsPerStack : Nat := 47370752
/-- Bytes of one tile's SRAM: 3 MiB (R73). -/
def sramBytes : Nat := 0x300000
/-- Bytes of an HBM page (R86). -/
def pageBytes : Nat := 0x200000
/-- p = 2^61 − 1, the modulus of the digests (R279). -/
def digestP : Nat := 2 ^ 61 - 1
/-- Ticks in 1 ms, rounded up, the shortest lead of START and RECALL_NOTICE (R342, R380). -/
def leadTicks : Nat := 1563

end Sys2Proof.Config
end

