-- ==== Sys2Proof/Machine/Bytes.lean ====
section
/-! DEFINITION. Byte order and bit fields: little-endian fields of byte strings (R4), sign extension, and the
small arithmetic the manual's formulas use (ceiling division, rounding up to a multiple, saturation). -/
namespace Sys2Proof.Machine

/-- The unsigned little-endian value of a byte string, byte 0 lowest (R4). -/
def leNat : List Byte → Nat
  | [] => 0
  | b :: bs => b.toNat + 256 * leNat bs

/-- The `n` bytes of a number, byte 0 lowest, the number taken modulo 256^n (R4). -/
def leBytes : Nat → Nat → List Byte
  | 0, _ => []
  | n + 1, v => BitVec.ofNat 8 v :: leBytes n (v / 256)

/-- `n` bytes of `bs` from `at`, short reads padded with zero bytes. -/
def slice (bs : List Byte) (at_ n : Nat) : List Byte :=
  let r := (bs.drop at_).take n
  r ++ List.replicate (n - r.length) 0

/-- The little-endian field of `n` bytes at offset `off` of a structure (R4). -/
def fieldAt (bs : List Byte) (off n : Nat) : Nat := leNat (slice bs off n)

/-- Bits [hi:lo] of a number (R3, Table 0.2). -/
def bits (v hi lo : Nat) : Nat := (v >>> lo) % 2 ^ (hi + 1 - lo)

/-- Bit `i` of a number. -/
def bit (v i : Nat) : Bool := v.testBit i

/-- The signed value of the low `w` bits of a number. -/
def signed (w v : Nat) : Int :=
  let u := v % 2 ^ w
  if u < 2 ^ (w - 1) then (u : Int) else (u : Int) - (2 ^ w : Nat)

/-- The `w`-bit two's-complement pattern of an integer. -/
def twos (w : Nat) (i : Int) : Nat := (i % ((2 ^ w : Nat) : Int)).toNat

/-- ⌈a / b⌉. -/
def ceilDiv (a b : Nat) : Nat := (a + b - 1) / b

/-- The least multiple of `b` that is at least `a`. -/
def roundUp (a b : Nat) : Nat := ceilDiv a b * b

/-- A sum that stays at 0xFFFF_FFFF (R116, R166). -/
def sat32 (n : Nat) : Nat := min n 0xFFFFFFFF

/-- A sum that stays at 0xFFFF (R116). -/
def sat16 (n : Nat) : Nat := min n 0xFFFF

/-- The number of bits of a natural number: 0 for 0 (R138). -/
def bitlen (n : Nat) : Nat := if n = 0 then 0 else Nat.log2 n + 1

/-- The integer clamped to [lo, hi]. -/
def clampInt (lo hi x : Int) : Int := min (max x lo) hi

/-- `true` as 1. -/
def b2n (b : Bool) : Nat := if b then 1 else 0

/-- `n` zero bytes. -/
def zeros (n : Nat) : List Byte := List.replicate n 0

/-- A byte string padded with zeros to a multiple of `m`. -/
def padTo (m : Nat) (bs : List Byte) : List Byte := bs ++ zeros (roundUp bs.length m - bs.length)

/-- The bytes of an ASCII string, padded with NUL to `n` bytes. -/
def ascii (n : Nat) (s : String) : List Byte :=
  slice (s.toList.map (fun c => BitVec.ofNat 8 c.toNat)) 0 n

/-- Whether every byte of `n` bytes at `off` is zero (reserved fields, R6, R7). -/
def zeroAt (bs : List Byte) (off n : Nat) : Bool := (slice bs off n).all (· == 0)

/-- The element of a list, or a default. -/
def nth {α : Type} (l : List α) (i : Nat) (d : α) : α := l.getD i d

/-- The list with its element `i` replaced by `f` of it. -/
def modifyAt {α : Type} (l : List α) (i : Nat) (f : α → α) : List α := l.modify i f

/-- The list cut into pieces of `n` (the last may be shorter), at most `fuel` of them. -/
def chunksAux {α : Type} (n : Nat) : Nat → List α → List (List α)
  | 0, _ => []
  | _, [] => []
  | fuel + 1, a :: as => (a :: as).take n :: chunksAux n fuel ((a :: as).drop n)

/-- The list cut into pieces of `n`, the last perhaps shorter. -/
def chunks {α : Type} (n : Nat) (l : List α) : List (List α) := chunksAux n l.length l

/-- The greatest number of `b` bits above those of `r` whose `k`-th power is at most `n`, found bit by bit. -/
def rootBits (k n : Nat) : Nat → Nat → Nat
  | 0, r => r
  | b + 1, r => rootBits k n b (if (r + 2 ^ b) ^ k ≤ n then r + 2 ^ b else r)

end Sys2Proof.Machine
end

