-- ==== Sys2Proof/Machine/Floats.lean ====
section
/-! DEFINITION. Number formats (R96 to R111) on exact values: a sign, a natural significand and a power of two. -/
namespace Sys2Proof.Machine

/-- An exact value: NaN, an infinity, or ± m × 2^e (m = 0: a signed zero). -/
inductive Val where
  | nan
  | inf (neg : Bool)
  | fin (neg : Bool) (m : Nat) (e : Int)
  deriving DecidableEq, Repr, Inhabited

/-- +0 -/
def Val.zero : Val := .fin false 0 0

/-- The parameters of a floating format (Table 5.2): exponent and mantissa widths, bias, whether it has infinities
and NaN, and whether its all-ones exponent holds ordinary values. -/
structure Fmt where
  ebits : Nat
  mbits : Nat
  bias : Nat
  hasInf : Bool
  hasNaN : Bool
  deriving DecidableEq, Repr, Inhabited

/-- The format of a code (Table 5.1); INT8 (0x8) is treated apart. -/
def fmtOf (code : Nat) : Fmt :=
  match code with
  | 0 => ⟨8, 23, 127, true, true⟩
  | 1 => ⟨8, 7, 127, true, true⟩
  | 2 => ⟨5, 10, 15, true, true⟩
  | 3 => ⟨4, 3, 7, false, true⟩
  | 4 => ⟨5, 2, 15, true, true⟩
  | 5 => ⟨3, 2, 3, false, false⟩
  | 6 => ⟨2, 3, 1, false, false⟩
  | 7 => ⟨2, 1, 1, false, false⟩
  | _ => ⟨0, 0, 0, false, false⟩

/-- INT8's code. -/
def int8 : Nat := 8

/-- Element bits (Table 5.1). -/
def elemBits (code : Nat) : Nat := if code == int8 then 8 else 1 + (fmtOf code).ebits + (fmtOf code).mbits

/-- Exponent of the largest normal binade (Table 5.2). -/
def emaxOf (code : Nat) : Int :=
  match code with
  | 0 => 127
  | 1 => 127
  | 2 => 15
  | 3 => 8
  | 4 => 15
  | 5 => 4
  | 6 => 2
  | 7 => 2
  | _ => 0

/-- The largest finite value as (n, u): n × 2^u. -/
def largestOf (code : Nat) : Nat × Int :=
  if code == int8 then (127, -6)
  else if code == 3 then (14, 5)
  else (2 ^ ((fmtOf code).mbits + 1) - 1, emaxOf code - (fmtOf code).mbits)

/-- The bits of an element decoded (R98, R100, R101). -/
def decodeElem (code bits_ : Nat) : Val :=
  if code == int8 then
    let i := signed 8 bits_
    if i == 0 then Val.zero else .fin (decide (i < 0)) i.natAbs (-6)
  else
    let f := fmtOf code
    let m := bits_ % 2 ^ f.mbits
    let ef := bits_ / 2 ^ f.mbits % 2 ^ f.ebits
    let s := bit bits_ (f.mbits + f.ebits)
    let top := ef == 2 ^ f.ebits - 1
    if top && f.hasInf then (if m == 0 then .inf s else .nan)
    else if top && f.hasNaN && m == 2 ^ f.mbits - 1 then .nan
    else if ef == 0 then .fin s m (1 - (f.bias : Int) - f.mbits)
    else .fin s (2 ^ f.mbits + m) ((ef : Int) - f.bias - f.mbits)

/-- The canonical NaN of a format that has NaN (Table 5.3). -/
def canonNaN (code : Nat) : Nat :=
  match code with
  | 0 => 0x7FC00000
  | 1 => 0x7FC0
  | 2 => 0x7E00
  | 3 => 0x7F
  | 4 => 0x7F
  | _ => 0

/-- A sign put at the top of an element. -/
def withSign (code : Nat) (neg : Bool) (mag : Nat) : Nat := mag + b2n neg * 2 ^ (elemBits code - 1)

/-- The bits of ± n × 2^u, where n × 2^u is a value of the format. -/
def encodeFin (code : Nat) (neg : Bool) (n : Nat) (u : Int) : Nat :=
  if code == int8 then twos 8 (if neg then -(n : Int) else n)
  else
    let f := fmtOf code
    -- a carry out of the significand gives an even n one binade up
    let p : Nat × Int := if 2 ^ (f.mbits + 1) ≤ n then (n / 2, u + 1) else (n, u)
    if p.1 < 2 ^ f.mbits then withSign code neg p.1
    else withSign code neg ((p.2 + f.mbits + f.bias).toNat * 2 ^ f.mbits + (p.1 - 2 ^ f.mbits))

/-- The largest finite value's bits. -/
def largestBits (code : Nat) (neg : Bool) : Nat := encodeFin code neg (largestOf code).1 (largestOf code).2

/-- An infinity's bits in a format that has it. -/
def infBits (code : Nat) (neg : Bool) : Nat :=
  withSign code neg ((2 ^ (fmtOf code).ebits - 1) * 2 ^ (fmtOf code).mbits)

/-- m × 2^e ≤ n × 2^u. -/
def magLe (m : Nat) (e : Int) (n : Nat) (u : Int) : Bool :=
  if e ≤ u then decide (m ≤ n * 2 ^ (u - e).toNat) else decide (m * 2 ^ (e - u).toNat ≤ n)

/-- ⌊log2⌋ of m × 2^e, m nonzero. -/
def ilog2 (m : Nat) (e : Int) : Int := (Nat.log2 m : Int) + e

/-- A quotient m / 2^k rounded to an integer: to nearest even, or up when the top 16 dropped bits and `r16` carry
(R109). -/
def roundShift (m k : Nat) (stoch : Bool) (r16 : Nat) : Nat :=
  let n := m / 2 ^ k
  let rem := m % 2 ^ k
  if stoch then (if 65536 ≤ rem * 65536 / 2 ^ k + r16 then n + 1 else n)
  else if 2 ^ k < 2 * rem || (2 * rem == 2 ^ k && n % 2 == 1 && k != 0) then n + 1 else n

/-- A finite nonzero magnitude rounded to a format: n and the unit's exponent (R109). -/
def roundTo (code : Nat) (m : Nat) (e : Int) (stoch : Bool) (r16 : Nat) : Nat × Int :=
  let f := fmtOf code
  let u : Int := if code == int8 then -6 else max (ilog2 m e) (1 - (f.bias : Int)) - f.mbits
  if u ≤ e then (m * 2 ^ (e - u).toNat, u) else (roundShift m (u - e).toNat stoch r16, u)

/-- How a value converts: rounding, saturation, block layout. -/
structure ConvMode where
  stoch : Bool
  nonsat : Bool
  block : Bool
  deriving DecidableEq, Repr, Inhabited

/-- An element converted (R110, Table 5.7): its bits, or none when it poisons its block. -/
def convElem (code : Nat) (md : ConvMode) (r16 : Nat) (x : Val) : Option Nat :=
  let f := fmtOf code
  match x with
  | .nan => if f.hasNaN then some (canonNaN code) else none
  | .inf s =>
    if f.hasInf then some (infBits code s)
    else if !md.nonsat then some (largestBits code s)
    else if f.hasNaN then some (canonNaN code) else none
  | .fin s 0 _ => some (if code == int8 then 0 else withSign code s 0)
  | .fin s m e =>
    let r := roundTo code m e md.stoch r16
    if magLe r.1 r.2 (largestOf code).1 (largestOf code).2 then some (encodeFin code s r.1 r.2)
    else if md.block || !md.nonsat then some (largestBits code s)
    else if f.hasInf then some (infBits code s) else some (canonNaN code)

/-- A value times 2^k. -/
def Val.scale (x : Val) (k : Int) : Val := match x with
  | .fin s m e => .fin s m (e + k)
  | y => y

/-- The finite magnitude as (m, e), 0 for a zero, NaN or infinity. -/
def Val.mag (x : Val) : Nat × Int := match x with
  | .fin _ m e => (m, e)
  | _ => (0, 0)

/-- The larger of two magnitudes. -/
def magMax (a b : Nat × Int) : Nat × Int := if magLe a.1 a.2 b.1 b.2 then b else a

/-- The scale exponent of a block (R111). -/
def blockExp (code : Nat) (xs : List Val) : Int :=
  let a := xs.foldl (fun a x => magMax a x.mag) (0, 0)
  if a.1 == 0 then -127 else clampInt (-127) 127 (ilog2 a.1 a.2 - emaxOf code)

/-- A block converted (R111): its element bits and its scale byte. `rs` gives r16 of each element. -/
def convertBlock (code : Nat) (stoch nonsat : Bool) (rs : List Nat) (xs : List Val) : List Nat × Nat :=
  let e := blockExp code xs
  let els := (xs.zip rs).map (fun p => convElem code ⟨stoch, nonsat, true⟩ p.2 (p.1.scale (-e)))
  if els.any (·.isNone) then (xs.map (fun _ => 0), 0xFF) else (els.map (·.getD 0), (e + 127).toNat)

/-- A block's elements decoded with its scale byte (R103, R104, R108). -/
def decodeBlock (code : Nat) (scale : Nat) (els : List Nat) : List Val :=
  els.map (fun b => if scale == 0xFF then .nan else (decodeElem code b).scale ((scale : Int) - 127))

/-! ### Packing (R102, R105) -/

/-- Bytes of a block's packed elements. -/
def blockElemBytes (code b : Nat) : Nat := elemBits code * b / 8

/-- Bytes of a block record (Table 5.4). -/
def recordBytes (code b : Nat) : Nat := blockElemBytes code b + 1

/-- Row pitch of a block-layout tensor of `n` records a row (R105). -/
def blockPitch (code b n : Nat) : Nat := roundUp (recordBytes code b * n) 64

/-- The elements of a packed bit string. -/
def unpackElems (code n : Nat) (bs : List Byte) : List Nat :=
  let v := leNat bs
  (List.range n).map (fun i => v / 2 ^ (elemBits code * i) % 2 ^ elemBits code)

/-- Elements packed into `len` bytes. -/
def packElems (code len : Nat) (els : List Nat) : List Byte :=
  leBytes len (els.zipIdx.foldl (fun a x => a + x.1 * 2 ^ (elemBits code * x.2)) 0)

/-- A block record decoded. -/
def readBlock (code b : Nat) (bs : List Byte) : List Val :=
  decodeBlock code (fieldAt bs (blockElemBytes code b) 1) (unpackElems code b (slice bs 0 (blockElemBytes code b)))

/-- A block record's bytes. -/
def blockBytes (code b : Nat) (p : List Nat × Nat) : List Byte := packElems code (blockElemBytes code b) p.1 ++ leBytes 1 p.2

/-! ### Where a format may stand (Table 5.1) -/

/-- In plain layout. -/
def plainOk (code : Nat) : Bool := decide (code ≤ 4)
/-- In block layout. -/
def blockOk (code : Nat) : Bool := decide (1 ≤ code) && decide (code ≤ 8)
/-- FP8. -/
def isFp8 (code : Nat) : Bool := code == 3 || code == 4
/-- A matrix operand pair (Table 5.5). -/
def pairOk (a b : Nat) : Bool :=
  (decide (3 ≤ a) && decide (a ≤ 8) && decide (3 ≤ b) && decide (b ≤ 8))
    || ((a == 1 || a == 2) && (b == 1 || b == 2))

end Sys2Proof.Machine
end

