-- ==== Sys2Proof/Machine/Tables.lean ====
section
/-! DEFINITION. The table-based functions of the vector unit (R113, R205, Table 9.6): a microprogram's results are free
within the error that the manual bounds, 2 ulp over a function's domain and 2^-149 outside it (log 7). The exact values
are computed in fixed point with 320 fraction bits, whose own error `slack` bounds with much room. -/
namespace Sys2Proof.Machine

/-! ### Fixed point -/

/-- Fraction bits. -/
def fixBits : Nat := 320

/-- One. -/
def fixOne : Nat := 2 ^ fixBits

/-- m × 2^e in fixed point, rounded down. -/
def fixOf (m : Nat) (e : Int) : Nat :=
  if 0 ≤ e + fixBits then m * 2 ^ (e + fixBits).toNat else m / 2 ^ (-(e + fixBits)).toNat

/-- A product. -/
def fixMul (a b : Nat) : Nat := a * b / fixOne

/-- A quotient; 0 for division by 0. -/
def fixDiv (a b : Nat) : Nat := a * fixOne / b

/-- The square root. -/
def fixSqrt (a : Nat) : Nat := rootBits 2 (a * fixOne) 520 0

/-- Terms x^k / k! from `t` on, summed: `n` of them. -/
def expSum (x : Nat) : Nat → Nat → Nat → Nat
  | 0, _, _ => 0
  | n + 1, k, t => t + expSum x n (k + 1) (fixMul t x / k)

/-- e^x for x below 512: the series of x / 1,024, squared ten times. -/
def fixExp (x : Nat) : Nat := (List.range 10).foldl (fun r _ => fixMul r r) (expSum (x / 1024) 80 1 fixOne)

/-- The series of atanh (or atan, with alternating signs) from the power `p` of t on: `n` terms p / k, k rising by 2. -/
def oddSum (t2 : Nat) (alternate : Bool) : Nat → Nat → Nat → Int
  | 0, _, _ => 0
  | n + 1, k, p => (p / k : Nat) + (if alternate then -1 else 1) * oddSum t2 alternate n (k + 2) (fixMul p t2)

/-- atanh or atan of t. -/
def fixOdd (alternate : Bool) (t : Nat) : Int := oddSum (fixMul t t) alternate 160 1 t

/-- ln 2. -/
def fixLn2 : Int := 2 * fixOdd false (fixDiv 1 3)

/-- ln of m × 2^e, for m not 0. -/
def fixLn (m : Nat) (e : Int) : Int :=
  let b := bitlen m - 1
  (e + b) * fixLn2 + 2 * fixOdd false (fixDiv (m - 2 ^ b) (m + 2 ^ b))

/-- The circle's number, by Machin's formula. -/
def fixPi : Int := 16 * fixOdd true (fixDiv 1 5) - 4 * fixOdd true (fixDiv 1 239)

/-- Terms of the error function's series: p = x^(2k+1) / k!, alternating. -/
def erfSum (x2 : Nat) : Nat → Nat → Nat → Int
  | 0, _, _ => 0
  | n + 1, k, p => (p / (2 * k + 1) : Nat) - erfSum x2 n (k + 1) (fixMul p x2 / (k + 1))

/-- erf x for x up to 6. -/
def fixErf (x : Nat) : Nat := fixDiv (2 * (erfSum (fixMul x x) 400 0 x).toNat) (fixSqrt fixPi.toNat)

/-- The error of the fixed-point values: far more than they have. -/
def slack (a : Nat) : Nat := a / 2 ^ 150 + 2 ^ 100

/-! ### FP32 magnitudes -/

/-- The value of a finite FP32 magnitude in fixed point. -/
def fixBitsVal (b : Nat) : Nat :=
  let x := b / 2 ^ 23
  if x == 0 then b * 2 ^ (fixBits - 149) else (2 ^ 23 + b % 2 ^ 23) * 2 ^ (fixBits + x - 150)

/-- The largest finite FP32 magnitude. -/
def maxBits : Nat := 0x7F7FFFFF

/-- The unbiased exponent of a value, -126 for subnormal ones. -/
def fixExpo (a : Nat) : Int := max ((bitlen a : Int) - 1 - fixBits) (-126)

/-- The FP32 magnitude at or just below a value. -/
def floorBits (a : Nat) : Nat :=
  let e := fixExpo a
  (e + 126).toNat * 2 ^ 23 + a / 2 ^ (e - 23 + fixBits).toNat

/-- What a result may be: its sign, its exact magnitude, and whether the bound is 2^-149 in place of 2 ulp. -/
structure Approx where
  neg : Bool
  mag : Nat
  small : Bool
  deriving DecidableEq, Repr

/-- The bound in fixed point: 2 ulp of the exact value, or 2^-149. -/
def Approx.bound (x : Approx) : Nat :=
  if x.small then 2 ^ (fixBits - 149) else 2 * 2 ^ (fixExpo x.mag - 23 + fixBits).toNat

/-- The distance of two naturals. -/
def dist (a b : Nat) : Nat := (a - b) + (b - a)

/-- The FP32 magnitudes within the bound of the exact value. -/
def Approx.results (x : Approx) : List Nat :=
  ((List.range 6).map (fun i => floorBits x.mag + i - 2)).filter (fun b =>
    decide (b ≤ maxBits) && decide (dist (fixBitsVal b) x.mag + slack x.mag ≤ x.bound))

/-- A free choice among the results that the bound allows. -/
def Approx.pick (x : Approx) (free : W32) : W32 :=
  let l := x.results
  BitVec.ofNat 32 (nth l (free.toNat % max l.length 1) (floorBits x.mag) + 2 ^ 31 * b2n x.neg)

end Sys2Proof.Machine
end

