-- ==== Sys2Proof/Machine/Arith.lean ====
section
/-! DEFINITION. FP32 arithmetic of the vector unit (R113), maxima, minima and comparisons (R114), and the table-based
functions: exact special results, and free values for the rest (Table 9.6, log 7). -/
namespace Sys2Proof.Machine

/-- An FP32 word decoded. -/
def dec32 (w : W32) : Val := decodeElem 0 w.toNat

/-- A value rounded once to FP32 by RNE, overflow to infinity, the canonical NaN for NaN (R113). -/
def enc32 (x : Val) : W32 := BitVec.ofNat 32 ((convElem 0 ⟨false, true, false⟩ 0 x).getD 0)

/-- The canonical FP32 NaN. -/
def nan32 : W32 := 0x7FC00000

/-- Two finite values as integers over one exponent. -/
def aligned (s : Bool) (m : Nat) (e emin : Int) : Int :=
  let v : Int := (m * 2 ^ (e - emin).toNat : Nat)
  if s then -v else v

/-- An integer times 2^e as a value; zero is +0 unless `negZero`. -/
def ofInt (v : Int) (e : Int) (negZero : Bool) : Val :=
  if v == 0 then .fin negZero 0 0 else .fin (decide (v < 0)) v.natAbs e

/-- The exact sum. -/
def Val.add (a b : Val) : Val :=
  match a, b with
  | .nan, _ => .nan
  | _, .nan => .nan
  | .inf s, .inf t => if s == t then .inf s else .nan
  | .inf s, _ => .inf s
  | _, .inf t => .inf t
  | .fin s m e, .fin t n f =>
    let k := min e f
    ofInt (aligned s m e k + aligned t n f k) k (m == 0 && n == 0 && s && t)

/-- The exact product. -/
def Val.mul (a b : Val) : Val :=
  match a, b with
  | .nan, _ => .nan
  | _, .nan => .nan
  | .inf s, .inf t => .inf (s != t)
  | .inf s, .fin t n _ => if n == 0 then .nan else .inf (s != t)
  | .fin s m _, .inf t => if m == 0 then .nan else .inf (s != t)
  | .fin s m e, .fin t n f => .fin (s != t) (m * n) (e + f)

/-- The negation. -/
def Val.neg (a : Val) : Val := match a with
  | .nan => .nan
  | .inf s => .inf (!s)
  | .fin s m e => .fin (!s) m e

/-- add -/
def fadd (a b : W32) : W32 := enc32 ((dec32 a).add (dec32 b))
/-- mul -/
def fmul (a b : W32) : W32 := enc32 ((dec32 a).mul (dec32 b))
/-- fma: one rounding -/
def ffma (a b c : W32) : W32 := enc32 (((dec32 a).mul (dec32 b)).add (dec32 c))
/-- The exact negation; the canonical NaN for NaN (R205). -/
def fneg (a : W32) : W32 := enc32 (dec32 a).neg
/-- add(a, −b) -/
def fsub (a b : W32) : W32 := enc32 ((dec32 a).add (dec32 b).neg)
/-- The exact magnitude. -/
def fabs (a : W32) : W32 := enc32 (match dec32 a with
  | .fin _ m e => .fin false m e
  | .inf _ => .inf false
  | .nan => .nan)

/-- Whether a word is a NaN. -/
def isNaN (a : W32) : Bool := dec32 a == .nan

/-- Whether a value is a zero. -/
def Val.isZero (a : Val) : Bool := match a with
  | .fin _ m _ => m == 0
  | _ => false

/-- a < b, neither NaN; −0 is not below +0. -/
def Val.lt (a b : Val) : Bool :=
  match a, b with
  | .nan, _ => false
  | _, .nan => false
  | .inf s, .inf t => s && !t
  | .inf s, _ => s
  | _, .inf t => !t
  | .fin s m e, .fin t n f => decide (aligned s m e (min e f) < aligned t n f (min e f))

/-- a == b (Table 5.9). -/
def Val.eqv (a b : Val) : Bool :=
  match a, b with
  | .nan, _ => false
  | _, .nan => false
  | .inf s, .inf t => s == t
  | .fin s m e, .fin t n f => aligned s m e (min e f) == aligned t n f (min e f)
  | _, _ => false

/-- The larger: one NaN gives the other; +0 over −0 (Table 5.9). -/
def fmax (a b : W32) : W32 :=
  let x := dec32 a
  let y := dec32 b
  if isNaN a && isNaN b then nan32
  else if isNaN a then b else if isNaN b then a
  else if x.isZero && y.isZero then (if a == 0 || b == 0 then 0 else a)
  else if x.lt y then b else a

/-- The smaller: −0 under +0. -/
def fmin (a b : W32) : W32 :=
  let x := dec32 a
  let y := dec32 b
  if isNaN a && isNaN b then nan32
  else if isNaN a then b else if isNaN b then a
  else if x.isZero && y.isZero then (if a == 0x80000000 || b == 0x80000000 then 0x80000000 else a)
  else if x.lt y then a else b

/-- The magnitude maximum of a list: NaN only when every input is NaN (Table 5.9); +0 of none. -/
def famax (l : List W32) : W32 :=
  match l.filter (fun a => !isNaN a) with
  | [] => if l.isEmpty then 0 else nan32
  | xs => xs.foldl (fun m a => fmax m (fabs a)) 0

/-- 1.0 or +0. -/
def flag32 (b : Bool) : W32 := if b then 0x3F800000 else 0

/-! ### Table-based functions -/

/-- The free result of a table function, before the manual's bound (log 7). -/
def table (ucode : W32) (fn : Nat) (a b : W32) : W32 := Config.tableFn ucode.toNat fn a b

/-- A signed infinity. -/
def inf32 (neg : Bool) : W32 := if neg then 0xFF800000 else 0x7F800000
/-- A signed zero. -/
def zero32 (neg : Bool) : W32 := if neg then 0x80000000 else 0

/-- The sign of a value that is not NaN. -/
def Val.sign (a : Val) : Bool := match a with
  | .fin s _ _ => s
  | .inf s => s
  | .nan => false

/-- The largest finite FP32 value in fixed point. -/
def maxFix : Nat := fixBitsVal maxBits

/-- 1 less the last bit: what a function that tends to 1 is taken as where it is nearer to 1 than any bound. -/
def almostOne : Nat := fixOne - 1

/-- e^x for x = ± m × 2^e, 0 below -128. -/
def expMag (neg : Bool) (x : Nat) : Nat :=
  if neg then (if 128 * fixOne ≤ x then 0 else fixDiv fixOne (fixExp x)) else fixExp x

/-- EXP; 0x42B170A4 is the least FP32 value above 88.72. -/
def fexp (u a : W32) : W32 := match dec32 a with
  | .nan => nan32
  | .inf s => if s then 0 else inf32 false
  | .fin s m e =>
    if (dec32 a).lt (dec32 0x42B170A4) then
      (Approx.mk false (expMag s (fixOf m e)) (s && decide (8733 * fixOne < 100 * fixOf m e))).pick (table u 0x60 a 0)
    else inf32 false
/-- LOG. -/
def flog (u a : W32) : W32 := match dec32 a with
  | .nan => nan32
  | .inf s => if s then nan32 else inf32 false
  | .fin s m e => if m == 0 then inf32 true else if s then nan32
    else (Approx.mk (decide (fixLn m e < 0)) (fixLn m e).natAbs false).pick (table u 0x61 a 0)
/-- SQRT. -/
def fsqrt (u a : W32) : W32 := match dec32 a with
  | .nan => nan32
  | .inf s => if s then nan32 else inf32 false
  | .fin s m e => if m == 0 then zero32 s else if s then nan32
    else (Approx.mk false (fixSqrt (fixOf m e)) false).pick (table u 0x62 a 0)
/-- RSQRT. -/
def frsqrt (u a : W32) : W32 := match dec32 a with
  | .nan => nan32
  | .inf s => if s then nan32 else 0
  | .fin s m e => if m == 0 then inf32 s else if s then nan32
    else (Approx.mk false (fixSqrt (fixDiv fixOne (fixOf m e))) false).pick (table u 0x63 a 0)
/-- RECIP: beyond 2^126 within 2^-149; ±∞ when 1/x exceeds the largest finite value. -/
def frecip (u a : W32) : W32 := match dec32 a with
  | .nan => nan32
  | .inf s => zero32 s
  | .fin s m e =>
    let x := fixOf m e
    if m == 0 || maxFix < fixDiv fixOne x then inf32 s
    else (Approx.mk s (fixDiv fixOne x) (decide (2 ^ 126 * fixOne < x))).pick (table u 0x64 a 0)
/-- DIV: zeros, infinities and NaN give the IEEE 754 special results; a quotient outside the normal range is within 2^-149
or infinite. A normal quotient by a divisor outside 2^-126 to 2^126 is bounded by nothing (log 7). -/
def fdiv (u a b : W32) : W32 := match dec32 a, dec32 b with
  | .nan, _ => nan32
  | _, .nan => nan32
  | .inf _, .inf _ => nan32
  | .inf s, .fin t _ _ => inf32 (s != t)
  | .fin s _ _, .inf t => zero32 (s != t)
  | .fin s m e, .fin t n f =>
    let y := fixOf n f
    let q := fixDiv (fixOf m e) y
    if m == 0 && n == 0 then nan32 else if n == 0 then inf32 (s != t) else if m == 0 then zero32 (s != t)
    else if maxFix < q then inf32 (s != t)
    else if q < fixOf 1 (-126) then (Approx.mk (s != t) q true).pick (table u 0x65 a b)
    else if fixOf 1 (-126) ≤ y && y ≤ 2 ^ 126 * fixOne then (Approx.mk (s != t) q false).pick (table u 0x65 a b)
    else table u 0x65 a b
/-- TANH. -/
def ftanh (u a : W32) : W32 := match dec32 a with
  | .nan => nan32
  | .inf s => if s then 0xBF800000 else 0x3F800000
  | .fin s m e =>
    let x := fixOf m e
    let r := if 64 * fixOne ≤ x then almostOne
      else fixDiv (fixExp (2 * x) - fixOne) (fixExp (2 * x) + fixOne)
    (Approx.mk s r false).pick (table u 0x66 a 0)
/-- SIGMOID. -/
def fsigmoid (u a : W32) : W32 := match dec32 a with
  | .nan => nan32
  | .inf s => if s then 0 else 0x3F800000
  | .fin s m e =>
    let x := fixOf m e
    let r := if 128 * fixOne ≤ x then (if s then 0 else almostOne)
      else fixDiv fixOne (fixOne + expMag (!s) x)
    (Approx.mk false r false).pick (table u 0x67 a 0)
/-- ERF. -/
def ferf (u a : W32) : W32 := match dec32 a with
  | .nan => nan32
  | .inf s => if s then 0xBF800000 else 0x3F800000
  | .fin s m e =>
    let x := fixOf m e
    (Approx.mk s (if 6 * fixOne ≤ x then almostOne else fixErf x) false).pick (table u 0x68 a 0)
/-- EXP2. -/
def fexp2 (u a : W32) : W32 := match dec32 a with
  | .nan => nan32
  | .inf s => if s then 0 else inf32 false
  | .fin s m e =>
    if (dec32 a).lt (dec32 0x43000000) then
      let x := fixOf m e
      (Approx.mk false (if s && decide (180 * fixOne ≤ x) then 0 else expMag s (fixMul x fixLn2.toNat))
        (s && decide (126 * fixOne < x))).pick (table u 0x69 a 0)
    else inf32 false

end Sys2Proof.Machine
end

