-- ==== Sys2Proof/Machine/Code6864.lean ====
section
/-! DEFINITION. The 68/64 code (R301) and the five cases of a read (R302): a shortened RS(255,251) code over
GF(256) with field polynomial 0x11D. The decoder is stated on the ERROR PATTERN of a stored codeword, which by
linearity has the syndromes of the stored codeword itself (log 6). -/
namespace Sys2Proof.Machine

/-- α times a field element (R301: field polynomial 0x11D, α = 2). -/
def gfDouble (a : Byte) : Byte := if a.getLsbD 7 then (a <<< 1) ^^^ 0x1D else a <<< 1

/-- Field product, by the `n` low bits of the second factor. -/
def gfMulAux : Nat → Byte → Byte → Byte
  | 0, _, _ => 0
  | n + 1, a, b => (if b.getLsbD 0 then a else 0) ^^^ gfMulAux n (gfDouble a) (b >>> 1)

/-- The product of two elements of GF(256). -/
def gfMul (a b : Byte) : Byte := gfMulAux 8 a b

/-- α^n. -/
def gfPow : Nat → Byte
  | 0 => 1
  | n + 1 => gfDouble (gfPow n)

/-- The remainder register after one more data byte: division by g(x) = x^4 + 0F x^3 + 36 x^2 + 78 x + 40. -/
def checkStep (c : Byte × Byte × Byte × Byte) (d : Byte) : Byte × Byte × Byte × Byte :=
  let f := c.1 ^^^ d
  (c.2.1 ^^^ gfMul f 0x0F, c.2.2.1 ^^^ gfMul f 0x36, c.2.2.2 ^^^ gfMul f 0x78, gfMul f 0x40)

/-- The four check bytes c_0 to c_3 of 64 data bytes (R301). -/
def checkBytes (data : List Byte) : List Byte :=
  let c := data.foldl checkStep (0, 0, 0, 0)
  [c.1, c.2.1, c.2.2.1, c.2.2.2]

/-- Syndrome `k` of a 68-byte word: its value at α^k, byte i being the coefficient of x^(67 - i) (R301). -/
def syndrome (k : Nat) (w : List Byte) : Byte :=
  w.foldl (fun acc b => gfMul acc (gfPow k) ^^^ b) 0

/-- The four syndromes. -/
def syndromes (w : List Byte) : List Byte := [syndrome 0 w, syndrome 1 w, syndrome 2 w, syndrome 3 w]

/-- The found-poison pattern on a 68-byte word (R302). -/
def foundPattern : List Byte := zeros 64 ++ [0xA5, 0xA5, 0xA5, 0xA5]

/-- The carried-poison pattern on a 68-byte word (R302). -/
def carriedPattern : List Byte := zeros 64 ++ [0x5A, 0x5A, 0x5A, 0x5A]

/-- A 68-byte word with value `v` at place `i` and zeros elsewhere. -/
def errAt (i : Nat) (v : Byte) : List Byte := (zeros 68).set i v

/-- The one-byte error with the syndromes `s`, when there is one: S1/S0 names the place and S0 the value. -/
def oneError (s : List Byte) : Option (List Byte) :=
  let s0 := nth s 0 0
  if s0 == 0 then none
  else
    (List.range 68).findSome? (fun i =>
      if syndromes (errAt i s0) == s then some (errAt i s0) else none)

/-- The inverse of a field element: a^254. -/
def gfInv (a : Byte) : Byte :=
  let a2 := gfMul a a
  let a4 := gfMul a2 a2
  let a8 := gfMul a4 a4
  let a16 := gfMul a8 a8
  let a32 := gfMul a16 a16
  let a64 := gfMul a32 a32
  let a128 := gfMul a64 a64
  gfMul a128 (gfMul a64 (gfMul a32 (gfMul a16 (gfMul a8 (gfMul a4 a2)))))

/-- The values at places `i` and `j` that give syndromes 0 and 1: e_i + e_j = S0, X_i e_i + X_j e_j = S1. -/
def pairValues (s0 s1 : Byte) (i j : Nat) : Byte × Byte :=
  let xi := gfPow (67 - i)
  let xj := gfPow (67 - j)
  let ej := gfMul (s1 ^^^ gfMul xi s0) (gfInv (xi ^^^ xj))
  (s0 ^^^ ej, ej)

/-- The two-byte error with the syndromes `s`, when there is one (distance 5 makes it the only one, R301). -/
def twoErrors (s : List Byte) : Option (List Byte) :=
  (List.range 68).findSome? (fun i =>
    (List.range i).findSome? (fun j =>
      let v := pairValues (nth s 0 0) (nth s 1 0) i j
      let e := ((zeros 68).set i v.1).set j v.2
      if syndromes e == s then some e else none))

/-- The case a read of a codeword meets (R302). -/
inductive ReadCase where
  | good
  | found
  | carried
  /-- Two or fewer byte errors explain the syndromes: the error the decoder takes away. -/
  | corrected (e : List Byte)
  | uncorrectable
  deriving DecidableEq, Repr

/-- The first case of R302 that fits a stored word (or its error pattern: the syndromes are the same). -/
def readCase (w : List Byte) : ReadCase :=
  let s := syndromes w
  if s == [0, 0, 0, 0] then .good
  else if s == syndromes foundPattern then .found
  else if s == syndromes carriedPattern then .carried
  else match oneError s with
    | some e => .corrected e
    | none => match twoErrors s with
      | some e => .corrected e
      | none => .uncorrectable

/-- The case number of R302, 1 to 5. -/
def ReadCase.number : ReadCase → Nat
  | .good => 1
  | .found => 2
  | .carried => 3
  | .corrected _ => 4
  | .uncorrectable => 5

/-- The bytes XORed one by one. -/
def xorBytes (a b : List Byte) : List Byte := List.zipWith (· ^^^ ·) a b

end Sys2Proof.Machine
end

