-- ==== Sys2Proof/Machine/Mem.lean ====
section
/-! DEFINITION. A memory under the 68/64 code (R73, R86, R301 to R305): the data bytes as they were last written,
and the error bytes by which the stored codewords differ from the codewords of those data (log 6). Both lists are
sparse, strictly rising in the key, and hold no entry equal to what an unlisted key reads as. Codeword `cw` holds
data bytes 64 cw to 64 cw + 63; its error byte k (0 to 63 data, 64 to 67 check) has the key 68 cw + k. -/
namespace Sys2Proof.Machine

/-- The byte listed at a key, or none. -/
def cellGet : List Host.Cell → Nat → Option Byte
  | [], _ => none
  | (k, v) :: l, a => if k = a then some v else cellGet l a

/-- The list with `a` listed as `v`, in order. -/
def cellPut : List Host.Cell → Nat → Byte → List Host.Cell
  | [], a, v => [(a, v)]
  | (k, w) :: l, a, v =>
    if a < k then (a, v) :: (k, w) :: l
    else if a = k then (a, v) :: l
    else (k, w) :: cellPut l a v

/-- The list without key `a`. -/
def cellDel (l : List Host.Cell) (a : Nat) : List Host.Cell := l.filter (fun c => c.1 ≠ a)

/-- Strictly rising keys. -/
def cellsRising : List Host.Cell → Bool
  | [] => true
  | [_] => true
  | a :: b :: l => decide (a.1 < b.1) && cellsRising (b :: l)

/-- A memory: data cells, error cells, and which background an unlisted data byte shows: one number for each
stretch of a stack's length, missing ones being 0. -/
structure Mem where
  cells : List Host.Cell
  err : List Host.Cell
  bg : List Nat
  deriving DecidableEq, Repr, Inhabited

/-- What an unlisted data byte reads as: 0 for background 0, else what the chip reset left there (R418, log 5). -/
def background (bg : List Nat) (a : Nat) : Byte :=
  match nth bg (a / (Config.groupsPerStack * 1024)) 0 with
  | 0 => 0
  | g + 1 => Config.hbmUndefined g a

/-- A memory of zeros with correct check bytes. -/
def Mem.zero : Mem := ⟨[], [], []⟩

/-- The data byte as last written. -/
def Mem.data (m : Mem) (a : Nat) : Byte := (cellGet m.cells a).getD (background m.bg a)

/-- The error byte at a key. -/
def Mem.errB (m : Mem) (k : Nat) : Byte := (cellGet m.err k).getD 0

/-- The canonical form: rising keys, no entry that an unlisted key would show. -/
def Mem.wf (m : Mem) : Bool :=
  cellsRising m.cells && cellsRising m.err
    && m.cells.all (fun c => c.2 != background m.bg c.1) && m.err.all (fun c => c.2 != 0)

/-- One data byte written. -/
def Mem.putData (m : Mem) (a : Nat) (v : Byte) : Mem :=
  { m with cells := if v = background m.bg a then cellDel m.cells a else cellPut m.cells a v }

/-- One error byte written. -/
def Mem.putErr (m : Mem) (k : Nat) (v : Byte) : Mem :=
  { m with err := if v = 0 then cellDel m.err k else cellPut m.err k v }

/-- Data bytes written one after another from `a`. -/
def Mem.putDatas (m : Mem) : Nat → List Byte → Mem
  | _, [] => m
  | a, b :: bs => (m.putData a b).putDatas (a + 1) bs

/-- Error bytes written one after another from key `k`. -/
def Mem.putErrs (m : Mem) : Nat → List Byte → Mem
  | _, [] => m
  | k, b :: bs => (m.putErr k b).putErrs (k + 1) bs

/-- Data bytes `a` to `a + n - 1` as last written. -/
def Mem.datas (m : Mem) (a n : Nat) : List Byte := (List.range n).map (fun i => m.data (a + i))

/-- The 68 error bytes of a codeword. -/
def Mem.errOf (m : Mem) (cw : Nat) : List Byte := (List.range 68).map (fun k => m.errB (68 * cw + k))

/-- The case a read of codeword `cw` meets (R302). -/
def Mem.caseOf (m : Mem) (cw : Nat) : ReadCase :=
  let e := m.errOf cw
  if e.all (· == 0) then .good else readCase e

/-- The 64 bytes that a read of codeword `cw` delivers: corrected when R302 corrects, else as stored. -/
def Mem.deliver (m : Mem) (cw : Nat) : List Byte :=
  let raw := xorBytes (m.datas (64 * cw) 64) (m.errOf cw)
  match m.caseOf cw with
  | .corrected e => xorBytes raw e
  | _ => raw

/-- The byte that a read of address `a` delivers. -/
def Mem.peek (m : Mem) (a : Nat) : Byte := nth (m.deliver (a / 64)) (a % 64) 0

/-- A whole codeword stored with the error pattern `e` (zeros: clean; a poison pattern: poisoned). -/
def Mem.setCw (m : Mem) (cw : Nat) (d e : List Byte) : Mem := (m.putDatas (64 * cw) d).putErrs (68 * cw) e

/-- Case 5 of R302: the codeword is rewritten with the found pattern, its data bytes as read. -/
def Mem.markFound (m : Mem) (cw : Nat) : Mem := m.setCw cw (m.deliver cw) foundPattern

/-- What an access met, codeword by codeword (R302, R303, R306). -/
structure Seen where
  corrected : List Nat
  uncorrectable : List Nat
  found : List Nat
  carried : List Nat
  deriving DecidableEq, Repr, Inhabited

/-- Nothing met. -/
def Seen.none : Seen := ⟨[], [], [], []⟩

/-- Two accesses together. -/
def Seen.add (a b : Seen) : Seen :=
  ⟨a.corrected ++ b.corrected, a.uncorrectable ++ b.uncorrectable, a.found ++ b.found, a.carried ++ b.carried⟩

/-- Whether a poisoned or uncorrectable codeword was read. -/
def Seen.poisoned (s : Seen) : Bool := !(s.uncorrectable.isEmpty && s.found.isEmpty && s.carried.isEmpty)

/-- The number of poisoned codewords read. -/
def Seen.poisonCount (s : Seen) : Nat := s.uncorrectable.length + s.found.length + s.carried.length

/-- One codeword read through the decoder (R302): the memory after it and what was met. -/
def Mem.readCw (m : Mem) (cw : Nat) : Mem × Seen :=
  match m.caseOf cw with
  | .good => (m, Seen.none)
  | .found => (m, { Seen.none with found := [cw] })
  | .carried => (m, { Seen.none with carried := [cw] })
  | .corrected _ => (m, { Seen.none with corrected := [cw] })
  | .uncorrectable => (m.markFound cw, { Seen.none with uncorrectable := [cw] })

/-- The codewords that `n` bytes from `a` touch. -/
def cwsOf (a n : Nat) : List Nat :=
  if n = 0 then [] else (List.range ((a + n - 1) / 64 - a / 64 + 1)).map (fun i => a / 64 + i)

/-- Codewords read one after another. -/
def Mem.readCws (m : Mem) : List Nat → Mem × Seen
  | [] => (m, Seen.none)
  | cw :: l =>
    let r := m.readCw cw
    let q := r.1.readCws l
    (q.1, r.2.add q.2)

/-- A byte with its taint: whether it came from a poisoned codeword (R305). -/
abbrev TByte := Byte × Bool

/-- Bytes without taint. -/
def clean (bs : List Byte) : List TByte := bs.map (fun b => (b, false))

/-- Bytes all tainted or all not. -/
def tagged (t : Bool) (bs : List Byte) : List TByte := bs.map (fun b => (b, t))

/-- Whether any byte is tainted. -/
def anyTaint (bs : List TByte) : Bool := bs.any (·.2)

/-- `n` bytes delivered from `a`, with taint, the memory after the reads, and what was met. -/
def Mem.fetch (m : Mem) (a n : Nat) : List TByte × Mem × Seen :=
  let r := m.readCws (cwsOf a n)
  let bad := r.2.uncorrectable ++ r.2.found ++ r.2.carried
  ((List.range n).map (fun i => (m.peek (a + i), bad.contains ((a + i) / 64))), r.1, r.2)

/-- The bytes of `bs` (from `a`) that fall into codeword `cw`: its places 0 to 63, `none` where not written. -/
def cwPart (a : Nat) (bs : List TByte) (cw : Nat) : List (Option TByte) :=
  (List.range 64).map (fun i => if 64 * cw + i < a then none else bs[64 * cw + i - a]?)

/-- The pattern of a codeword written from data with this taint (R302, R305). -/
def patternFor (taint : Bool) : List Byte := if taint then carriedPattern else zeros 68

/-- One codeword written in whole or in part (R74, R304, R305). -/
def Mem.storeCw (m : Mem) (cw : Nat) (part : List (Option TByte)) : Mem × Seen :=
  let taint := part.any (fun o => match o with | some b => b.2 | none => false)
  if part.all (·.isSome) then
    (m.setCw cw (part.map (fun o => (o.getD (0, false)).1)) (patternFor taint), Seen.none)
  else
    let merged := List.zipWith (fun o d => match o with | some (b, _) => b | none => d) part (m.deliver cw)
    match m.caseOf cw with
    | .good => (m.setCw cw merged (patternFor taint), Seen.none)
    | .corrected _ => (m.setCw cw merged (patternFor taint), { Seen.none with corrected := [cw] })
    | .found => (m, { Seen.none with found := [cw] })
    | .carried => (m, { Seen.none with carried := [cw] })
    | .uncorrectable => (m.markFound cw, { Seen.none with uncorrectable := [cw] })

/-- Codewords written one after another. -/
def Mem.storeCws (m : Mem) (a : Nat) (bs : List TByte) : List Nat → Mem × Seen
  | [] => (m, Seen.none)
  | cw :: l =>
    let r := m.storeCw cw (cwPart a bs cw)
    let q := r.1.storeCws a bs l
    (q.1, r.2.add q.2)

/-- Bytes written from `a`. -/
def Mem.store (m : Mem) (a : Nat) (bs : List TByte) : Mem × Seen := m.storeCws a bs (cwsOf a bs.length)

/-- Bytes written from `a`, what was met in the merges left aside. -/
def Mem.write (m : Mem) (a : Nat) (bs : List Byte) : Mem := (m.store a (clean bs)).1

/-- Bytes delivered from `a`, without the side of the reads. -/
def Mem.peeks (m : Mem) (a n : Nat) : List Byte := (List.range n).map (fun i => m.peek (a + i))

/-- Physical flips (Hw): a key below 2^48 is a data byte's address, above it a check byte. -/
def Mem.flip (m : Mem) (f : Nat × Byte) : Mem :=
  if f.1 < 2 ^ 48 then
    let k := 68 * (f.1 / 64) + f.1 % 64
    m.putErr k (m.errB k ^^^ f.2)
  else
    let k := 68 * ((f.1 - 2 ^ 48) / 4) + 64 + (f.1 - 2 ^ 48) % 4
    m.putErr k (m.errB k ^^^ f.2)

/-- All flips of a list. -/
def Mem.flips (m : Mem) (fs : List (Nat × Byte)) : Mem := fs.foldl Mem.flip m

end Sys2Proof.Machine
end

