-- ==== Sys2Proof/Machine/Parts.lean ====
section
/-! DEFINITION. The parts of the state, one record per piece of the chip the manual describes. Times are counted in
core cycles or ticks as natural numbers; registers that software reads as words are bit vectors. -/
namespace Sys2Proof.Machine

/-! ### What the chip has sent out (log 3) -/

/-- A 32-byte completion entry (Table 15.6), less its CRC, which R367 computes. -/
structure Completion where
  tag : Nat
  status : Nat
  detail : Nat
  result : Nat
  time : Nat
  jseq : Nat
  deriving DecidableEq, Repr, Inhabited

/-- One thing the chip did that an outside agent sees, in order of happening. -/
inductive Output where
  /-- bytes written to host memory over PCIe at a host bus address, by a function -/
  | hostWrite (fn addr : Nat) (data : List Byte)
  /-- such a write with the poisoned bit of its TLP set (R176) -/
  | hostPoisoned (fn addr : Nat) (data : List Byte)
  /-- an MSI-X message (R438) -/
  | msix (fn vec : Nat)
  /-- an Aqvel sideband message to an endpoint: its kind byte and body (Table 15.4) -/
  | sideband (eid : Byte) (kind : Nat) (body : List Byte)
  /-- the MCTP answer to Set Endpoint ID -/
  | mctpAssigned (eid : Byte)
  /-- the value a register read answers -/
  | regRead (fn off value : Nat)
  /-- the answer of a BAR2 read: offset, bytes, poisoned bit (R436) -/
  | bar2 (fn off : Nat) (data : List Byte) (poisoned : Bool)
  /-- a cell at port egress with its slot -/
  | cell (port slot : Nat) (bytes : List Byte)
  /-- one lane's framed group of 25,700 bits, scrambled (R211, R213) -/
  | group (port lane : Nat) (bits : BitVec 25700)
  /-- an output land changed its level: 0 FAULT_N, 1 THERMTRIP_N, 2 FL_PERST_N; true is asserted -/
  | pin (land : Nat) (asserted : Bool)
  /-- the target voltage written over AVSBus, in mV (R411) -/
  | avs (mv : Nat)
  /-- an NVMe command (Table 18.9): opcode, namespace, first LBA, blocks, data -/
  | nvme (op ns lba blocks : Nat) (data : List Byte)
  /-- the NVMe controller disabled and enabled again (R441) -/
  | nvmeReset
  /-- the register a TAP instruction selects: 0 bypass, 1 IDCODE, 2 boundary (R447), and its captured value -/
  | tap (reg : Nat) (value : Nat)
  deriving DecidableEq, Repr, Inhabited

/-! ### Time and clocks -/

/-- An arming in progress (R29, R30). -/
structure Arming where
  token : Nat
  mask : List Nat
  /-- epoch-check cells released in the window: port, and whether token and fabric time fit -/
  seen : List (Nat × Bool)
  /-- core cycle at which the wait limit ends -/
  deadline : Nat
  /-- the epoch edge has come -/
  edge : Bool
  sent : Bool
  deriving DecidableEq, Repr, Inhabited

/-- What the core PLL runs on (R416). -/
inductive PllRef where
  | pcie
  | ftref
  | holdover
  deriving DecidableEq, Repr, Inhabited

/-- The time block (Tables 2.3 to 2.6) and what stands behind it. -/
structure TimeBlock where
  /-- free-running core-cycle counter (R34) -/
  cyc : Nat
  locked : Bool
  armed : Bool
  valid : Bool
  syncSeen : Bool
  refLost : Bool
  checkFail : Bool
  beaconFail : Bool
  slips : Nat
  tick : Nat
  cycle : Nat
  latchHi : W32
  latchCycle : Nat
  arming : Option Arming
  pll : PllRef
  ftref : Bool
  deriving DecidableEq, Repr, Inhabited

/-! ### Chip, reset, configuration flash, power, heat -/

/-- Table 17.7, with the codes 0 to 3 of Table 15.10. -/
inductive ChipState where
  | boot
  | selftest
  | hold
  | ready
  deriving DecidableEq, Repr, Inhabited

/-- Why the chip is held in reset: power, pin, thermal trip (R410, R427, R446). -/
structure Held where
  power : Bool
  pin : Bool
  trip : Bool
  deriving DecidableEq, Repr, Inhabited

/-- A self-test in progress (R422 to R424, R414). `scope` is 0xFF or a plot. -/
structure SelfTest where
  scope : Nat
  /-- 0 quick, 1 full, 2 power-on -/
  kind : Nat
  full : Bool
  step : Nat
  /-- a dip has restarted the step once -/
  restarted : Bool
  dipped : Bool
  ms : Nat
  ports : List Nat
  deriving DecidableEq, Repr, Inhabited

/-- The report of Table 15.12, less the spare-map words. -/
structure Report where
  scope : Nat
  kind : Nat
  outcome : Nat
  step : Nat
  ms : Nat
  hstacks : List Nat
  ports : List Nat
  deriving DecidableEq, Repr, Inhabited

/-- Chip-wide state: reset, straps, self-test. -/
structure Chip where
  st : ChipState
  held : Held
  profsel : Nat
  slotId : Nat
  profile : Nat
  cause : Nat
  count : Nat
  flPerst : Bool
  thermTrip : Bool
  test : Option SelfTest
  report : Report
  /-- spare-map words, one per cluster (R84) -/
  spare : List W32
  setpoint : Nat
  /-- number of chip resets that left HBM undefined (log 5) -/
  gen : Nat
  /-- a commanded chip reset waiting to act: whether the full self-test follows (R419) -/
  resetDue : Option Bool
  /-- what follows the next BOOT: the full set (R419) -/
  fullNext : Bool
  /-- a controller restart in progress: the bank restarted into, and whether FW_ACTIVATE asked (R391) -/
  restart : Option (Nat × Bool)
  ucode : W32
  /-- HBM stacks trained since reset (R422 step 3) -/
  trained : Bool
  deriving DecidableEq, Repr, Inhabited

/-- One firmware bank (R389). -/
structure FwBank where
  valid : Bool
  version : W32
  ucode : W32
  deriving DecidableEq, Repr, Inhabited

/-- An image being staged (R390). -/
structure Staging where
  length : Nat
  data : List Byte
  deriving DecidableEq, Repr, Inhabited

/-- What configuration flash keeps over reset and power cycling. -/
structure Flash where
  /-- profile records, two copies of four (R393) -/
  prof0 : List (List Byte)
  prof1 : List (List Byte)
  suspect : Bool
  banks : List FwBank
  active : Nat
  /-- FW_ACTIVATE mode 1 accepted (R391) -/
  activateNext : Bool
  staging : Option Staging
  /-- error records of kind SUSPECT and SELFTEST_FAIL, oldest first (R324) -/
  cper : List (Nat × List Byte)
  /-- records written since manufacture (R321) -/
  cperCount : Nat
  deriving DecidableEq, Repr, Inhabited

/-- One rail of the power record (Table 17.10). -/
structure Rail where
  mv : Nat
  lowest : Nat
  ma : Nat
  mw : Nat
  dips : Nat
  deriving DecidableEq, Repr, Inhabited

/-- A dip in progress (R413): the first rail (2 VSRAM, 3 VCORE), the lowest voltage, the cycle it began, and the outcome
of its own error record; none when the run it struck keeps its record. -/
structure Dip where
  rail : Nat
  lowest : Nat
  began : Nat
  record : Option Nat
  deriving DecidableEq, Repr, Inhabited

/-- One sensor (R425): state 0 normal, 1 warning, 2 critical, and the last two readings. -/
structure Sensor where
  value : Int
  peak : Int
  st : Nat
  last : Int
  fresh : Bool
  deriving DecidableEq, Repr, Inhabited

/-- Power and heat. -/
structure Power where
  rails : List Rail
  /-- energy since the last chip reset, in microjoules -/
  energy : Nat
  dip : Option Dip
  sensors : List Sensor
  /-- a power sample has been taken since READ_POWER -/
  sampled : Bool
  deriving DecidableEq, Repr, Inhabited

/-! ### Place in the installation -/

/-- SET_COORD's parameters (R379). -/
structure Coord where
  t : Nat
  e : Nat
  p : Nat
  d : Nat
  ext : List Nat
  shape : List Nat
  spare : Nat
  member : List Nat
  deriving DecidableEq, Repr, Inhabited

/-- Where the chip stands and under which map. -/
structure Place where
  coord : Option Coord
  epoch : Nat
  map : List Nat
  deriving DecidableEq, Repr, Inhabited

/-! ### The schedule image -/

/-- Table 3.5. -/
structure PortEntry where
  used : Bool
  lanes : Nat
  pinned : Nat
  deriving DecidableEq, Repr, Inhabited

/-- Table 3.6. -/
structure PhaseEntry where
  kind : Nat
  start : Nat
  length : Nat
  spill : Nat
  beacon : Nat
  deriving DecidableEq, Repr, Inhabited

/-- Table 3.9. -/
structure SlotEntry where
  tick : Nat
  phase : Nat
  slot : Nat
  tag : Nat
  kind : Nat
  tile : Nat
  out : Nat
  deriving DecidableEq, Repr, Inhabited

/-- Table 7.1. -/
structure Region where
  first : Nat
  pages : Nat
  kind : Nat
  flags : Nat
  shadow : Nat
  deriving DecidableEq, Repr, Inhabited

/-- Table 12.2. -/
structure CollEntry where
  kind : Nat
  axis : Nat
  payload : Nat
  flags : Nat
  n : Nat
  root : Nat
  mode : Nat
  size : Nat
  m : Nat
  cs : Nat
  experts : Nat
  rowBytes : Nat
  carry : Nat
  firstRec : Nat
  recCount : Nat
  deriving DecidableEq, Repr, Inhabited

/-- A refresh-window run (Table 4.8). -/
structure RefEntry where
  first : Nat
  period : Nat
  count : Nat
  deriving DecidableEq, Repr, Inhabited

/-- Table 3.10. -/
structure VarEntry where
  id : Nat
  kind : Nat
  active : Nat
  armed : Bool
  period : Nat
  armedPeriod : Nat
  deriving DecidableEq, Repr, Inhabited

/-- The sections of one variant or armed form. Descriptors and slot maps are keyed by tile or port. -/
structure Sched where
  var : Nat
  phases : List PhaseEntry
  descs : List (Nat × List (List Byte))
  slots : List (Nat × List SlotEntry)
  colls : List CollEntry
  refresh : List (Nat × List RefEntry)
  deriving DecidableEq, Repr, Inhabited

/-- A loaded member image or serving program (R43 to R54). -/
structure Image where
  id : Nat
  length : Nat
  program : Bool
  shape : List Nat
  spare : Nat
  member : List Nat
  delta : Nat
  mode : Nat
  carry : Bool
  satAccept : Bool
  seed : W64
  stepping : Nat
  ports : List PortEntry
  regions : List Region
  records : List (List Byte)
  variants : List VarEntry
  map : List Nat
  scheds : List Sched
  /-- directory index of the port table, and the byte offset of each port's entry -/
  portDir : Nat
  portAt : List Nat
  deriving DecidableEq, Repr, Inhabited

/-! ### Scale records -/

/-- A scale record (Table 5.10): its 64 bytes as last written, the committed fields in 0 to 47, the working ones in 48 to
63; what an update has written into the committed fields, which they take when the step commits (R119); and the 68 error
bytes of its codeword in the record store, none where the codeword is sound (R117, R300; log 6). -/
structure ScaleRec where
  bytes : List Byte
  next : Option (List Byte)
  err : List Byte
  deriving DecidableEq, Repr, Inhabited

/-! ### Ports -/

/-- What a neighbour's IDENTITY told (Table 10.4). -/
structure Neigh where
  t : Nat
  e : Nat
  p : Nat
  d : Nat
  port : Nat
  deriving DecidableEq, Repr, Inhabited

/-- A port's training (R215, R237): stage 1 PMD, 2 lock, 3 identity, 4 calibration, 5 all passed. -/
structure Training where
  stage : Nat
  lanes : Nat
  pinned : Nat
  /-- an IDENTITY that passed R216 was received -/
  good : Bool
  /-- one with SEEN set was received; one was sent -/
  seenRx : Bool
  seenTx : Bool
  /-- IDENTITY cells sent after both ends were seen -/
  extra : Nat
  /-- CAL_REQ cells sent, and the exchanges done: index and round trip less turn-round -/
  reqs : Nat
  trips : List (Nat × Int)
  deriving DecidableEq, Repr, Inhabited

/-- A cell waiting for its slot: phase, tag, and its bytes 0 to 247 less the fields the departure fills. -/
structure WaitCell where
  phase : Nat
  tag : Nat
  index : Nat
  poison : Bool
  void : Bool
  payload : List Byte
  deriving DecidableEq, Repr, Inhabited

/-- A forwarded cell (R226). -/
structure FwdCell where
  phase : Nat
  tag : Nat
  bytes : List Byte
  deriving DecidableEq, Repr, Inhabited

/-- A link-control cell waiting, with the earliest core cycle of its departure; `cal` marks a CAL_RESP whose t3 the
departure fills, `req` a CAL_REQ whose t1 it fills. -/
structure CtlCell where
  bytes : List Byte
  notBefore : Nat
  stampAt : Option Nat
  deriving DecidableEq, Repr, Inhabited

/-- Table 12.9. -/
structure VoteWord where
  pass : Bool
  sat : Bool
  pAnd : Nat
  pOr : Nat
  suspect : Nat
  vMin : Nat
  vMax : Nat
  counted : Nat
  failing : Nat
  deriving DecidableEq, Repr, Inhabited

/-- A vote word waiting for its entry: its stage, the earliest fabric cycle of its departure, and whether the chip's
own word, formed at that departure, is combined into it (R292). -/
structure VoteDue where
  axis : Nat
  bcast : Bool
  notBefore : Nat
  word : VoteWord
  addOwn : Bool
  deriving DecidableEq, Repr, Inhabited

/-- One receive lane (R213): groups that failed in a row, the descrambler's last 58 bits, whether the lane has
locked, and the group index it expects next. -/
structure LaneRx where
  bad : Nat
  reg : BitVec 58
  locked : Bool
  next : Option Nat
  deriving DecidableEq, Repr, Inhabited

/-- Digest and count of the data cells that a port has forwarded of a collective's round (R283). -/
structure RoundSum where
  coll : Nat
  digest : Nat
  count : Nat
  deriving DecidableEq, Repr, Inhabited

/-- A beacon that a port waits for (R38): the first tick of its run, its phase and slot, the cycle it is expected at, and
whether the beacon released matched; none while none has been released. -/
structure BeaconDue where
  base : Nat
  phase : Nat
  slot : Nat
  expected : Nat
  got : Option Bool
  deriving DecidableEq, Repr, Inhabited

/-- A background packet with its release cycle (R239). -/
structure Packet where
  bytes : List Byte
  release : Nat
  deriving DecidableEq, Repr, Inhabited

/-- One link port. -/
structure Port where
  /-- Table 10.3: 0 DOWN, 1 TRAINING, 2 ACTIVE, 3 FAILED -/
  st : Nat
  reason : Nat
  fault : Bool
  lanes : Nat
  inSlice : Bool
  measured : Nat
  pinned : Nat
  minMargin : Nat
  fecCorr : Nat
  fecUncorr : Nat
  cellErr : Nat
  late : Nat
  voidRx : Nat
  unclaimed : Nat
  train : Option Training
  neigh : Option Neigh
  seqTx : W32
  seqRx : W32
  egress : List WaitCell
  fwd : List FwdCell
  ctl : List CtlCell
  votes : List VoteDue
  /-- background packets given slots of the current tick (R244), as they came -/
  bg : List (Nat × Packet)
  beaconDue : Bool
  deriving DecidableEq, Repr, Inhabited

/-- What a port keeps for its checks. -/
structure PortCheck where
  digTx : Nat
  digRx : Nat
  /-- the beacons not yet judged, oldest first -/
  beacons : List BeaconDue
  rounds : List RoundSum
  lanes : List LaneRx
  scr : List (BitVec 58)
  /-- units of the current group of each lane: (lane, position, 16 bytes) -/
  units : List (Nat × Nat × List Byte)
  /-- fabric ticks of recent uncorrectable codewords (R233) -/
  uncorr : List Nat
  deriving DecidableEq, Repr, Inhabited

/-! ### Aqvel -/

/-- A completion waiting for room, or for COMPLETION_WRITE (R362). -/
structure Waiting where
  entry : Completion
  signal : Bool
  deriving DecidableEq, Repr, Inhabited

/-- One queue pair (Tables 15.1 to 15.3). -/
structure Pair where
  sqBase : W64
  sqSize : W32
  sqTail : W32
  sqHead : W32
  cqBase : W64
  cqSize : W32
  cqHead : W32
  cqTail : W32
  cqWb : W64
  running : Bool
  ringFault : Bool
  configErr : Bool
  waiting : List Waiting
  /-- core cycles at which the slots from SQHEAD on became visible (R371) -/
  visible : List Nat
  /-- commands taken before the pair last stopped owe nothing (R363): pair generation -/
  gen : Nat
  deriving DecidableEq, Repr, Inhabited

/-- The remembered sequence of a source and the latest completion of its command (R370). -/
structure Remembered where
  src : Source
  seq : Nat
  last : Option Completion
  deriving DecidableEq, Repr, Inhabited

/-- A command taken that still owes its final completion (R373): its opcode, slot, and its pair's generation. -/
structure Job where
  opcode : Nat
  slot : Slot
  gen : Nat
  /-- core cycle of its acceptance, and fabric tick -/
  began : Nat
  tick : Nat
  deriving DecidableEq, Repr, Inhabited

/-- An event (R386), with its record's parameters (bytes 32 to 63, shorter when zero beyond). -/
structure Event where
  seq : Nat
  tick : Nat
  step : Nat
  code : Nat
  kind : Nat
  idx : Nat
  sub : Nat
  params : List Byte
  deriving DecidableEq, Repr, Inhabited

/-- The management controller's tables. -/
structure Aqvel where
  pairs : List Pair
  memory : List Remembered
  jobs : List Job
  /-- sideband commands that have arrived and wait to be taken, with the core cycle of their arrival (R365, R371) -/
  arrived : List (Slot × Nat)
  eid : Option Byte
  buf : List Host.Cell
  /-- journal records held, oldest first, and the next sequence (R387) -/
  journal : List (Nat × List Byte)
  jnext : Nat
  events : List Event
  enext : Nat
  /-- per-source sequences: (kind, index, next) -/
  esrc : List (Nat × Nat × Nat)
  /-- error records on the die, oldest first (R324) -/
  cper : List (Nat × List Byte)
  deriving DecidableEq, Repr, Inhabited

/-! ### Faults of a run -/

/-- A fault occurrence (Table 13.9's fields that the fault itself fixes). -/
structure FaultRec where
  kind : Nat
  locKind : Nat
  loc : Nat
  sub : Nat
  desc : Nat
  addr : Nat
  count : Nat
  run : Nat
  phase : Nat
  step : Nat
  tick : Nat
  absent : Nat
  /-- it counted a failed check -/
  counted : Bool
  /-- it made the chip suspect or took a port out -/
  left : Bool
  plot : Nat
  /-- suspect mask of its run's final vote word, 0 while the run has none -/
  suspect : Nat
  deriving DecidableEq, Repr, Inhabited

/-! ### Memories -/

/-- One accumulator bank (R128, Table 6.10). -/
structure Bank where
  words : List W40
  exp : Int
  flags : Nat
  mode : Nat
  nextK : Nat
  row : Nat
  col : Nat
  deriving DecidableEq, Repr, Inhabited

/-- A ROUND that takes in cells (R270, R281, R283): its operands, its number among the tile's rounds of the collective,
whether it read a poisoned codeword, and the digests and count of the data cells it took in and sent. -/
structure RoundRx where
  o : CollOps
  number : Nat
  poison : Bool
  rxDigest : Nat
  rxCount : Nat
  txDigest : Nat
  deriving DecidableEq, Repr, Inhabited

/-- An ingress descriptor that is running (R225): where the cells of its tags go, or the ROUND that takes them. -/
structure Claim where
  port : Nat
  phase : Nat
  tag : Nat
  cells : Nat
  off : Nat
  bytes : Nat
  desc : Nat
  record : Nat
  round : Option RoundRx
  deriving DecidableEq, Repr, Inhabited

/-- What the paths of a tile's SRAM do in one core cycle (R75): the memory as it stood before the cycle, and the writes
since: (rank of the path, offset, bytes). -/
structure SameCycle where
  cycle : Nat
  before : Mem
  writes : List (Nat × Nat × List TByte)
  deriving DecidableEq, Repr, Inhabited

/-- One logical tile of the chip: SRAM, banks, draw count, counters. -/
structure Tile where
  sram : Mem
  /-- the writes of the latest cycle that wrote the SRAM (R75) -/
  same : Option SameCycle
  banks : List Bank
  /-- what the renormalizations begun in the phase draw (R130), and the cycles, counted from the start of the step or
  pass, at which the draw count rises by 8 (R63, Table 6.5) -/
  w : Nat
  draws : List Nat
  abandoned : Bool
  /-- lookahead groups held, with the bytes of their descriptors (R78) -/
  groups : List (Nat × List Byte)
  zeroed : Nat
  clamped : Nat
  wrapped : Nat
  rejected : Nat
  corrected : Nat
  /-- ticks of corrected codewords in the rate window (R303) -/
  corrTicks : List Nat
  claims : List Claim
  deriving DecidableEq, Repr, Inhabited

/-- Who refreshes a stack (R92, R93). -/
inductive RefreshBy where
  | selfRefresh
  | controller
  | image
  deriving DecidableEq, Repr, Inhabited

/-- One HBM stack. -/
structure Stack where
  corrected : Nat
  uncorrectable : Nat
  corrTicks : List Nat
  refresh : RefreshBy
  /-- core cycle of the last refresh window (R92) -/
  lastRef : Nat
  /-- above 85 degrees: refresh at the doubled rate (R94) -/
  hot : Bool
  deriving DecidableEq, Repr, Inhabited

/-- The memories of the chip. -/
structure Memories where
  hbm : Mem
  hstacks : List Stack
  tiles : List Tile
  residual : List Nat
  deriving DecidableEq, Repr, Inhabited

/-! ### Plots -/

/-- Table 15.10's plot states. -/
inductive PlotState where
  | empty
  | loaded
  | armed
  | running
  | draining
  | parked
  deriving DecidableEq, Repr, Inhabited

/-- A serving plot's pass in progress (R401, R404). -/
structure Pass where
  began : Nat
  failed : Bool
  sat : Bool
  faults : List FaultRec
  deriving DecidableEq, Repr, Inhabited

/-- One plot (R397, Tables 16.4 to 16.6). -/
structure Plot where
  st : PlotState
  clusters : List Nat
  hstacks : List Nat
  fn : Nat
  pending : Nat
  done : W32
  refused : Bool
  sat : Bool
  fault : Bool
  lastFault : Bool
  /-- core cycles of plot time since PLOT_START -/
  time : Nat
  /-- ticks of the posts that wait -/
  posts : List Nat
  pass : Option Pass
  /-- a PLOT_STOP in progress: discarded passes -/
  stopping : Option Nat
  program : Option Image
  records : List ScaleRec
  /-- failed its self-test (R424) -/
  bad : Bool
  /-- a PLOT_RECONFIG in progress: flag 0 and the program's bytes (R400) -/
  config : Option (Bool × List Byte)
  deriving DecidableEq, Repr, Inhabited

/-! ### The training job -/

/-- One run of a step (R67). -/
structure Run where
  step : Nat
  idx : Nat
  /-- fabric tick at which the run began, and the period in force -/
  base : Nat
  period : Nat
  armedForm : Bool
  /-- phases begun -/
  begun : Nat
  failed : Nat
  sat : Bool
  /-- predicted exponents raised (R120) -/
  raised : Bool
  absent : Nat
  /-- the chip marked its replica suspect in this run (R284) -/
  suspectMark : Bool
  reported : Bool
  pAnd : Nat
  pOr : Nat
  vMin : Nat
  vMax : Nat
  own : Option VoteWord
  /-- the word held between stages, and whether it still lacks the chip's own -/
  held : VoteWord
  heldBare : Bool
  /-- the final word on its way: the cycle at which it is written, and whether it still lacks the chip's own (R293) -/
  due : Option (VoteWord × Nat × Bool)
  /-- axes whose chain input has been taken -/
  chained : List Nat
  final : Option VoteWord
  passed : Option Bool
  lost : Bool
  /-- the vote phase has ended -/
  phaseOver : Bool
  faults : List FaultRec
  /-- ROUND steps run: (tile, collective, count) (R283) -/
  rounds : List (Nat × Nat × Nat)
  deriving DecidableEq, Repr, Inhabited

/-- The run that has ended last, with its variant: the slot maps that the cells released after the boundary are judged by
(R219, R222). -/
structure PastRun where
  run : Run
  variant : Nat
  deriving DecidableEq, Repr, Inhabited

/-- What a commanded change does at its step (R68). -/
inductive Change where
  | stop (step : Nat)
  | variant (step v : Nat)
  | policy (step : Nat) (carry sat : Nat)
  | seal (step : Nat) (flash : Bool) (staging : Option Nat)
  | recall (tick : Nat) (flash : Bool) (staging : Option Nat)
  | audit (step : Nat) (role : Nat) (log : Nat) (replay : Nat)
  deriving DecidableEq, Repr, Inhabited

/-- An audit log being written or compared (R317 to R320): role 0 audited, 1 auditor; the audited step; the log's
address; the replay step; the entries formed in the run; the replica replayed; the exponents raised. -/
structure Audit where
  role : Nat
  step : Nat
  log : Nat
  replay : Nat
  entries : List (List Byte)
  replica : Nat
  raised : Bool
  deriving DecidableEq, Repr, Inhabited

/-- An entry of the hold table (R198): both digests of a chunk, when its ordinary PAIR_CHECK ends, and what the
comparisons found. -/
structure HoldEntry where
  role : Nat
  chunk : Nat
  own : Nat
  other : Nat
  /-- fabric cycle at which the PAIR_CHECK ends -/
  endAt : Nat
  held : Bool
  /-- fabric cycle from which a third computation is released: the end of the PAIR_CHECK that released it -/
  released : Option Nat
  deriving DecidableEq, Repr, Inhabited

/-- The paired update's tables (R198 to R201). -/
structure Holds where
  entries : List HoldEntry
  /-- chunks marked held by a supply dip before their PAIR_CHECK ended: (role, chunk) (R315) -/
  forced : List (Nat × Nat)
  /-- a tiebreak group has started -/
  tiebreak : Bool
  /-- tiles whose computation lost in this update phase, and in the last committed step -/
  lost : List Nat
  lastLost : List Nat
  deriving DecidableEq, Repr, Inhabited

/-- The training job's state. -/
structure Train where
  image : Option Image
  /-- an image under validation (R57) -/
  loading : Option (List Byte)
  committed : Nat
  variant : Nat
  carry : Bool
  satAccept : Bool
  carryPending : Bool
  absentLast : Nat
  records : List ScaleRec
  /-- records supplied by HAMPER_RESTORE (R117) -/
  restored : Bool
  /-- fabric tick of the next step boundary: S0, or the end of the run -/
  next : Option Nat
  run : Option Run
  /-- the run that has ended last -/
  past : Option PastRun
  /-- faults of the failed run before this one, whether their records are written, and runs of this step that failed -/
  prev : List FaultRec
  settled : Bool
  failedRuns : Nat
  /-- what the next run takes over: absent record, raised, suspect of the step -/
  nextAbsent : Nat
  nextRaised : Bool
  dipStep : Bool
  suspectSince : Option (Nat × Nat)
  changes : List Change
  mustPark : Bool
  updateHalted : Bool
  shiftAborted : Bool
  holds : Holds
  audit : Option Audit
  /-- replica whose hamper an audit load has brought (R339) -/
  auditReplica : Nat
  /-- tick at which the plot last parked (Table 14.1) -/
  haltTick : Nat
  /-- regions that a halt in an update phase left unusable: (base, bytes) (R177) -/
  spoiled : List (Nat × Nat)
  /-- where the lists of the armed variant lie in HBM: tile, group key, address (R78) -/
  layout : List (Nat × Nat × Nat)
  deriving DecidableEq, Repr, Inhabited

/-! ### Hampers and shifts -/

/-- A hamper armed or draining (R328 to R333). -/
structure Hamper where
  /-- false until its step commits -/
  draining : Bool
  step : Nat
  /-- header bytes 0 to 255, the sealing digest still zero -/
  header : List Byte
  records : List Byte
  cursor : List Byte
  /-- pages of the hamper in address order: (page, region) -/
  pages : List (Nat × Nat)
  /-- directory entries of the pages drained so far: (page, entry) -/
  dir : List (Nat × List Byte)
  poison : Bool
  flashSlot : Option Nat
  /-- how far the flash slot is written (R336, R332): 0 header being zeroed, 1 flush after it, 2 body open, 3 the rest of
  the body being written, 4 flush, 5 header being written, 6 flush, 7 sealed -/
  stage : Nat
  staging : Option Nat
  stagingDone : Bool
  partner : Bool
  partnerDone : Bool
  /-- where the hamper goes in the partner's region, and which of its streams is sent: the one of number 0 comes last (R335) -/
  place : Nat
  part : Nat
  /-- namespace of the flash slot -/
  ns : Nat
  /-- the opcode of the command that owes the final completion -/
  job : Option Nat
  deriving DecidableEq, Repr, Inhabited

/-- A slot of a flash ring (R336): state 0 empty, 1 sealed, 2 unsealed, and the bytes written into it. -/
structure RingSlot where
  st : Nat
  step : Nat
  image : Nat
  data : List Byte
  deriving DecidableEq, Repr, Inhabited

/-- A flash ring as its label and slots lie in a namespace (Table 14.4). -/
structure Ring where
  ns : Nat
  count : Nat
  lbas : Nat
  slots : List RingSlot
  deriving DecidableEq, Repr, Inhabited

/-- A partner hamper held in the partner region (R335). -/
structure Partner where
  addr : Nat
  length : Nat
  step : Nat
  sealed : Bool
  deriving DecidableEq, Repr, Inhabited

/-- Snapshot state of the chip. -/
structure Snap where
  /-- pages with SNAP set, and pages copied with their shadow pages (R154, R329) -/
  snap : List Nat
  copied : List (Nat × Nat)
  /-- the first update phase to run after an arming runs armed (R329) -/
  armedNext : Bool
  hamper : Option Hamper
  np : Nat
  nf : Nat
  ns : Nat
  cursor : Nat
  /-- the rings, kept in the local flash device -/
  rings : List Ring
  partners : List Partner
  /-- partner hampers sent so far: which place of the partner region is next (R335) -/
  turn : Nat
  /-- an interval rollback demands a seal at the first boundary after START (R353) -/
  sealSoon : Bool
  deriving DecidableEq, Repr, Inhabited

/-- A run of the move table (Table 14.10). -/
structure Move where
  kind : Nat
  x : Nat
  pages : Nat
  dst : Nat
  src : Nat
  fallback : Nat
  /-- pages placed so far -/
  placed : List Nat
  finished : Bool
  /-- digests that differed: page, count (R348) -/
  bad : List (Nat × Nat)
  deriving DecidableEq, Repr, Inhabited

/-- A REQUEST of a plane shift that waits for its pages (R348). -/
structure Request where
  run : Nat
  first : Nat
  pages : Nat
  chip : Nat
  reply : Nat
  id : Nat
  /-- REQUESTs that nothing answered -/
  tries : Nat
  /-- tick of the REQUEST or of the NOT_READY -/
  since : Nat
  notReady : Bool
  /-- pages whose streams have completed, with the digests of what was placed -/
  got : List (Nat × Nat)
  /-- page digests that the source reported -/
  digests : List (Nat × Nat)
  deriving DecidableEq, Repr, Inhabited

/-- A plane shift in progress (R344 to R350). -/
structure Shift where
  oldMap : List Nat
  oldCount : Nat
  newCount : Nat
  newD : Option Nat
  oldD : Option Nat
  unavailable : Nat
  /-- runs of other chips still to be served -/
  persReaders : Nat
  partReaders : Nat
  deadline : Nat
  rollback : Option Nat
  absent : Nat
  moves : List Move
  request : Option Request
  bytes : Nat
  deriving DecidableEq, Repr, Inhabited

/-! ### The background plane -/

/-- A tracker entry not FREE (R253): state 1 OPEN, 2 COMPLETE, 3 REJECTED. -/
structure Track where
  chip : Nat
  stream : Nat
  cls : Nat
  total : Nat
  h : Nat
  window : BitVec 256
  count : Nat
  last : Nat
  st : Nat
  /-- tick of the first packet since the last ACK -/
  ackFrom : Option Nat
  poison : Nat
  deriving DecidableEq, Repr, Inhabited

/-- What a send stream serves. -/
inductive Purpose where
  | host (idx : Nat)
  | reply (requester : Nat)
  | hamper
  | shift (run page : Nat)
  deriving DecidableEq, Repr, Inhabited

/-- A send stream (R252, R257). -/
structure Stream where
  chip : Nat
  id : Nat
  cls : Nat
  flags : Nat
  total : Nat
  src : Nat
  bytes : Nat
  dst : Nat
  purpose : Purpose
  /-- packets injected so far -/
  sent : Nat
  /-- H, window and count of the latest ACK -/
  ackH : Nat
  ackWin : BitVec 256
  ackCount : Nat
  /-- in flight: sequence, tick of the last transmission, retransmissions -/
  flight : List (Nat × Nat × Nat)
  poisoned : Nat
  /-- packets waiting to be injected again -/
  again : List Nat
  deriving DecidableEq, Repr, Inhabited

/-- An outstanding FETCH of this chip (R260). -/
structure Fetch where
  chip : Nat
  stream : Nat
  src : Nat
  bytes : Nat
  dst : Nat
  idx : Nat
  /-- the request waits for injection -/
  toSend : Bool
  /-- tick of the request, or of the refusal when a reason is kept -/
  sentAt : Nat
  tries : Nat
  reason : Nat
  answered : Bool
  deriving DecidableEq, Repr, Inhabited

/-- A REQUEST of another chip that this chip serves (R347, R348): kind 0 reads old persistent pages, 1 old partner
pages, 2 pages placed for a mirror. -/
structure Serve where
  chip : Nat
  run : Nat
  first : Nat
  pages : Nat
  src : Nat
  reply : Nat
  id : Nat
  kind : Nat
  /-- pages whose streams have been opened, and those that have ended -/
  opened : Nat
  closed : List Nat
  /-- pages whose digests have been sent -/
  told : Nat
  deriving DecidableEq, Repr, Inhabited

/-- The background plane (R249 to R264). -/
structure Bgp where
  low : Nat
  high : Nat
  newMarks : Option (Nat × Nat)
  sluice : Nat
  occ : Nat
  counters : List Nat
  transit : List Packet
  eject : List Packet
  tracker : List Track
  /-- request table: requester, reply stream (R258) -/
  requests : List (Nat × Nat)
  streams : List Stream
  fetches : List Fetch
  /-- ACK, REFUSE and control packets waiting for injection, with their class order -/
  ready : List (Nat × List Byte)
  /-- streams that ended: chip, stream ID, tick (R252) -/
  ended : List (Nat × Nat × Nat)
  /-- the tick whose slots have been assigned (R244) -/
  lastTick : Option Nat
  /-- REQUESTs of plane shifts being served, and those served to their end -/
  serves : List Serve
  served : List Serve
  deriving DecidableEq, Repr, Inhabited

/-! ### Host copies and host side -/

/-- A host copy queue or the send queue (Tables 7.8 to 7.10). -/
structure DmaQueue where
  base : W64
  size : W32
  tail : W32
  head : W32
  cBase : W64
  cTail : W32
  /-- 0 STOPPED, 1 RUNNING, 2 DRAINING, 3 ABORTING -/
  st : Nat
  phase : Bool
  ringFault : Bool
  /-- the tail a drain completes up to -/
  drainTo : W32
  deriving DecidableEq, Repr, Inhabited

/-- A host copy in progress (R172). -/
structure CopyJob where
  entry : CopyEntry
  /-- bytes moved so far -/
  bytes : Nat
  /-- DONE while the copy goes on; ABORTED or BAD_STATE once it has been stopped (R175, R18) -/
  status : Nat
  /-- source codewords found poisoned, each once -/
  poisoned : List Nat
  deriving DecidableEq, Repr, Inhabited

/-- The DMA block. -/
structure Dma where
  queues : List DmaQueue
  jobs : List (Nat × CopyJob)
  send : DmaQueue
  sendJobs : List (Nat × SendEntry)
  sendNext : Nat
  deriving DecidableEq, Repr, Inhabited

/-- A BAR2 read held in an unarmed update phase (R437). -/
structure HeldRead where
  fn : Nat
  off : Nat
  addr : Nat
  n : Nat
  deriving DecidableEq, Repr, Inhabited

/-- An NVMe command in progress (R441). -/
structure Nvme where
  op : Nat
  lba : Nat
  blocks : Nat
  data : List Byte
  retried : Bool
  ns : Nat
  /-- what it serves: 0 a hamper page, 1 the hamper's next stage, 2 HAMPER_LIST staging, 3 HAMPER_RESTORE, 4 anything
  that no command waits for -/
  use_ : Nat
  page : Nat
  deriving DecidableEq, Repr, Inhabited

/-- The host and flash ports (R430 to R441). -/
structure HostSide where
  vfs : Nat
  linkWidth : Nat
  linkSpeed : Nat
  flit : Bool
  flWidth : Nat
  flSpeed : Nat
  nsUsable : Nat
  nsLbas : List Nat
  flState : Nat
  apbase : List W64
  eventHi : W32
  journalHi : W32
  /-- MSI-X table entries of each function: (address, data, masked, pending) -/
  msix : List (List (Nat × Nat × Bool × Bool))
  reads : List HeldRead
  nvme : List Nvme
  lastTimeout : Option Nat
  /-- I/O queue pairs created on the NVMe controller, and entries of each (R440) -/
  nvmePairs : Nat
  nvmeEntries : Nat
  deriving DecidableEq, Repr, Inhabited

/-- A vector run in progress (R459, R460): its target, whether it stops at the first failure, the set, the next vector's
index and byte offset, the counts so far, and the tiles used. -/
structure VecRun where
  scope : Nat
  stopFirst : Bool
  set : List Byte
  index : Nat
  pos : Nat
  ran : Nat
  failed : Nat
  used : List Nat
  deriving DecidableEq, Repr, Inhabited

end Sys2Proof.Machine
end

