-- ==== Sys2Proof/Machine/Accum.lean ====
section
/-! DEFINITION. The stochastic-rounding generator (R134, R135), the accumulator (R125 to R132), running-sum records
(R140) and the context record (R147). -/
namespace Sys2Proof.Machine

/-- mix of R134. -/
def mix (x : W32) : W32 :=
  let x := x ^^^ (x >>> 16)
  let x := x * 0x045D9F3B
  x ^^^ (x >>> 16)

/-- What keys the generator besides the place: seed, step and tensor ID. -/
structure GenKey where
  seed : W64
  step : Nat
  tensor : Nat
  deriving DecidableEq, Repr, Inhabited

/-- A 32-bit word of a number. -/
def w32 (n : Nat) : W32 := BitVec.ofNat 32 n

/-- gen of R134: 16 random bits. -/
def gen (k : GenKey) (domain it row col kb : Nat) : Nat :=
  let ws : List W32 := [w32 k.seed.toNat, w32 (k.seed.toNat / 2 ^ 32), w32 k.step, w32 (k.step / 2 ^ 32), w32 row, w32 kb,
    w32 col, w32 (k.tensor * 65536 + domain * 256 + it)]
  ((ws.foldl (fun h w => mix (h ^^^ w)) 0x6A09E667) >>> 16).toNat

/-! ### Words -/

/-- The NaN marker (R128). -/
def nanMark : W40 := 0x8000000000

/-- The largest word. -/
def wordMax : Int := 2 ^ 39 - 1

/-- The integer in a word. -/
def wordInt (w : W40) : Int := w.toInt

/-- A word from an integer. -/
def intWord (v : Int) : W40 := BitVec.ofInt 40 v

/-- m × 2^e rounded to an integer by `sr` (R130). -/
def srMag (m : Nat) (e : Int) (r : Nat) : Nat := if 0 ≤ e then m * 2 ^ e.toNat else roundShift m (-e).toNat true r

/-- sr on a signed dyadic (R130). -/
def sr (neg : Bool) (m : Nat) (e : Int) (r : Nat) : Int :=
  let n := srMag m e r
  if neg then -(n : Int) else n

/-! ### The block partial (R125, R126) -/

/-- An exact dyadic sum: significand and exponent. -/
structure Dyad where
  v : Int
  e : Int
  deriving DecidableEq, Repr, Inhabited

/-- A product added exactly. -/
def Dyad.add (a : Dyad) (v : Int) (e : Int) : Dyad :=
  let k := min a.e e
  ⟨a.v * ((2 ^ (a.e - k).toNat : Nat) : Int) + v * ((2 ^ (e - k).toNat : Nat) : Int), k⟩

/-- A partial: NaN or infinite (none), or an exact value. -/
abbrev Partial := Option Dyad

/-- The exact sum of products of finite values; any NaN or infinite element makes it none (R126, R129: both turn the
word into the NaN marker). -/
def dotExact : List Val → List Val → Partial
  | .fin s m e :: as, .fin t n f :: bs => match dotExact as bs with
    | none => none
    | some d =>
      let p : Int := (m * n : Nat)
      some (if m * n == 0 then d else d.add (if s != t then -p else p) (e + f))
  | [], _ => some ⟨0, 0⟩
  | _, [] => some ⟨0, 0⟩
  | _, _ => none

/-! ### Adding a block (R130 to R132) -/

/-- An accumulator's working state within a tile: the bank, and the tile's draw count. -/
structure Acc where
  bank : Bank
  w : Nat
  /-- renormalizations made, and whether SAT became set, in this patch of this descriptor -/
  renorms : Nat
  satNow : Bool
  deriving DecidableEq, Repr, Inhabited

/-- The adds of one block: none where the word becomes or stays the NaN marker. -/
def addBlock (k : GenKey) (b : Bank) (ps : List Partial) (kb it : Nat) : List (Option Int) :=
  (b.words.zip ps).zipIdx.map (fun x =>
    let w := x.1.1
    let i := x.2
    match x.1.2 with
    | none => none
    | some d =>
      if w == nanMark then none
      else some (wordInt w + sr (decide (d.v < 0)) d.v.natAbs (d.e - (b.exp - 39))
        (gen k 0 it (b.row + i / 16) (b.col + i % 16) kb)))

/-- A new word. -/
def newWord (o : Option Int) : W40 := match o with
  | none => nanMark
  | some v => intWord v

/-- Whether every new word is in range. -/
def inRange (l : List (Option Int)) : Bool := l.all (fun o => match o with
  | none => true
  | some v => decide (v.natAbs ≤ 2 ^ 39 - 1))

/-- renormalize of R130. -/
def renormalize (k : GenKey) (b : Bank) (kb it : Nat) : Bank :=
  { b with
    words := b.words.zipIdx.map (fun x =>
      if x.1 == nanMark then nanMark
      else
        let v := wordInt x.1
        intWord (sr (decide (v < 0)) v.natAbs (-4) (gen k 1 it (b.row + x.2 / 16) (b.col + x.2 % 16) kb)))
    exp := b.exp + 4 }

/-- accumulate of R130; `fuel` bounds the renormalizations, of which the exponent allows at most 255. -/
def accumulate (k : GenKey) (spill : Nat) (ps : List Partial) (kb : Nat) : Nat → Nat → Acc → Acc
  | 0, _, a => a
  | fuel + 1, it, a =>
    let new := addBlock k a.bank ps kb it
    if inRange new then { a with bank := { a.bank with words := new.map newWord } }
    else if spill < a.w + 8 || 511 < a.bank.exp + 4 then
      { a with
        bank := { a.bank with
          words := new.map (fun o => newWord (o.map (clampInt (-wordMax) wordMax)))
          flags := a.bank.flags ||| 1 }
        satNow := a.satNow || !bit a.bank.flags 0 }
    else
      accumulate k spill ps kb fuel (it + 1)
        { a with bank := renormalize k a.bank kb it, w := a.w + 8, renorms := a.renorms + 1 }

/-! ### Records -/

/-- Five bytes of each word. -/
def wordsBytes (ws : List W40) : List Byte := (ws.map (fun w => leBytes 5 w.toNat)).flatten

/-- The 256 words of 1,280 bytes. -/
def bytesWords (bs : List Byte) : List W40 := (List.range 256).map (fun i => BitVec.ofNat 40 (fieldAt bs (5 * i) 5))

/-- Whether a bank holds the NaN marker. -/
def Bank.hasNan (b : Bank) : Bool := b.words.any (· == nanMark)

/-- A bank's flags with NAN as its words show it (Table 6.7). -/
def Bank.flagBits (b : Bank) : Nat := b.flags % 8 + 8 * b2n b.hasNan

/-- The 16 bytes of bank state (Table 6.6). -/
def Bank.stateBytes (b : Bank) : List Byte :=
  leBytes 2 (twos 10 b.exp) ++ leBytes 1 b.flagBits ++ leBytes 1 (b.mode % 4) ++ leBytes 4 b.nextK ++ leBytes 4 b.row
    ++ leBytes 4 b.col

/-- A running-sum record (Table 6.6). -/
def Bank.record (b : Bank) : List Byte := wordsBytes b.words ++ b.stateBytes ++ zeros 48

/-- A bank from 1,280 bytes of words and 16 of state; reserved bits are ignored. -/
def bankOf (ws st : List Byte) : Bank :=
  ⟨bytesWords ws, signed 10 (fieldAt st 0 2), fieldAt st 2 1 % 8, fieldAt st 3 1 % 4, fieldAt st 4 4, fieldAt st 8 4,
    fieldAt st 12 4⟩

/-- The context record of four banks (Table 6.10). -/
def contextRecord (bs : List Bank) : List Byte :=
  (bs.map (fun b => wordsBytes b.words)).flatten ++ (bs.map (·.stateBytes)).flatten

/-- The four banks of a context record. -/
def contextBanks (r : List Byte) : List Bank :=
  (List.range 4).map (fun i => bankOf (slice r (1280 * i) 1280) (slice r (5120 + 16 * i) 16))

/-- The required exponent of a patch (R138), none when its words are all zero or NaN. -/
def requiredExp (a : Acc) : Option Int :=
  let m := (a.bank.words.filter (· != nanMark)).foldl (fun m w => max m (wordInt w).natAbs) 0
  if m == 0 then none
  else
    let e := a.bank.exp - 39 + bitlen m + 1
    let e := if 0 < a.renorms then max e a.bank.exp else e
    let e := if a.satNow then a.bank.exp + 8 else e
    some (clampInt (-512) 511 e)

end Sys2Proof.Machine
end

