-- ==== Sys2Proof/Machine/Sha256.lean ====
section
/-! DEFINITION. SHA-256 (FIPS 180-4, Table 0.4), the hash of the image trailer (R44, R59 reason 0x0004). -/
namespace Sys2Proof.Machine

/-- Whether no number from 2 to `d` + 1 below `n` divides `n`: `n` is prime for `d` = `n` - 3 or more. -/
def noDivisor (n : Nat) : Nat → Bool
  | 0 => true
  | d + 1 => (d + 2 ≥ n || n % (d + 2) != 0) && noDivisor n d

/-- The primes from 2 to `n`. -/
def primesTo (n : Nat) : List Nat := (List.range (n + 1)).filter (fun x => x ≥ 2 && noDivisor x 17)

/-- The first 32 bits of the fraction of the `k`-th root of `p`, for `p` below 512. -/
def rootFraction (k p : Nat) : W32 := BitVec.ofNat 32 (rootBits k (p * 2 ^ (32 * k)) 37 0)

/-- The round constants: from the cube roots of the first 64 primes, of which 311 is the last. -/
def cubeFractions : List W32 := (primesTo 311).map (rootFraction 3)

/-- The eight chaining values of SHA-256. -/
structure ShaState where
  a : W32
  b : W32
  c : W32
  d : W32
  e : W32
  f : W32
  g : W32
  h : W32
  deriving DecidableEq, Repr

/-- The initial chaining values: from the square roots of the first eight primes. -/
def shaInit : ShaState :=
  ⟨rootFraction 2 2, rootFraction 2 3, rootFraction 2 5, rootFraction 2 7, rootFraction 2 11, rootFraction 2 13,
    rootFraction 2 17, rootFraction 2 19⟩

/-- One round on (constant, schedule word). -/
def shaRound (s : ShaState) (kw : W32 × W32) : ShaState :=
  let s1 := s.e.rotateRight 6 ^^^ s.e.rotateRight 11 ^^^ s.e.rotateRight 25
  let ch := (s.e &&& s.f) ^^^ (~~~ s.e &&& s.g)
  let t1 := s.h + s1 + ch + kw.1 + kw.2
  let s0 := s.a.rotateRight 2 ^^^ s.a.rotateRight 13 ^^^ s.a.rotateRight 22
  let mj := (s.a &&& s.b) ^^^ (s.a &&& s.c) ^^^ (s.b &&& s.c)
  ⟨t1 + (s0 + mj), s.a, s.b, s.c, s.d + t1, s.e, s.f, s.g⟩

/-- The message schedule, newest word first, extended by `n` words. -/
def shaExtend : Nat → List W32 → List W32
  | 0, ws => ws
  | n + 1, ws =>
    let w2 := nth ws 1 0
    let w15 := nth ws 14 0
    let s0 := w15.rotateRight 7 ^^^ w15.rotateRight 18 ^^^ (w15 >>> 3)
    let s1 := w2.rotateRight 17 ^^^ w2.rotateRight 19 ^^^ (w2 >>> 10)
    shaExtend n ((nth ws 15 0 + s0 + nth ws 6 0 + s1) :: ws)

/-- A big-endian 32-bit word of four bytes. -/
def beWord (bs : List Byte) : W32 := BitVec.ofNat 32 (leNat bs.reverse)

/-- One 64-byte block. -/
def shaBlock (s : ShaState) (blk : List Byte) : ShaState :=
  let w0 := (chunks 4 blk).map beWord
  let ws := (shaExtend 48 w0.reverse).reverse
  let r := (cubeFractions.zip ws).foldl shaRound s
  ⟨s.a + r.a, s.b + r.b, s.c + r.c, s.d + r.d, s.e + r.e, s.f + r.f, s.g + r.g, s.h + r.h⟩

/-- The padded message: 0x80, zeros, and the bit length as a big-endian 64-bit word. -/
def shaPad (bs : List Byte) : List Byte :=
  let n := bs.length
  bs ++ [0x80] ++ zeros ((119 - n % 64) % 64) ++ (leBytes 8 (8 * n)).reverse

/-- The 32 bytes of SHA-256 of a byte string. -/
def sha256 (bs : List Byte) : List Byte :=
  let s := (chunks 64 (shaPad bs)).foldl shaBlock shaInit
  ([s.a, s.b, s.c, s.d, s.e, s.f, s.g, s.h].map (fun w => (leBytes 4 w.toNat).reverse)).flatten

end Sys2Proof.Machine
end

