-- ==== Sys2Proof/Machine/Crc.lean ====
section
/-! DEFINITION. CRC-32C as R461 computes it, in reflected form. -/
namespace Sys2Proof.Machine

/-- One bit of the reflected CRC-32C (polynomial 0x82F6_3B78, R461). -/
def crcBit (c : W32) : W32 := if c.getLsbD 0 then (c >>> 1) ^^^ 0x82F63B78 else c >>> 1

/-- One byte of the reflected CRC-32C. -/
def crcByte (c : W32) (b : Byte) : W32 :=
  crcBit (crcBit (crcBit (crcBit (crcBit (crcBit (crcBit (crcBit (c ^^^ b.setWidth 32))))))))

/-- The CRC-32C of a byte string: initial value and final XOR 0xFFFF_FFFF (R461). -/
def crc32c (bs : List Byte) : W32 := bs.foldl crcByte 0xFFFFFFFF ^^^ 0xFFFFFFFF

/-- The low 16 bits of a CRC-32C, as the Linby info check and the background header check take it (R461). -/
def crc16 (bs : List Byte) : W16 := (crc32c bs).setWidth 16

end Sys2Proof.Machine
end

