-- ==== Sys2Proof/Machine/State.lean ====
section
/-! DEFINITION. The state of the block, as plain data, the reasons a step can stop, and the state right after a
power-on reset (R418, R421). The queue `pending` holds the commands that wait, first in first out; `out` collects
what the chip has sent (log 3); `free` counts the free values drawn (log 4). -/
namespace Sys2Proof.Machine

/-- Why a step stops with a fault. Both are safe: no chip runs such a command, and nothing is claimed of it. -/
inductive Fault where
  /-- Raised by the descriptor commands on operands that R59 rejects at load, with the reason code of Table 3.14:
  no image that holds such a descriptor is ever loaded, so the chip never runs it. Safe. -/
  | rejectedAtLoad (code : Nat)
  /-- Raised by a command that names a port, lane, tile, stack, queue, pair, plot, function or engine that the chip
  does not have: there is nothing it could happen to. Safe. -/
  | noSuchUnit (what : String)
  deriving DecidableEq, Repr

/-- Why a step is refused. -/
inductive Refusal where
  /-- Raised by an arm of Dispatch.lean whose command has no meaning in this model yet. Safe: it claims nothing. -/
  | notModelled (mnemonic : String)
  deriving DecidableEq, Repr

/-- The state of one SX9. -/
structure State where
  pending : List Instr
  out : List Output
  free : Nat
  time : TimeBlock
  chip : Chip
  flash : Flash
  power : Power
  place : Place
  ports : List Port
  checks : List PortCheck
  aq : Aqvel
  mem : Memories
  plots : List Plot
  train : Train
  snap : Snap
  shift : Option Shift
  bgp : Bgp
  dma : Dma
  host : HostSide
  vec : Option VecRun
  tap : TapInstr
  deriving DecidableEq, Repr

/-! ### Reset values -/

/-- One plot's eight bytes of a profile record (Table 16.2). -/
def plotBytes (clusters hstacks fn : Nat) : List Byte :=
  leBytes 2 clusters ++ leBytes 1 hstacks ++ leBytes 1 fn ++ zeros 4

/-- A profile record with its CRC (Table 16.2). -/
def profileRecord (n count flags : Nat) (ps : List (List Byte)) : List Byte :=
  let b := ascii 4 "PRF1" ++ leBytes 1 n ++ leBytes 1 count ++ leBytes 1 flags ++ zeros 9
    ++ slice ps.flatten 0 32 ++ zeros 12
  b ++ leBytes 4 (crc32c b).toNat

/-- The profile records as shipped (Table 16.1). -/
def shippedProfiles : List (List Byte) :=
  [profileRecord 0 1 1 [plotBytes 0xFFF 0xFF 0],
   profileRecord 1 1 0 [plotBytes 0xFFF 0xFF 1],
   profileRecord 2 2 0 [plotBytes 0x03F 0x0F 1, plotBytes 0xFC0 0xF0 2],
   profileRecord 3 4 0 [plotBytes 0x007 0x03 1, plotBytes 0x038 0x0C 2, plotBytes 0x1C0 0x30 3, plotBytes 0xE00 0xC0 4]]

/-- A bank at reset (R148). -/
def Bank.zero : Bank := ⟨List.replicate 256 0, 0, 0, 0, 0, 0, 0⟩

/-- A tile at reset. -/
def Tile.reset : Tile := ⟨Mem.zero, none, List.replicate 4 Bank.zero, 0, [], false, [], 0, 0, 0, 0, 0, [], []⟩

/-- A stack at reset: no refresh window yet, in self-refresh until trained. -/
def Stack.reset : Stack := ⟨0, 0, [], .selfRefresh, 0, false⟩

/-- The memories at power-on. -/
def Memories.reset : Memories :=
  ⟨⟨[], [], List.replicate 8 0⟩, List.replicate 8 Stack.reset, List.replicate 192 Tile.reset, List.replicate 1024 0⟩

/-- A port at reset (Tables 10.7 to 10.10). -/
def Port.reset : Port :=
  ⟨0, 0, false, 0, false, 0x7FF, 0, 0x7FF, 0, 0, 0, 0, 0, 0, none, none, 0, 0, [], [], [], [], [], false⟩

/-- A lane's receiver at reset. -/
def LaneRx.reset : LaneRx := ⟨0, 0, false, none⟩

/-- A port's checks at reset. -/
def PortCheck.reset : PortCheck :=
  ⟨0, 0, [], [], List.replicate 16 LaneRx.reset, List.replicate 16 0, [], []⟩

/-- A queue pair at reset (Table 15.1). -/
def Pair.reset : Pair := ⟨0, 0, 0, 0, 0, 0, 0, 0, 0, false, false, false, [], [], 0⟩

/-- The controller's tables when power is first applied. -/
def Aqvel.reset : Aqvel := ⟨List.replicate 8 Pair.reset, [], [], [], none, [], [], 1, [], 1, [], []⟩

/-- A copy queue at reset (Table 7.8). -/
def DmaQueue.reset : DmaQueue := ⟨0, 0, 0, 0, 0, 0, 0, false, false, 0⟩

/-- The DMA block at reset. -/
def Dma.reset : Dma := ⟨List.replicate 5 DmaQueue.reset, [], DmaQueue.reset, [], 0⟩

/-- No run has held anything. -/
def Holds.empty : Holds := ⟨[], [], false, [], []⟩

/-- No image, no job. -/
def Train.reset : Train :=
  ⟨none, none, 0, 0, false, false, false, 0, [], false, none, none, none, [], false, 0, 0, false, false, none, [], false, false,
    false, Holds.empty, none, 0, 0, [], []⟩

/-- What a training plot keeps when it is emptied or takes another image: the regions a halt left unusable (R177). -/
def Train.emptied (t : Train) : Train := { Train.reset with spoiled := t.spoiled }

/-- No hamper, no ring named. -/
def Snap.reset : Snap := ⟨[], [], false, none, 0, 0, 0, 0, [], [], 0, false⟩

/-- The background plane at reset (Tables 11.11 to 11.15). -/
def Bgp.reset : Bgp := ⟨1024, 2048, none, 0, 0, List.replicate 14 0, [], [], [], [], [], [], [], [], none, [], []⟩

/-- One function's MSI-X table: every vector masked, none pending. -/
def msixReset (n : Nat) : List (Nat × Nat × Bool × Bool) := List.replicate n (0, 0, true, false)

/-- The host and flash ports at reset. -/
def HostSide.reset : HostSide :=
  ⟨4, 0, 0, false, 0, 0, 0, [], 0, List.replicate 5 0, 0, 0,
    [msixReset 8, msixReset 4, msixReset 4, msixReset 4, msixReset 4], [], [], none, 0, 0⟩

/-- No sample yet. -/
def Rail.reset : Rail := ⟨0, 0, 0, 0, 0⟩

/-- A sensor at reset: normal. -/
def Sensor.reset : Sensor := ⟨0, 0, 0, 0, true⟩

/-- Power and heat at reset. -/
def Power.reset : Power := ⟨List.replicate 6 Rail.reset, 0, none, List.replicate 24 Sensor.reset, false⟩

/-- The time block at reset (Tables 2.4 to 2.6). -/
def TimeBlock.reset : TimeBlock :=
  ⟨0, false, false, false, false, false, false, false, 0, 0, 0, 0xFFFFFFFF, 0, none, .pcie, false⟩

/-- Before any self-test: the report of a chip that entered HOLD from BOOT, its outcome aside (R385). -/
def Report.reset : Report := ⟨0xFF, 2, 0, 0, 0, List.replicate 8 0, List.replicate 10 2⟩

/-- The chip at reset: BOOT, straps read as 0 (R446). -/
def Chip.reset : Chip :=
  ⟨.boot, ⟨false, false, false⟩, 0, 0, 0, 0, 0, true, false, none, Report.reset, List.replicate 12 0x1F, 750, 0, none,
    false, none, Config.shippedMicroprograms, false⟩

/-- Configuration flash as shipped (Table 16.1; bank 0 with the firmware the part is shipped with, log 8). -/
def Flash.shipped : Flash :=
  ⟨shippedProfiles, shippedProfiles, false,
    [⟨true, Config.shippedFirmware, Config.shippedMicroprograms⟩, ⟨false, 0, 0⟩], 0, false, none, [], 0⟩

/-- A plot that holds nothing. -/
def Plot.fresh (clusters hstacks : List Nat) (fn : Nat) : Plot :=
  ⟨.empty, clusters, hstacks, fn, 0, 0, false, false, false, false, 0, [], none, none, none, [], false, none⟩

/-- The block right after reset. -/
def State.reset : State :=
  { pending := []
    out := []
    free := 0
    time := TimeBlock.reset
    chip := Chip.reset
    flash := Flash.shipped
    power := Power.reset
    place := ⟨none, 0, List.replicate 17 0xFD⟩
    ports := List.replicate 10 Port.reset
    checks := List.replicate 10 PortCheck.reset
    aq := Aqvel.reset
    mem := Memories.reset
    plots := [Plot.fresh (List.range 12) (List.range 8) 0]
    train := Train.reset
    snap := Snap.reset
    shift := none
    bgp := Bgp.reset
    dma := Dma.reset
    host := HostSide.reset
    vec := none
    tap := .idcode }

end Sys2Proof.Machine
end

