-- ==== Sys2Proof/Machine/Ops.lean ====
section
/-! DEFINITION. The named operations over the state that every family shares: access to ports, tiles, plots and
pairs, fabric time as it is reported, events (R386), MSI-X (R438), the journal (R387) and completions (R362, R367,
R370, R373). -/
namespace Sys2Proof.Machine

/-- The outcome of a step of this block. -/
abbrev Out := Host.Outcome State Fault Refusal

/-- A field of 64 ones. -/
def ones64 : Nat := 2 ^ 64 - 1

/-! ### Access to parts -/

/-- Port `p`, or a port at reset where there is none. -/
def State.port (s : State) (p : Nat) : Port := nth s.ports p Port.reset
/-- The checks of port `p`. -/
def State.check (s : State) (p : Nat) : PortCheck := nth s.checks p PortCheck.reset
/-- Tile `t`. -/
def State.tile (s : State) (t : Nat) : Tile := nth s.mem.tiles t Tile.reset
/-- Stack `k`. -/
def State.stack (s : State) (k : Nat) : Stack := nth s.mem.hstacks k Stack.reset
/-- Plot `n`, or none. -/
def State.plot? (s : State) (n : Nat) : Option Plot := s.plots[n]?
/-- Plot 0. -/
def State.plot0 (s : State) : Plot := nth s.plots 0 (Plot.fresh [] [] 0)
/-- Queue pair `n`. -/
def State.pair (s : State) (n : Nat) : Pair := nth s.aq.pairs n Pair.reset

/-- Port `p` changed. -/
def State.onPort (s : State) (p : Nat) (f : Port → Port) : State := { s with ports := modifyAt s.ports p f }
/-- The checks of port `p` changed. -/
def State.onCheck (s : State) (p : Nat) (f : PortCheck → PortCheck) : State :=
  { s with checks := modifyAt s.checks p f }
/-- Every port changed. -/
def State.onPorts (s : State) (f : Port → Port) : State := { s with ports := s.ports.map f }
/-- The memories changed. -/
def State.onMem (s : State) (f : Memories → Memories) : State := { s with mem := f s.mem }
/-- Tile `t` changed. -/
def State.onTile (s : State) (t : Nat) (f : Tile → Tile) : State :=
  s.onMem (fun m => { m with tiles := modifyAt m.tiles t f })
/-- Stack `k` changed. -/
def State.onStack (s : State) (k : Nat) (f : Stack → Stack) : State :=
  s.onMem (fun m => { m with hstacks := modifyAt m.hstacks k f })
/-- Plot `n` changed. -/
def State.onPlot (s : State) (n : Nat) (f : Plot → Plot) : State := { s with plots := modifyAt s.plots n f }
/-- The training plot's state changed. -/
def State.setPlot0 (s : State) (p : PlotState) : State := s.onPlot 0 (fun q => { q with st := p })
/-- The training job changed. -/
def State.onTrain (s : State) (f : Train → Train) : State := { s with train := f s.train }
/-- The controller's tables changed. -/
def State.onAq (s : State) (f : Aqvel → Aqvel) : State := { s with aq := f s.aq }
/-- A queue pair changed. -/
def State.onPair (s : State) (n : Nat) (f : Pair → Pair) : State :=
  s.onAq (fun a => { a with pairs := modifyAt a.pairs n f })
/-- The run in progress changed. -/
def State.onRun (s : State) (f : Run → Run) : State := s.onTrain (fun t => { t with run := t.run.map f })
/-- The time block changed. -/
def State.onTime (s : State) (f : TimeBlock → TimeBlock) : State := { s with time := f s.time }
/-- The snapshot state changed. -/
def State.onSnap (s : State) (f : Snap → Snap) : State := { s with snap := f s.snap }
/-- The background plane changed. -/
def State.onBgp (s : State) (f : Bgp → Bgp) : State := { s with bgp := f s.bgp }
/-- The host and flash ports changed. -/
def State.onHost (s : State) (f : HostSide → HostSide) : State := { s with host := f s.host }
/-- Something sent out. -/
def State.emit (s : State) (o : Output) : State := { s with out := s.out ++ [o] }
/-- Everything of a list sent out in order. -/
def State.emits (s : State) (os : List Output) : State := { s with out := s.out ++ os }
/-- A free value drawn (log 4): its number, and the state with the counter advanced. -/
def State.draw (s : State) : Nat × State := (Config.freeNat s.free, { s with free := s.free + 1 })

/-! ### Time -/

/-- Fabric time as every record reports it: all ones while VALID is clear (R33). -/
def State.fabric (s : State) : Nat := if s.time.valid then s.time.tick else ones64

/-- Ticks of 1,024 cycles of the chip's own time base (R371). -/
def State.ownTick (s : State) : Nat := s.time.cyc / Config.cyclesPerTick

/-- The step that events name: all ones when no step runs (Table 15.13). -/
def State.stepNow (s : State) : Nat := match s.train.run with
  | some r => r.step
  | none => ones64

/-- Index of the phase in progress of the training run: the last one begun. -/
def Run.phase (r : Run) : Nat := r.begun - 1

/-- Fabric time in cycles from the epoch. -/
def State.fabricCycle (s : State) : Nat := s.time.tick * 1024 + s.time.cycle

/-! ### The part's own identity -/

/-- The serial number's 16 bytes (R382, log 8). -/
def serialBytes : List Byte := leBytes 16 Config.serial.toNat

/-- A physical coordinate as three bytes: t [19:15], e [14:10], p [9:5], d [4:0] (Table 11.1). -/
def coordNat (t e p d : Nat) : Nat := (t % 32) * 32768 + (e % 32) * 1024 + (p % 32) * 32 + d % 32

/-- This chip's coordinate as a 20-bit value; 0 before SET_COORD. -/
def State.selfChip (s : State) : Nat := match s.place.coord with
  | some c => coordNat c.t c.e c.p c.d
  | none => 0

/-- This chip's physical plane. -/
def State.plane (s : State) : Option Nat := s.place.coord.map (·.d)

/-- The mark of this chip's plane in the plane map in force. -/
def State.planeMark (s : State) : Nat := match s.plane with
  | some d => nth s.place.map d 0xFD
  | none => 0xFD

/-- This chip's logical replica d′ under the plane map in force, when it has one. -/
def State.replica (s : State) : Option Nat := if s.planeMark < 16 then some s.planeMark else none

/-- Whether this chip stands on the spare plane of the map in force (0xFE). -/
def State.isSpare (s : State) : Bool := s.planeMark == 0xFE

/-! ### MSI-X (R438) -/

/-- Whether the host reaches a function: PF0, or a VF that it has enabled (R430). -/
def State.fnOn (s : State) (fn : Nat) : Bool := decide (fn ≤ s.host.vfs)

/-- One cause of a vector: a message, or the pending bit while the vector is masked. A VF that is not enabled sends none. -/
def State.signal (s : State) (fn vec : Nat) : State :=
  match if s.fnOn fn then (nth s.host.msix fn [])[vec]? else none with
  | none => s
  | some (_, _, masked, _) =>
    if masked then
      s.onHost (fun h => { h with msix := modifyAt h.msix fn (fun t =>
        modifyAt t vec (fun e => (e.1, e.2.1, true, true))) })
    else s.emit (.msix fn vec)

/-- The event vectors: vector 0 of PF0 and of each enabled VF. -/
def State.signalEvent (s : State) : State :=
  (List.range (s.host.vfs + 1)).foldl (fun s fn => s.signal fn 0) s

/-! ### Events (R386) -/

/-- Whether an event's key within one tick and step comes after another's. -/
def Event.after (a b : Event) : Bool :=
  a.step > b.step || (a.step == b.step && (a.kind > b.kind || (a.kind == b.kind &&
    (a.idx > b.idx || (a.idx == b.idx && a.sub > b.sub)))))

/-- The events of the same tick at the list's end, newest first, give way to a new one of a lower key: they keep
the order of keys and pass their sequences on (log 11). `acc` holds what has been stepped over. -/
def placeEvent : List Event → Event → List Event → List Event
  | [], e, acc => e :: acc
  | o :: l, e, acc =>
    if o.tick == e.tick && o.after e then
      placeEvent l { e with seq := o.seq } ({ o with seq := e.seq } :: acc)
    else (l.reverse ++ [o]) ++ e :: acc

/-- The next sequence of a source. -/
def nextSub (l : List (Nat × Nat × Nat)) (kind idx : Nat) : Nat :=
  match l.find? (fun x => x.1 == kind && x.2.1 == idx) with
  | some x => x.2.2
  | none => 0

/-- The sequences with one more drawn of a source. -/
def bumpSub (l : List (Nat × Nat × Nat)) (kind idx : Nat) : List (Nat × Nat × Nat) :=
  (kind, idx, nextSub l kind idx + 1) :: l.filter (fun x => !(x.1 == kind && x.2.1 == idx))

/-- An event stored, with its sequences. -/
def Aqvel.store (a : Aqvel) (tick step code kind idx : Nat) (params : List Byte) : Aqvel :=
  let e : Event := ⟨a.enext, tick, step, code, kind, idx, nextSub a.esrc kind idx, params⟩
  { a with events := placeEvent a.events.reverse e [], enext := a.enext + 1, esrc := bumpSub a.esrc kind idx }

/-- The count an EVENT_LOST event carries. -/
def lostCount (e : Event) : Nat := if e.code == 0x2B then fieldAt e.params 0 4 else 0

/-- Room made for one event among 16,384: the oldest go, and one EVENT_LOST event counts all that are lost. -/
def Aqvel.makeRoom (a : Aqvel) (tick step : Nat) : Aqvel :=
  if a.events.length < 16384 then a
  else
    let old := (a.events.filter (fun e => e.code == 0x2B)).map lostCount
    let keep := a.events.filter (fun e => e.code != 0x2B)
    let drop := keep.length - 16382
    let lost := sat32 (old.foldl (· + ·) 0 + drop)
    { a with events := keep.drop drop }.store tick step 0x2B 0 0 (leBytes 4 lost)

/-- An event of a step raised: stored, and its vectors signalled. -/
def State.eventOf (s : State) (step code kind idx : Nat) (params : List Byte) : State :=
  (s.onAq (fun a => (a.makeRoom s.fabric step).store s.fabric step code kind idx params)).signalEvent

/-- An event of the step in progress raised. -/
def State.event (s : State) (code kind idx : Nat) (params : List Byte) : State := s.eventOf s.stepNow code kind idx params

/-- An event record (Table 15.13). -/
def Event.bytes (e : Event) : List Byte :=
  leBytes 8 e.seq ++ leBytes 8 e.tick ++ leBytes 8 e.step ++ leBytes 2 e.code ++ leBytes 1 e.kind ++ leBytes 1 e.idx
    ++ leBytes 4 e.sub ++ slice e.params 0 32

/-! ### Command slots and completions -/

/-- The 64 bytes of a slot with its CRC field taken as zero (Table 15.5, R367). -/
def slotBytes (c : Slot) (opcode : Nat) : List Byte :=
  leBytes 2 opcode ++ leBytes 2 c.tag.toNat ++ [c.target, c.flags] ++ leBytes 2 c.inlineLen.toNat
    ++ leBytes 8 c.extAddr.toNat ++ leBytes 4 c.extLen.toNat ++ leBytes 4 c.seq.toNat ++ leBytes 4 c.deadline.toNat
    ++ zeros 4 ++ slice c.inl 0 32

/-- Whether the slot's CRC is right (R367). -/
def crcOk (c : Slot) (opcode : Nat) : Bool := crc32c (slotBytes c opcode) == c.crc

/-- A number from the inline parameters. -/
def arg (c : Slot) (off n : Nat) : Nat := fieldAt c.inl off n

/-- The 28 bytes of a completion entry before its CRC. -/
def Completion.head (e : Completion) : List Byte :=
  leBytes 2 e.tag ++ leBytes 2 e.status ++ leBytes 4 e.detail ++ leBytes 8 e.result ++ leBytes 8 e.time
    ++ leBytes 4 e.jseq

/-- A completion entry (Table 15.6). -/
def Completion.bytes (e : Completion) : List Byte := e.head ++ leBytes 4 (crc32c (e.head ++ zeros 4)).toNat

/-- The PCIe function of a source: 0xFF for the sideband (Table 15.15). -/
def srcFn : Source → Nat
  | .pair n => if n ≤ 3 then 0 else n - 3
  | .endpoint _ => 0xFF

/-- The MSI-X vector of a queue pair in its function (Table 18.8). -/
def pairVec (n : Nat) : Nat := if n ≤ 3 then n + 1 else 1

/-- Transport and source bytes of a journal record. -/
def srcBytes : Source → List Byte
  | .pair n => [0, BitVec.ofNat 8 n]
  | .endpoint e => [1, e]

/-- A journal record (Table 15.15). -/
def journalRecord (seq tick opcode status flags : Nat) (c : Slot) : List Byte :=
  leBytes 8 seq ++ leBytes 8 tick ++ leBytes 2 opcode ++ leBytes 2 c.tag.toNat ++ leBytes 2 status ++ srcBytes c.src
    ++ leBytes 1 (srcFn c.src) ++ [c.target] ++ leBytes 1 flags ++ zeros 1 ++ leBytes 4 c.seq.toNat ++ slice c.inl 0 32

/-- A journal record written; the last 4,096 are kept (R387). -/
def State.journal (s : State) (opcode status flags : Nat) (c : Slot) : State :=
  s.onAq (fun a => { a with
    journal := ((a.journal ++ [(a.jnext, journalRecord a.jnext s.fabric opcode status flags c)]).reverse.take 4096).reverse
    jnext := a.jnext + 1 })

/-- Whether a slot of this opcode that passes the opcode check is journaled (R387). -/
def isJournaled (opcode : Nat) (c : Slot) : Bool :=
  !([0x0101, 0x0102, 0x0103, 0x0202, 0x0302, 0x0502, 0x0801, 0x0802, 0x0804, 0x0A01, 0x0A02].contains opcode
    || (opcode == 0x0603 && arg c 0 1 == 0))

/-- The generation of a source's pair. -/
def State.srcGen (s : State) : Source → Nat
  | .pair n => (s.pair n).gen
  | .endpoint _ => 0

/-- The latest completion of a remembered command kept for a duplicate (R370); `gen` is the pair's generation when the command was
taken: a command taken before the pair last stopped is remembered no more (R360, R363). -/
def State.remember (s : State) (c : Slot) (gen : Nat) (e : Completion) : State :=
  if gen != s.srcGen c.src then s
  else s.onAq (fun a => { a with memory := a.memory.map (fun r =>
    if r.src == c.src && r.seq == c.seq.toNat && c.seq.toNat != 0 then { r with last := some e } else r) })

/-- A completion handed to its transport: to the pair's waiting entries, from which COMPLETION_WRITE takes them, or
as a COMPLETION message (R362, R363, R365). `gen` is the pair's generation when the command was taken. -/
def State.deliver (s : State) (c : Slot) (gen : Nat) (e : Completion) : State :=
  match c.src with
  | .pair n =>
    let p := s.pair n
    if p.running && p.gen == gen then
      s.onPair n (fun p => { p with waiting := p.waiting ++ [⟨e, c.flags.getLsbD 0⟩] })
    else s
  | .endpoint eid => s.emit (.sideband eid 2 e.bytes)

/-- A completion posted: journaled when `journaled`, remembered, delivered (R387, R370, R373). -/
def State.post (s : State) (opcode : Nat) (c : Slot) (gen status detail result flags : Nat) (journaled : Bool) :
    State :=
  let seq := if journaled then s.aq.jnext % 2 ^ 32 else 0
  let e : Completion := ⟨c.tag.toNat, status, detail % 2 ^ 32, result % 2 ^ 64, s.fabric, seq⟩
  let s := if journaled then s.journal opcode status flags c else s
  (s.remember c gen e).deliver c gen e

/-- The completion of a slot that fails a check before the sequence check: journaled when `journaled` and delivered, but neither
it nor its sequence is remembered (R370). -/
def State.reject (s : State) (opcode : Nat) (c : Slot) (status detail flags : Nat) (journaled : Bool) : State :=
  let seq := if journaled then s.aq.jnext % 2 ^ 32 else 0
  let e : Completion := ⟨c.tag.toNat, status, detail % 2 ^ 32, 0, s.fabric, seq⟩
  let s := if journaled then s.journal opcode status flags c else s
  s.deliver c (s.srcGen c.src) e

/-- The first completion of a command. -/
def State.reply (s : State) (opcode : Nat) (c : Slot) (status detail result : Nat) : State :=
  s.post opcode c (s.srcGen c.src) status detail result 0 (isJournaled opcode c)

/-- The oldest command in progress of an opcode and a target. -/
def State.job? (s : State) (opcode : Nat) : Option Job := s.aq.jobs.find? (fun j => j.opcode == opcode)

/-- A command put in progress (R373). -/
def State.addJob (s : State) (opcode : Nat) (c : Slot) : State :=
  s.onAq (fun a => { a with jobs := a.jobs ++ [⟨opcode, c, s.srcGen c.src, s.time.cyc, s.fabric⟩] })

/-- A command in progress ended with its final completion, which is journaled a second time (R387). -/
def State.endJob (s : State) (j : Job) (status detail result : Nat) : State :=
  (s.onAq (fun a => { a with jobs := a.jobs.erase j })).post j.opcode j.slot j.gen status detail result 1
    (isJournaled j.opcode j.slot)

/-- The command in progress of an opcode ended, when there is one. -/
def State.endOp (s : State) (opcode status detail result : Nat) : State :=
  match s.job? opcode with
  | some j => s.endJob j status detail result
  | none => s

/-- Every command in progress that `f` picks ended ABORTED. -/
def State.abortJobs (s : State) (f : Job → Bool) (detail result : Nat) : State :=
  (s.aq.jobs.filter f).foldl (fun s j => s.endJob j 0x0301 detail result) s

/-- Whether the configuration set of R376 holds an opcode. -/
def isConfig (opcode : Nat) : Bool :=
  [0x0301, 0x0306, 0x0201, 0x0203, 0x0401, 0x0402, 0x0501, 0x0506, 0x0503, 0x0602, 0x0702, 0x0703, 0x0902].contains
    opcode

/-! ### Status codes (Table 15.7) -/

/-- DONE -/
def stDone : Nat := 0x0000
/-- ACCEPTED -/
def stAccepted : Nat := 0x0001
/-- BUSY -/
def stBusy : Nat := 0x0010
/-- BAD_OPCODE -/
def stBadOpcode : Nat := 0x0100
/-- BAD_LENGTH -/
def stBadLength : Nat := 0x0101
/-- BAD_PARAM -/
def stBadParam : Nat := 0x0102
/-- BAD_STATE -/
def stBadState : Nat := 0x0103
/-- BAD_TARGET -/
def stBadTarget : Nat := 0x0104
/-- SELFTEST_FAIL -/
def stSelftestFail : Nat := 0x0200
/-- IMAGE_INVALID -/
def stInvalid : Nat := 0x0201
/-- IMAGE_MISMATCH -/
def stMismatch : Nat := 0x0202
/-- DEADLINE_MISSED -/
def stDeadline : Nat := 0x0300
/-- ABORTED -/
def stAborted : Nat := 0x0301
/-- OVERLAP -/
def stOverlap : Nat := 0x0302
/-- HW_FAULT -/
def stHwFault : Nat := 0x0400
/-- POISONED -/
def stPoisoned : Nat := 0x0401

/-- The code of a chip state (Table 15.10). -/
def ChipState.code : ChipState → Nat
  | .boot => 0
  | .selftest => 1
  | .hold => 2
  | .ready => 3

/-- The code of a plot state (Table 15.10). -/
def PlotState.code : PlotState → Nat
  | .empty => 0
  | .loaded => 1
  | .armed => 2
  | .running => 3
  | .draining => 4
  | .parked => 5

/-- The state of plot `n` as GET_STATE codes it: 0xF where there is none. -/
def State.plotCode (s : State) (n : Nat) : Nat := match s.plot? n with
  | some p => p.st.code
  | none => 0xF

/-- The detail of GET_STATE (Table 15.10). -/
def State.stateDetail (s : State) : Nat :=
  s.chip.st.code + 16 * s.chip.profile + 64 * b2n s.flash.suspect + 128 * b2n s.time.valid
    + 256 * (s.plotCode 0 + 16 * s.plotCode 1 + 256 * s.plotCode 2 + 4096 * s.plotCode 3) + 2 ^ 24 * (s.place.epoch % 256)

/-- FAULT_N's level: asserted in HOLD and while the suspect flag is set (R421). -/
def State.faultN (s : State) : Bool := s.chip.st == .hold || s.flash.suspect

/-- A change that may move FAULT_N, with the land's change sent out. -/
def State.withFaultN (s : State) (f : State → State) : State :=
  let t := f s
  if t.faultN == s.faultN then t else t.emit (.pin 0 t.faultN)

/-! ### Schedules in force -/

/-- The sections of a variant key of an image. -/
def Image.sched? (i : Image) (v : Nat) : Option Sched := i.scheds.find? (fun x => x.var == v)

/-- The schedule key that a variant runs: variant 2 runs variant 0 (R53). -/
def baseVar (v : Nat) : Nat := if v == 2 then 0 else v

/-- The key of the armed form of a variant (R53). -/
def armedVar (v : Nat) : Nat := if v == 3 then 0x83 else if v == 4 then 0x84 else 1

/-- The variant table entry of an ID. -/
def Image.variant? (i : Image) (v : Nat) : Option VarEntry := i.variants.find? (fun x => x.id == v)

/-- The phase table of a variant's sections. -/
def Image.table (i : Image) (v : Nat) : List PhaseEntry := match i.sched? v with
  | some x => x.phases
  | none => []

/-- The phase table in force for a run (R53): an armed form's table rules its update phase only. -/
def Image.phases (i : Image) (v : Nat) (armed : Bool) : List PhaseEntry :=
  let base := i.table (baseVar v)
  if armed then
    let form := i.table (armedVar v)
    base.zipIdx.map (fun x => if x.1.kind == 3 then (form[x.2]?).getD x.1 else x.1)
  else base

/-- The schedule that rules a phase: the armed form rules only the update phase (R53). -/
def Image.schedFor (i : Image) (v : Nat) (armed : Bool) (kind : Nat) : Option Sched :=
  if armed && kind == 3 then i.sched? (armedVar v) else i.sched? (baseVar v)

/-- The period of a variant's form (R53, R67). -/
def Image.period (i : Image) (v : Nat) (armed : Bool) : Nat :=
  if !armed then match i.variant? (baseVar v) with
    | some e => e.period
    | none => 0
  else if v == 3 || v == 4 then match i.variant? v with
    | some e => e.armedPeriod
    | none => 0
  else match i.variant? 1 with
    | some e => e.period
    | none => 0

/-- The active replicas of the variant in force. -/
def State.replicas (s : State) : Nat := match s.train.image with
  | some i => match i.variant? s.train.variant with
    | some e => e.active
    | none => nth i.shape 3 1
  | none => 1

/-- The phase table of the run in progress. -/
def State.phases (s : State) : List PhaseEntry :=
  match s.train.image, s.train.run with
  | some i, some r => i.phases s.train.variant r.armedForm
  | _, _ => []

/-- The replay of an audit in progress on this spare chip (R319). -/
def State.replay? (s : State) : Option Audit := match s.train.run, s.train.audit with
  | some r, some a => if s.isSpare && a.role == 1 && a.replay == r.step then some a else none
  | _, _ => none

/-- The kind of the phase in progress; none when no phase has begun. -/
def State.phaseKind (s : State) : Option Nat := match s.train.run with
  | some r => if r.begun == 0 then none else (s.phases[r.begun - 1]?).map (·.kind)
  | none => none

/-- The schedule that rules the phase in progress. -/
def State.schedNow (s : State) : Option Sched :=
  match s.train.image, s.train.run, s.phaseKind with
  | some i, some r, some k => i.schedFor s.train.variant r.armedForm k
  | _, _, _ => none

/-- The slot-map entries of an image port in a schedule. -/
def Sched.slotMap (c : Sched) (p : Nat) : List SlotEntry :=
  match c.slots.find? (fun x => x.1 == p) with
  | some x => x.2
  | none => []

/-- The absolute fabric cycle of a phase's first cycle in a run. -/
def Run.phaseStart (r : Run) (ph : PhaseEntry) : Nat := (r.base + ph.start) * 1024

/-- Whether the update phase of the run is an idle one: the vote failed (R67). -/
def Run.idle (r : Run) : Bool := r.passed == some false

end Sys2Proof.Machine
end

