-- ==== Sys2Proof/Machine/Hbm.lean ====
section
/-! DEFINITION. HBM data addresses (R86, R87) and reads and writes of HBM through the 68/64 code. The memory is kept
by physical place: byte `b` of group `q` of stack `k` has the key (k * groups of a stack + q) * 1024 + b, so that one
place has one key under every profile. -/
namespace Sys2Proof.Machine

/-- XOR of the digits of `x` in base `k` (R87); `fuel` bounds the digits. -/
def xorDigits (k : Nat) : Nat → Nat → Nat
  | 0, _ => 0
  | fuel + 1, x => if x = 0 then 0 else (x % k) ^^^ xorDigits k fuel (x / k)

/-- The stack index, the group index within the stack, and the byte of a data address on `k` stacks (R87). -/
def place (a k : Nat) : Nat × Nat × Nat :=
  let g := a / 1024
  (xorDigits k 64 g, g / k, a % 1024)

/-- The channel of a group of a stack (R87). -/
def channelOf (q : Nat) : Nat := xorDigits 32 64 q

/-- The key of a data address of a plot that owns the stacks `ks`, in ascending order. -/
def hbmKey (ks : List Nat) (a : Nat) : Nat :=
  let r := place a ks.length
  (nth ks r.1 0 * Config.groupsPerStack + r.2.1) * 1024 + r.2.2

/-- The number of data bytes of a plot with these stacks (Table 16.3). -/
def hbmBytes (ks : List Nat) : Nat := ks.length * Config.groupsPerStack * 1024

/-- The physical stack of a codeword key. -/
def stackOfCw (cw : Nat) : Nat := cw / 16 / Config.groupsPerStack

/-- The group within the stack of a codeword key. -/
def groupOfCw (cw : Nat) : Nat := cw / 16 % Config.groupsPerStack

/-- The index of a stack among a plot's stacks. -/
def stackIndex (ks : List Nat) (k : Nat) : Nat := ks.findIdx (· == k)

/-- The group index of a data address from its place: the low digit is the one that makes the XOR the stack index,
the inverse of R87. -/
def groupAddr (k si q : Nat) : Nat := q * k + (si ^^^ xorDigits k 64 q)

/-- The data address of a codeword key in a plot's address space. -/
def addrOfCw (ks : List Nat) (cw : Nat) : Nat :=
  groupAddr ks.length (stackIndex ks (stackOfCw cw)) (groupOfCw cw) * 1024 + cw % 16 * 64

/-- A range cut at 1 KiB group boundaries: (address, length) pieces in ascending order. -/
def piecesAux : Nat → Nat → Nat → List (Nat × Nat)
  | 0, _, _ => []
  | _, _, 0 => []
  | fuel + 1, a, n =>
    let k := min n (1024 - a % 1024)
    (a, k) :: piecesAux fuel (a + k) (n - k)

/-- The pieces of `n` bytes from `a`. -/
def pieces (a n : Nat) : List (Nat × Nat) := piecesAux (n / 1024 + 2) a n

/-- Bytes delivered from HBM, with taint, the memory after the reads, and the codewords met (by key). -/
def hbmFetch (m : Mem) (ks : List Nat) (a n : Nat) : List TByte × Mem × Seen :=
  (pieces a n).foldl (fun r p =>
    let f := r.2.1.fetch (hbmKey ks p.1) p.2
    (r.1 ++ f.1, f.2.1, r.2.2.add f.2.2)) ([], m, Seen.none)

/-- Bytes written to HBM. -/
def hbmStore (m : Mem) (ks : List Nat) (a : Nat) (bs : List TByte) : Mem × Seen :=
  (pieces a bs.length).foldl (fun r p =>
    let w := r.1.store (hbmKey ks p.1) ((bs.drop (p.1 - a)).take p.2)
    (w.1, r.2.add w.2)) (m, Seen.none)

/-- Bytes as a read of HBM delivers them, the side of the reads left aside. -/
def hbmPeek (m : Mem) (ks : List Nat) (a n : Nat) : List Byte :=
  ((pieces a n).map (fun p => m.peeks (hbmKey ks p.1) p.2)).flatten

/-- Physical flips of HBM bytes named by data address (Hw). -/
def hbmFlips (m : Mem) (ks : List Nat) (fs : List (Nat × Byte)) : Mem :=
  fs.foldl (fun m f =>
    if f.1 < 2 ^ 48 then m.flip (hbmKey ks f.1, f.2)
    else m.flip (2 ^ 48 + 4 * (hbmKey ks ((f.1 - 2 ^ 48) / 4 * 64) / 64) + (f.1 - 2 ^ 48) % 4, f.2)) m

/-- A cell list without the keys of `lo` to `hi - 1`. -/
def cutRange (l : List Host.Cell) (lo hi : Nat) : List Host.Cell := l.filter (fun c => c.1 < lo || hi ≤ c.1)

/-- Zeros with correct check bytes over every byte of a stack. -/
def clearStack (m : Mem) (k : Nat) : Mem :=
  let lo := k * Config.groupsPerStack * 1024
  let hi := (k + 1) * Config.groupsPerStack * 1024
  { cells := cutRange m.cells lo hi, err := cutRange m.err (lo / 64 * 68) (hi / 64 * 68), bg := m.bg.set k 0 }

end Sys2Proof.Machine
end

