-- ==== Sys2Proof/Machine/Faults.lean ====
section
/-! DEFINITION. What a fault does: its event, its failed check and where it recurs (R297, R309, R310, R466), the
suspect declaration (R311), link faults (R233, R234), counting corrected codewords (R303), poisoned reads (R306), and
the error records (R321 to R324). -/
namespace Sys2Proof.Machine

/-- Where a fault arose: bytes 28 to 47 of the device section (Table 13.9). -/
structure Site where
  locKind : Nat
  loc : Nat
  sub : Nat
  desc : Nat
  addr : Nat
  /-- The tile that met a fault whose place is a collective; not a field of the section. -/
  finder : Option Nat
  deriving DecidableEq, Repr, Inhabited

/-- No place. -/
def Site.none : Site := ⟨0, 0, 0, 0xFFFFFFFF, 0, Option.none⟩
/-- A unit of a tile (Table 4.4), with the descriptor's index. -/
def Site.tile (t unit desc : Nat) : Site := ⟨1, t, unit, desc, 0, Option.none⟩
/-- A port, with the slot index. -/
def Site.port (p slot : Nat) : Site := ⟨2, p, 0, slot, 0, Option.none⟩

/-- Event source kind and index of a place (Table 15.13). -/
def Site.source (w : Site) : Nat × Nat :=
  match w.locKind with
  | 1 => (1, w.loc)
  | 2 => (2, w.loc)
  | 3 => (3, w.loc)
  | 4 => match w.finder with
    | some t => (1, t)
    | Option.none => (4, 0)
  | 5 => (5, w.loc)
  | 6 => (5, w.loc)
  | 7 => (4, 0)
  | _ => (0, 0)

/-- Bytes 28 to 51 of the device section: an event's parameters for a fault (Table 15.14). -/
def Site.params (w : Site) (count : Nat) : List Byte :=
  leBytes 2 w.locKind ++ leBytes 2 w.loc ++ leBytes 4 w.sub ++ leBytes 4 w.desc ++ leBytes 8 w.addr ++ leBytes 4 count

/-! ### Error records -/

/-- The device section's GUID in UEFI byte order (R321). -/
def deviceGuid : List Byte :=
  [0x21, 0x5F, 0x8D, 0x3C, 0x4B, 0x7A, 0x19, 0x4E, 0xB6, 0xD0, 0x92, 0xF1, 0xA4, 0xC7, 0xE5, 0x08]

/-- The severity of an outcome (Table 13.8). -/
def severity (outcome : Nat) : Nat :=
  if outcome == 8 then 1 else if [2, 4, 5, 7].contains outcome then 0 else 2

/-- "SX9" and the SLOT_ID in two decimal digits (Table 13.8). -/
def fruText (slotId : Nat) : List Byte :=
  slice (ascii 3 "SX9" ++ [BitVec.ofNat 8 (48 + slotId / 10), BitVec.ofNat 8 (48 + slotId % 10)]) 0 20

/-- Record header and section descriptor (R321; field places as UEFI lays them out, log 12). -/
def cperHead (id outcome slotId : Nat) : List Byte :=
  ascii 4 "CPER" ++ leBytes 2 0x0101 ++ leBytes 4 0xFFFFFFFF ++ leBytes 2 1 ++ leBytes 4 (severity outcome) ++ zeros 4
    ++ leBytes 4 328 ++ zeros 8 ++ zeros 32 ++ deviceGuid ++ zeros 16 ++ leBytes 8 id ++ zeros 4 ++ zeros 8 ++ zeros 12
    ++ leBytes 4 200 ++ leBytes 4 128 ++ leBytes 2 0x0100 ++ leBytes 1 2 ++ zeros 1 ++ zeros 4 ++ deviceGuid ++ zeros 16
    ++ leBytes 4 (severity outcome) ++ fruText slotId

/-- The image ID of a record: of the training image, or, in a serving profile, of the program of the record's plot; 0 where
there is none. -/
def State.imageIdOf (s : State) (plot : Nat) : Nat :=
  match if s.chip.profile == 0 then s.train.image else (s.plot? plot).bind (·.program) with
  | some i => i.id
  | none => 0

/-- The device section (Table 13.9). -/
def deviceSection (s : State) (f : FaultRec) (outcome : Nat) : List Byte :=
  leBytes 2 0x0100 ++ leBytes 2 f.kind ++ leBytes 1 outcome ++ leBytes 1 f.run ++ leBytes 2 f.phase ++ leBytes 8 f.step
    ++ leBytes 8 f.tick ++ leBytes 3 s.selfChip ++ leBytes 1 s.place.epoch
    ++ (Site.params ⟨f.locKind, f.loc, f.sub, f.desc, f.addr, none⟩ f.count)
    ++ leBytes 2 f.absent ++ leBytes 2 f.suspect ++ leBytes 8 (s.imageIdOf f.plot)
    ++ leBytes 1 s.train.variant ++ leBytes 1 f.plot ++ zeros 2 ++ serialBytes ++ zeros 44

/-- The last `n` of a list. -/
def lastN {α : Type} (n : Nat) (l : List α) : List α := l.drop (l.length - n)

/-- An error record written (R324). -/
def State.writeRecord (s : State) (f : FaultRec) (outcome : Nat) : State :=
  let id := s.flash.cperCount + 1
  let r := (id, cperHead id outcome s.chip.slotId ++ deviceSection s f outcome)
  let keep := f.kind == 0x19 || f.kind == 0x1C
  { s with
    flash := { s.flash with cperCount := id, cper := if keep then lastN 64 (s.flash.cper ++ [r]) else s.flash.cper }
    aq := { s.aq with cper := lastN 512 (s.aq.cper ++ [r]) } }

/-- The suspect mask of a run's final vote word; 0 while there is none. -/
def Run.finalSuspect (r : Run) : Nat := match r.final with
  | some w => w.suspect
  | none => 0

/-- A fault occurrence now, in the training run when there is one. -/
def State.faultRec (s : State) (kind : Nat) (w : Site) (counted : Bool) (plot : Nat) : FaultRec :=
  let r := s.train.run
  { kind := kind, locKind := w.locKind, loc := w.loc, sub := w.sub, desc := w.desc, addr := w.addr, count := 1,
    run := match r with
      | some r => r.idx
      | none => 0,
    phase := match r with
      | some r => r.phase
      | none => 0,
    step := s.stepNow, tick := s.fabric,
    absent := match r with
      | some r => r.absent
      | none => 0,
    counted := counted, left := false, plot := plot,
    suspect := match r with
      | some r => r.finalSuspect
      | none => 0 }

/-- Whether the job is in an outing: its plot ARMED, RUNNING or PARKED (Table 13.10, R316; log 14). -/
def State.outing (s : State) : Bool :=
  s.chip.profile == 0 && (s.plot0.st == .armed || s.plot0.st == .running || s.plot0.st == .parked)

/-- A fault kind with no failed check: its event and, at once, its record with the outcome given. -/
def State.notice (s : State) (kind : Nat) (w : Site) (outcome plot : Nat) : State :=
  let q := w.source
  (s.event kind q.1 q.2 (w.params 1)).writeRecord (s.faultRec kind w false plot) outcome

/-- The chip declares itself suspect (R311): SUSPECT, the flag, FAULT_N, and its replica marked in the run. -/
def State.declareSuspect (s : State) (w : Site) : State :=
  if s.flash.suspect then s
  else
    let t := s.withFaultN (fun s => { s with flash := { s.flash with suspect := true } })
    let t := t.notice 0x19 w 4 0xFF
    (t.onRun (fun r => { r with suspectMark := true })).onTrain (fun tr => { tr with
      suspectSince := some (match tr.run with
        | some r => (r.step, r.idx)
        | none => (tr.committed, 0)) })

/-! ### Link faults -/

/-- A port taken out of service without a link fault's event: FAILED, idle, its waiting cells dropped. -/
def Port.fail (p : Port) (reason : Nat) : Port :=
  { p with st := 3, reason := reason, fault := p.fault || p.st == 2, train := none, egress := [], fwd := [], ctl := [],
           votes := [], bg := [], beaconDue := false }

/-- A link fault on an ACTIVE port (R234). -/
def State.linkFault (s : State) (p reason : Nat) : State :=
  if (s.port p).st == 2 then
    let out := s.outing && (s.port p).inSlice
    let t := s.onPort p (fun q => q.fail reason)
    t.notice 0x17 ⟨2, p, reason, 0xFFFFFFFF, 0, none⟩ (if out then 4 else 9) 0xFF
  else s

/-! ### Failed checks -/

/-- The fault kinds with a local signature (Table 13.1). -/
def isLocal (kind : Nat) : Bool := [0x01, 0x02, 0x07, 0x0A, 0x0B, 0x0D].contains kind

/-- The fault kinds whose signature is a port (Table 13.1). -/
def isPortKind (kind : Nat) : Bool := kind == 0x05 || kind == 0x06

/-- Whether the kind's signature is a memory location (Table 13.1). -/
def isMemKind (kind : Nat) : Bool := kind == 0x0A || kind == 0x0B

/-- Whether two occurrences share kind and signature (R310): a memory location is the codeword, whichever unit read it. -/
def sameFault (a b : FaultRec) : Bool :=
  a.kind == b.kind && (if isLocal a.kind then
      a.locKind == b.locKind && a.loc == b.loc && (isMemKind a.kind || a.sub == b.sub) && a.addr == b.addr
    else if isPortKind a.kind then a.loc == b.loc else true)

/-- An occurrence added to a run's faults: counted into the one of the same kind and signature (R324). -/
def addFault (l : List FaultRec) (f : FaultRec) : List FaultRec :=
  if l.any (fun g => sameFault g f) then
    l.map (fun g => if sameFault g f then { g with count := sat32 (g.count + 1), counted := g.counted || f.counted } else g)
  else l ++ [f]

/-- The faults like `f` marked as having taken the chip or a port out. -/
def markLeft (l : List FaultRec) (f : FaultRec) : List FaultRec :=
  l.map (fun g => if sameFault g f then { g with left := true } else g)

/-- Whether the chip's own vote word of the run has been formed (R292, R466). -/
def State.voted (s : State) : Bool := match s.train.run with
  | some r => r.own.isSome
  | none => false

/-- Whether checks still count for a chip that a run began suspect (R312). -/
def State.exempt (s : State) : Bool := match s.train.run, s.train.suspectSince with
  | some r, some q => s.flash.suspect && (q != (r.step, r.idx))
  | some _, none => s.flash.suspect
  | none, _ => false

/-- The recurrence rule of R310 on a counted fault. -/
def State.recur (s : State) (f : FaultRec) (w : Site) : State :=
  if s.train.prev.any (fun g => sameFault g f) then
    if isLocal f.kind then
      (s.onRun (fun r => { r with faults := markLeft r.faults f })).declareSuspect w
    else if isPortKind f.kind then
      (s.onRun (fun r => { r with faults := markLeft r.faults f })).linkFault f.loc (if f.kind == 0x05 then 0x0E else 0x09)
    else s
  else s

/-- A fault of Table 13.1 in a phase of the run: it counts a failed check when it comes before the vote word, in a run of the
training plot (R297, R466). `paired` says that no descriptor met it, or only a paired computation, its digest or its
PAIR_CHECK (Table 13.6). -/
def State.failCheckIn (s : State) (phase kind : Nat) (w : Site) (paired : Bool) : State :=
  let q := w.source
  let t := s.event kind q.1 q.2 (w.params 1)
  match s.train.run with
  | none => t.writeRecord (s.faultRec kind w false 0) 9
  | some _ =>
    if !s.voted then
      let counted := !(s.exempt || s.isSpare)
      let f := { s.faultRec kind w counted 0 with phase := phase }
      let t := t.onRun (fun r => { r with faults := addFault r.faults f, failed := r.failed + b2n counted })
      if counted || isPortKind kind then t.recur f w else t
    else
      let f := { s.faultRec kind w false 0 with phase := phase }
      let t := t.onRun (fun r => { r with faults := addFault r.faults f })
      let t := if isPortKind kind then t.recur f w else t
      let leave := fun (t : State) => (t.onRun (fun r => { r with faults := markLeft r.faults f })).declareSuspect w
      if s.isSpare then t
      else if [0x04, 0x05, 0x06].contains kind then t.onTrain (fun tr => { tr with mustPark := true })
      else if kind == 0x08 then t
      else if kind == 0x0E then t
      else if kind == 0x0A || kind == 0x0B then
        let mode := match s.train.image with
          | some i => i.mode
          | none => 0
        if paired && mode != 0 then t else leave t
      else leave t

/-- The phase in progress; 0 when no step runs. -/
def State.phaseIdx (s : State) : Nat := match s.train.run with
  | some r => r.phase
  | none => 0

/-- A fault of Table 13.1 in the phase in progress. -/
def State.failCheck (s : State) (kind : Nat) (w : Site) (paired : Bool) : State := s.failCheckIn s.phaseIdx kind w paired

/-- A fault of a phase of a run that has ended, found after its boundary: its event names that run's step, its record is
written at once, and the plot parks at the boundary of the run in progress (R39, R219; log 24). -/
def State.pastFault (s : State) (r : Run) (phase kind : Nat) (w : Site) : State :=
  let q := w.source
  let t := (s.eventOf r.step kind q.1 q.2 (w.params 1)).writeRecord
    { s.faultRec kind w false 0 with
      run := r.idx, phase := phase, step := r.step, absent := r.absent, suspect := r.finalSuspect } 6
  if s.train.run.isSome && !s.isSpare then t.onTrain (fun x => { x with mustPark := true }) else t

/-- Whether a run is the one in progress. -/
def State.isNow (s : State) (r : Run) : Bool := s.train.run.any (fun x => x.base == r.base)

/-- A fault at a port in a phase of the run in progress, or of the one before. -/
def State.faultOf (s : State) (r : Run) (phase kind : Nat) (w : Site) : State :=
  if s.isNow r then s.failCheckIn phase kind w false else s.pastFault r phase kind w

/-- A fault of a serving plot's pass: its event, and its place among the pass's faults (R324, R404). -/
def State.passFault (s : State) (plot kind : Nat) (w : Site) (failed : Bool) : State :=
  let q := w.source
  let f := s.faultRec kind w failed plot
  (s.event kind q.1 q.2 (w.params 1)).onPlot plot (fun p => { p with
    pass := p.pass.map (fun x => { x with failed := x.failed || failed, faults := addFault x.faults f }) })

/-- A pass is over: the records of its faults are written, with outcome 6 (Table 13.10). -/
def State.closePass (s : State) (plot : Nat) : State := match (s.plot? plot).bind (·.pass) with
  | some x =>
    (x.faults.foldl (fun s f => s.writeRecord f 6) s).onPlot plot (fun p => { p with
      pass := p.pass.map (fun x => { x with faults := [] }) })
  | none => s

/-- A fault of Table 13.1 on a tile of a plot: for a serving plot it is counted against its pass (R404). -/
def State.plotFault (s : State) (plot : Nat) (kind : Nat) (w : Site) (paired : Bool) : State :=
  if s.chip.profile == 0 then s.failCheck kind w paired else s.passFault plot kind w true

/-- SATURATION (R139, R276): under SAT_REJECT, and not in a raised repeat, it counts a failed check and sets SAT in
the vote word; otherwise it is recorded only. In a raised repeat both SATURATION, as a fault kind of R297, and
SAT_REPEAT are raised. -/
def State.saturation (s : State) (plot : Nat) (w : Site) (tile rec : Nat) : State :=
  if s.chip.profile == 0 then
    match s.train.run with
    | none => s
    | some r =>
      if r.raised then
        ((s.event 0x08 1 tile (w.params 1)).event 0x21 1 tile (leBytes 2 tile ++ leBytes 2 rec)).onRun (fun r => { r with
          faults := addFault r.faults (s.faultRec 0x08 w false 0) })
      else if s.train.satAccept || s.voted || s.exempt || s.isSpare then
        (s.event 0x08 1 tile (w.params 1)).onRun (fun r => { r with
          faults := addFault r.faults (s.faultRec 0x08 w false 0) })
      else (s.failCheck 0x08 w false).onRun (fun r => { r with sat := true })
  else
    let accept := match s.plot? plot with
      | some p => match p.program with
        | some i => i.satAccept
        | none => false
      | none => false
    let t := s.onPlot plot (fun p => { p with pass := p.pass.map (fun x => { x with sat := true }) })
    t.passFault plot 0x08 w (!accept)

/-! ### What reads of memory report -/

/-- Ticks of the corrected codewords still in the window of 1,048,576 ticks, with `n` more (R303). -/
def rateWindow (l : List Nat) (now n : Nat) : List Nat :=
  l.filter (fun t => now < t + 1048576) ++ List.replicate n now

/-- Corrected codewords counted for a stack, and CORRECTED_RATE when its window holds more than 4,096. -/
def State.countStack (s : State) (k n : Nat) : State :=
  if n == 0 then s
  else
    let w := rateWindow (s.stack k).corrTicks s.ownTick n
    let full := decide (w.length > 4096)
    let t := s.onStack k (fun x => { x with corrected := sat32 (x.corrected + n), corrTicks := if full then [] else w })
    if full then t.notice 0x10 ⟨3, k, 0, 0xFFFFFFFF, 0, none⟩ 0 0xFF else t

/-- Corrected codewords counted for a tile. -/
def State.countTile (s : State) (i n : Nat) : State :=
  if n == 0 then s
  else
    let w := rateWindow (s.tile i).corrTicks s.ownTick n
    let full := decide (w.length > 4096)
    let t := s.onTile i (fun x => { x with corrected := sat32 (x.corrected + n), corrTicks := if full then [] else w })
    if full then t.notice 0x10 ⟨1, i, 0, 0xFFFFFFFF, 0, none⟩ 0 0xFF else t

/-- The place of a codeword of HBM: stack, channel, data address in the plot's space. -/
def siteHbm (ks : List Nat) (cw desc : Nat) : Site :=
  ⟨3, stackOfCw cw, channelOf (groupOfCw cw), desc, addrOfCw ks cw, none⟩

/-- The place of a codeword of a tile's SRAM, with the unit that read it (Table 4.4). -/
def siteSram (tile unit cw desc : Nat) : Site := ⟨1, tile, unit, desc, 64 * cw, none⟩

/-- What a scheduled read of HBM met is counted and raised (R302, R303, R306). -/
def State.seenHbm (s : State) (plot : Nat) (ks : List Nat) (desc : Nat) (paired : Bool) (x : Seen) : State :=
  let s := (List.range 8).foldl (fun s k =>
    let s := s.countStack k (x.corrected.filter (fun cw => stackOfCw cw == k)).length
    s.onStack k (fun y => { y with
      uncorrectable := sat32 (y.uncorrectable + (x.uncorrectable.filter (fun cw => stackOfCw cw == k)).length) })) s
  let s := x.uncorrectable.foldl (fun s cw => s.plotFault plot 0x0A (siteHbm ks cw desc) paired) s
  x.found.foldl (fun s cw => s.plotFault plot 0x0B (siteHbm ks cw desc) paired) s

/-- What a scheduled read of a tile's SRAM met. -/
def State.seenSram (s : State) (plot tile unit desc : Nat) (paired : Bool) (x : Seen) : State :=
  let s := s.countTile tile x.corrected.length
  let s := x.uncorrectable.foldl (fun s cw => s.plotFault plot 0x0A (siteSram tile unit cw desc) paired) s
  x.found.foldl (fun s cw => s.plotFault plot 0x0B (siteSram tile unit cw desc) paired) s

/-- What a read of HBM by a command, a host access or a drain met. While a step runs, it counts as R306 gives; while none
runs, a poisoned read affects only what made it. No descriptor met it, so after the vote word only recovery mode 0
makes the chip suspect for it (Table 13.6). -/
def State.seenHost (s : State) (ks : List Nat) (x : Seen) : State :=
  let s := (List.range 8).foldl (fun s k =>
    let s := s.countStack k (x.corrected.filter (fun cw => stackOfCw cw == k)).length
    s.onStack k (fun y => { y with
      uncorrectable := sat32 (y.uncorrectable + (x.uncorrectable.filter (fun cw => stackOfCw cw == k)).length) })) s
  if s.train.run.isSome then
    let s := x.uncorrectable.foldl (fun s cw => s.failCheck 0x0A (siteHbm ks cw 0xFFFFFFFF) true) s
    x.found.foldl (fun s cw => s.failCheck 0x0B (siteHbm ks cw 0xFFFFFFFF) true) s
  else x.uncorrectable.foldl (fun s cw => s.notice 0x0A (siteHbm ks cw 0xFFFFFFFF) 9 0xFF) s

/-! ### Records at the vote -/

/-- The outcome of a fault of a run (Table 13.10, R324), given the faults of the run it is held against. -/
def FaultRec.outcome (f : FaultRec) (other : List FaultRec) : Nat :=
  if f.left then 4 else if !f.counted then 6 else if other.any (fun g => sameFault g f) then 2 else 1

/-- The records of the failed run before this one, whose outcome this run's vote decides (R324): once. -/
def State.settlePrev (s : State) : State :=
  match s.train.run with
  | none => s
  | some r =>
    if s.train.settled then s
    else (s.train.prev.foldl (fun s f => s.writeRecord f (f.outcome r.faults)) s).onTrain (fun t => { t with settled := true })

/-- At the vote: the earlier run's records, and at the run limit those of this run too (R309). -/
def State.settle (s : State) (limit : Bool) : State :=
  let s := s.settlePrev
  match s.train.run with
  | none => s
  | some r =>
    if limit then
      (r.faults.foldl (fun s f => s.writeRecord f (if f.left then 4 else 5)) s).onRun (fun r => { r with faults := [] })
    else s

/-- A run that no repeat follows is left: the records of its faults not yet written, and of the run before it, are written, so
that every fault keeps its record (R324, R466). Those of a commit counted no failed check, or took something out; a counted
one whose repeat never comes is TRANSIENT, or RECURRING where the run before had it too (log 80). -/
def State.closeRun (s : State) : State :=
  let s := s.settlePrev
  match s.train.run with
  | none => s
  | some r =>
    (r.faults.foldl (fun s f => s.writeRecord f (f.outcome s.train.prev)) s).onRun (fun r => { r with faults := [] })

end Sys2Proof.Machine
end

