-- ==== Sys2Proof/Machine/Packets.lean ====
section
/-! DEFINITION. Background packets (R239, R240, R245): header, payload, check, and the counters of the plane (R264). -/
namespace Sys2Proof.Machine

/-- A counter of Table 11.11 counted, saturating: 0 DEFLECTED, 1 HOP_DROP, 2 STALE, 3 UNROUTABLE, 4 HDR_ERR,
5 FEC_LOST, 6 OFF_DROP, 7 DUPLICATE, 8 BEYOND_WINDOW, 9 TRACKER_FULL, 10 REGION_REJECT, 11 REFUSE_SENT, 12 RETRANSMIT,
13 EJECT_DEFLECT. -/
def State.countBgp (s : State) (i : Nat) : State :=
  s.onBgp (fun b => { b with counters := modifyAt b.counters i (fun n => sat32 (n + 1)) })

/-- A counter of Table 11.11 counted `n` times, saturating. -/
def State.countsBgp (s : State) (i n : Nat) : State :=
  s.onBgp (fun b => { b with counters := modifyAt b.counters i (fun k => sat32 (k + n)) })

/-! ### Headers -/

/-- The fields of a packet's header (Table 11.1). -/
structure PktHead where
  poison : Bool
  dst : Nat
  src : Nat
  cls : Nat
  stream : Nat
  seq : Nat
  index : Nat
  total : Nat
  addr : Nat
  len : Nat
  flags : Nat
  age : Nat
  hops : Nat
  epoch : Nat
  deriving DecidableEq, Repr, Inhabited

/-- LAST, FETCH, REPLY and REFUSE. -/
def fLast : Nat := 1
/-- FETCH. -/
def fFetch : Nat := 2
/-- REPLY. -/
def fReply : Nat := 4
/-- REFUSE. -/
def fRefuse : Nat := 8

/-- Bytes 0 to 29 of a header. -/
def PktHead.bytes (h : PktHead) : List Byte :=
  leBytes 1 (1 + 8 * b2n h.poison) ++ leBytes 3 h.dst ++ leBytes 3 h.src ++ leBytes 1 h.cls ++ leBytes 2 h.stream
    ++ leBytes 3 h.seq ++ leBytes 3 h.index ++ leBytes 3 h.total ++ leBytes 6 h.addr ++ leBytes 1 h.len
    ++ leBytes 3 (h.flags % 16 + 16 * h.age + 16384 * h.hops) ++ leBytes 1 h.epoch

/-- The check of a header: the low 16 bits of the CRC-32C over bytes 0 to 29. -/
def headCheck (b : List Byte) : List Byte := leBytes 2 ((crc32c b).toNat % 65536)

/-- A packet of 256 bytes. -/
def packet (h : PktHead) (payload : List Byte) : List Byte := h.bytes ++ headCheck h.bytes ++ slice payload 0 224

/-- The header of a packet. -/
def headOf (b : List Byte) : PktHead :=
  let w := fieldAt b 26 3
  { poison := bit (fieldAt b 0 1) 3, dst := fieldAt b 1 3, src := fieldAt b 4 3, cls := fieldAt b 7 1,
    stream := fieldAt b 8 2, seq := fieldAt b 10 3, index := fieldAt b 13 3, total := fieldAt b 16 3,
    addr := fieldAt b 19 6, len := fieldAt b 25 1, flags := w % 16, age := w / 16 % 1024, hops := w / 16384,
    epoch := fieldAt b 29 1 }

/-- Whether a header passes rule 2 of R241. -/
def headOk (b : List Byte) : Bool :=
  slice b 30 2 == headCheck (slice b 0 30) && fieldAt b 0 1 &&& 0xF7 == 1 && fieldAt b 1 3 < 2 ^ 20 && fieldAt b 4 3 < 2 ^ 20
    && fieldAt b 7 1 ≤ 4 && fieldAt b 25 1 ≤ 224

/-- The payload of a packet. -/
def payloadOf (b : List Byte) : List Byte := slice b 32 224

/-- A packet as it departs at a core cycle: one hop more, and its age more by 1 and the whole ticks that it has waited in this
router (R245). -/
def Packet.departed (p : Packet) (now : Nat) : List Byte :=
  let h := headOf p.bytes
  let h := { h with hops := min (h.hops + 1) 1023, age := min (h.age + 1 + (now - p.release) / 1024) 1023 }
  h.bytes ++ headCheck h.bytes ++ slice p.bytes 32 224

end Sys2Proof.Machine
end

