-- ==== Sys2Proof/Machine/ProfileRec.lean ====
section
/-! DEFINITION. Profile records (R392 to R395): which are valid, which copy is used, and the plots they lay out. -/
namespace Sys2Proof.Machine

/-- The aligned runs of 3, 6 or 12 clusters, with the stacks they bring (R394). -/
def clusterRuns : List (Nat × Nat) :=
  [(0x007, 0x03), (0x038, 0x0C), (0x1C0, 0x30), (0xE00, 0xC0), (0x03F, 0x0F), (0xFC0, 0xF0), (0xFFF, 0xFF)]

/-- The plot count a profile must have. -/
def profilePlots (n : Nat) : Nat := if n == 3 then 4 else if n == 2 then 2 else 1

/-- The offset of the first offending field of plot `k`'s eight bytes, `taken` being the clusters of earlier plots. -/
def plotBad (profile count k taken : Nat) (b : List Byte) : Option Nat :=
  let o := 16 + 8 * k
  let cl := fieldAt b o 2
  let st := fieldAt b (o + 2) 1
  if k ≥ count then (if zeroAt b o 8 then none else some o)
  else if profile == 0 then
    if cl != 0xFFF then some o
    else if st != 0xFF then some (o + 2)
    else if fieldAt b (o + 3) 1 != 0 then some (o + 3)
    else if !zeroAt b (o + 4) 4 then some (o + 4) else none
  else if !(clusterRuns.any (fun r => r.1 == cl)) || cl &&& taken != 0 then some o
  else if !(clusterRuns.contains (cl, st)) then some (o + 2)
  else if fieldAt b (o + 3) 1 != k + 1 then some (o + 3)
  else if !zeroAt b (o + 4) 4 then some (o + 4) else none

/-- The offset of the first offending field of a profile record for profile `n`, or none (R394). -/
def profileBad (n : Nat) (b : List Byte) : Option Nat :=
  let cl := fun k => fieldAt b (16 + 8 * k) 2
  if slice b 0 4 != ascii 4 "PRF1" then some 0
  else if fieldAt b 4 1 != n then some 4
  else if fieldAt b 5 1 != profilePlots n then some 5
  else if fieldAt b 6 1 != (if n == 0 then 1 else 0) then some 6
  else if !zeroAt b 7 9 then some 7
  else
    let c := profilePlots n
    match plotBad n c 0 0 b, plotBad n c 1 (cl 0) b, plotBad n c 2 (cl 0 ||| cl 1) b,
        plotBad n c 3 (cl 0 ||| cl 1 ||| cl 2) b with
    | some o, _, _, _ => some o
    | _, some o, _, _ => some o
    | _, _, some o, _ => some o
    | _, _, _, some o => some o
    | _, _, _, _ =>
      if !zeroAt b 48 12 then some 48
      else if fieldAt b 60 4 != (crc32c (slice b 0 60)).toNat then some 60 else none

/-- The valid copy of profile `n`'s record: device 0's, else device 1's (R395). -/
def Flash.profile? (f : Flash) (n : Nat) : Option (List Byte) :=
  let a := nth f.prof0 n []
  let b := nth f.prof1 n []
  if (profileBad n a).isNone then some a else if (profileBad n b).isNone then some b else none

/-- The set bits of a mask below `n`, in ascending order. -/
def maskBits (m n : Nat) : List Nat := (List.range n).filter (fun i => bit m i)

/-- The plots a profile record lays out, every one EMPTY. -/
def plotsOf (b : List Byte) : List Plot :=
  (List.range (fieldAt b 5 1)).map (fun k =>
    Plot.fresh (maskBits (fieldAt b (16 + 8 * k) 2) 12) (maskBits (fieldAt b (18 + 8 * k) 1) 8)
      (fieldAt b (19 + 8 * k) 1))

/-- A profile record taken (R395): its plots. -/
def State.takeProfile (s : State) (n : Nat) (b : List Byte) : State :=
  { s with chip := { s.chip with profile := n }, plots := plotsOf b }

end Sys2Proof.Machine
end

