-- ==== Sys2Proof/Machine/Halt.lean ====
section
/-! DEFINITION. Ending things: completions of copy and send queues (R176), the end of a hamper (R333), a route-epoch
change (R261), parking (R341), a plot reset (R400), the abort of commands (R377, R419), and a chip reset (R418). -/
namespace Sys2Proof.Machine

/-! ### Completions of the copy queues and the send queue (R176, R262) -/

/-- Queue `q`: 0 to 4 the host copy queues, 5 the send queue. -/
def State.dmaQ (s : State) (q : Nat) : DmaQueue := if q == 5 then s.dma.send else nth s.dma.queues q DmaQueue.reset

/-- Queue `q` changed. -/
def State.onQ (s : State) (q : Nat) (f : DmaQueue → DmaQueue) : State :=
  if q == 5 then { s with dma := { s.dma with send := f s.dma.send } }
  else { s with dma := { s.dma with queues := modifyAt s.dma.queues q f } }

/-- Function and MSI-X vector of a queue (Table 18.8). -/
def qFn (q : Nat) : Nat := if q == 5 then 0 else q
/-- The vector. -/
def qVec (q : Nat) : Nat := if q == 5 then 6 else if q == 0 then 5 else 2

/-- A 16-byte completion (Table 7.12). -/
def copyCompletion (tag status : Nat) (phase : Bool) (ring count bytes : Nat) : List Byte :=
  leBytes 2 tag ++ leBytes 2 status ++ leBytes 4 (b2n phase + 2 * (ring % 4096) + 8192 * (min count 0x7FFFF))
    ++ leBytes 8 bytes

/-- A completion written to the queue's ring: the tail moves, the phase inverts on each pass, and the vector is
signalled when the entry asks for it. -/
def State.copyDone (s : State) (q ring tag : Nat) (signal : Bool) (status count bytes : Nat) : State :=
  let d := s.dmaQ q
  let at_ := d.cBase.toNat + 16 * d.cTail.toNat
  let next := (d.cTail.toNat + 1) % (max d.size.toNat 1)
  let t := s.emit (.hostWrite (qFn q) at_ (copyCompletion tag status d.phase ring count bytes))
  let t := t.onQ q (fun d => { d with cTail := BitVec.ofNat 32 next, phase := if next == 0 then !d.phase else d.phase })
  if signal then t.signal (qFn q) (qVec q) else t

/-- A queue that has reached STOPPED clears ENABLE (R174). -/
def DmaQueue.stop (d : DmaQueue) : DmaQueue := { d with st := 0 }

/-- Whether entries of a queue are in progress. -/
def State.queueBusy (s : State) (q : Nat) : Bool :=
  if q == 5 then !s.dma.sendJobs.isEmpty else s.dma.jobs.any (fun j => j.1 == q)

/-- The index at which a queue starts no further entry. -/
def DmaQueue.limit (d : DmaQueue) : W32 := if d.st == 2 then d.drainTo else d.tail

/-- A draining or aborting queue with nothing left stops (R174, R175). -/
def State.drained (s : State) (q : Nat) : State :=
  let d := s.dmaQ q
  if (d.st == 2 || d.st == 3) && d.head == d.limit && !s.queueBusy q then s.onQ q DmaQueue.stop else s

/-- A completion written, after which a draining or aborting queue may stop; a ring that cannot be written over PCIe stops the
queue with RING_FAULT (Table 7.10). -/
def State.copyPost (s : State) (q ring tag : Nat) (signal : Bool) (status count bytes : Nat) (ringOk : Bool) : State :=
  if ringOk then (s.copyDone q ring tag signal status count bytes).drained q
  else s.onQ q (fun d => { d.stop with ringFault := true })

/-- A send entry ended (Table 11.10). -/
def State.sendDone (s : State) (idx status cause bytes : Nat) : State :=
  match s.dma.sendJobs.find? (fun j => j.1 == idx) with
  | none => s
  | some j =>
    let s := { s with dma := { s.dma with sendJobs := s.dma.sendJobs.filter (fun j => j.1 != idx) } }
    let ring := idx % (max s.dma.send.size.toNat 1)
    (s.copyDone 5 ring j.2.tag.toNat j.2.signal status cause bytes).drained 5

/-! ### Hampers, epochs -/

/-- The hamper in hand taken away with the work behind it: flash commands, its stream, and the protection of its pages. -/
def State.dropHamper (s : State) : State :=
  let s := s.onSnap (fun n => { n with hamper := none, snap := [], copied := [], armedNext := false })
  let s := s.onHost (fun h => { h with nvme := h.nvme.filter (fun c => decide (2 ≤ c.use_)) })
  let now := s.ownTick
  let mine := fun (x : Stream) => x.purpose == Purpose.hamper
  s.onBgp (fun b => { b with
    ended := b.ended ++ (b.streams.filter mine).map (fun x => (x.chip, x.id, now))
    streams := b.streams.filter (fun x => !mine x) })

/-- A hamper ended with a status, its destinations left unsealed. -/
def State.failHamper (s : State) (status detail result : Nat) : State :=
  match s.snap.hamper with
  | none => s
  | some h =>
    let s := s.dropHamper
    match h.job with
    | some op => s.endOp op status detail (if op == 0x0701 then s.train.committed else result)
    | none => s

/-- A RECALL_NOTICE whose halt has taken effect and whose seal has not begun: it waits for a hamper that drains (R333, R342;
log 88). -/
def State.sealWaits (s : State) : Option Job :=
  s.aq.jobs.find? (fun j => j.opcode == 0x0701 && s.plot0.st == .parked && arg j.slot 8 1 != 0
    && !s.train.changes.any (fun c => match c with
      | .recall t _ _ => t == arg j.slot 0 8
      | _ => false)
    && !s.snap.hamper.any (fun h => h.job == some 0x0701))

/-- A seal that waits ends ABORTED with the committed step as its result: the state that it was to seal is left (log 88). -/
def State.dropSeal (s : State) : State := match s.sealWaits with
  | some j => s.endJob j stAborted 0 s.train.committed
  | none => s

/-- A hamper ended ABORTED, its destinations left unsealed (R333), and a seal that waits for it with it. Its pages need no
protection any more. -/
def State.endHamper (s : State) : State := (s.failHamper stAborted 0 0).dropSeal

/-- Bytes of a stream's packets that the receiver has acknowledged: all are of 224 bytes but the last. -/
def Stream.ackedBytes (x : Stream) : Nat :=
  let q := x.total - 1
  let last := decide (q < x.ackH) || (decide (q - x.ackH < 256) && x.ackWin.getLsbD (q - x.ackH))
  x.ackCount * 224 - (if last then x.total * 224 - x.bytes else 0)

/-- Every background packet that the chip holds discarded and counted in BGP_STALE: each is of the old route epoch (R241, R261;
log 93). -/
def State.dropStale (s : State) : State :=
  let n := s.bgp.transit.length + s.bgp.eject.length + (s.ports.map (fun p => p.bg.length)).foldl (· + ·) 0
  ((s.countsBgp 2 n).onPorts (fun p => { p with bg := [] })).onBgp (fun b => { b with transit := [], eject := [] })

/-- What the chip does when its route epoch changes (R261): streams and fetches of the old epoch end ABORTED, the
tracker and the request table are freed, and the packets it holds are discarded. An AUDIT in progress ends ABORTED (R319). -/
def State.newEpoch (s : State) (e : Nat) : State :=
  let s := { s with place := { s.place with epoch := e } }
  let s := (s.abortJobs (fun j => j.opcode == 0x0704) 0 0).onTrain (fun t => { t with
    audit := none, changes := t.changes.filter (fun c => match c with
      | .audit _ _ _ _ => false
      | _ => true) })
  let hosts := (s.bgp.streams.filterMap (fun x => match x.purpose with
    | .host i => some (i, x.ackedBytes)
    | _ => none)) ++ s.bgp.fetches.map (fun f => (f.idx, 0))
  let s := (hosts.foldl (fun s h => s.sendDone h.1 stAborted 2 h.2) s).dropStale
  let now := s.ownTick
  s.onBgp (fun b => { b with
    ended := b.ended ++ b.streams.map (fun x => (x.chip, x.id, now)) ++ b.fetches.map (fun f => (f.chip, f.stream, now))
    streams := [], fetches := [], tracker := [], requests := [], ready := [], serves := [], served := [] })

/-! ### The end of LINK_TRAIN -/

/-- The ports in a LINK_TRAIN's mask. -/
def trainMask (c : Slot) : List Nat := (List.range 10).filter (fun p => bit (arg c 0 2) p)

/-- LINK_TRAIN ends once no port of its mask trains any more: DONE when all are ACTIVE, else ABORTED with the ports
left FAILED (R215, Table 10.4). -/
def State.linkTrainEnd (s : State) : State :=
  match s.job? 0x0501 with
  | none => s
  | some j =>
    let m := trainMask j.slot
    if m.any (fun p => (s.port p).st == 1) then s
    else
      let bad := m.filter (fun p => (s.port p).st != 2)
      if bad.isEmpty then s.endJob j stDone 0 0
      else s.endJob j stAborted ((bad.map (fun p => 2 ^ p)).foldl (· + ·) 0) 0

/-! ### Refresh -/

/-- The plot's stacks handed to a refresher (R92, R93). -/
def State.refreshBy (s : State) (ks : List Nat) (r : RefreshBy) : State :=
  ks.foldl (fun s k => s.onStack k (fun x => { x with refresh := r })) s

/-- No step runs on the stacks: their controller refreshes them, but while the PLL is in holdover and in HOLD they stay in
self-refresh (R41, R93). -/
def State.rest (s : State) (ks : List Nat) : State :=
  if s.time.pll == .holdover || s.chip.st == .hold then s else s.refreshBy ks .controller

/-! ### The training plot leaves RUNNING -/

/-- Every port's scheduled traffic taken away: no step runs. -/
def Port.quiet (p : Port) : Port := { p with egress := [], fwd := [], votes := [], beaconDue := false }

/-- The run in progress becomes the one that has ended last: at its boundary, or at the tick that cuts it short. -/
def State.leaveRun (s : State) : State :=
  s.onTrain (fun t => { t with
    past := t.run.map (fun r => ⟨{ r with period := min r.period (s.time.tick - r.base) }, t.variant⟩) })

/-- The plot parks (R341): no step runs, STOP and START in progress end ABORTED (R380), and so does a RECALL_NOTICE
whose halt has not come (R342). The next START gives the step a first run again (R284, R309). `byRecall` leaves the
RECALL_NOTICE to its own end. -/
def State.park (s : State) (byRecall : Bool) : State :=
  let s := (s.closeRun.leaveRun.setPlot0 .parked).onTrain (fun t => { t with
    run := none, next := none, mustPark := false, haltTick := s.time.tick, failedRuns := 0, nextAbsent := 0
    changes := t.changes.filter (fun c => match c with
      | .stop _ => false
      | .recall _ _ _ => false
      | _ => true) })
  let s := s.onPorts Port.quiet
  let s := s.abortJobs (fun j => j.opcode == 0x0403 || j.opcode == 0x0404) 0 0
  let s := if byRecall then s else s.abortJobs (fun j => j.opcode == 0x0701) 0 s.train.committed
  s.rest (List.range 8)

/-- Whether a halt now would leave an update half done (R177): an update phase of a run whose vote passed. -/
def State.inUpdate (s : State) : Bool := match s.train.run with
  | some r => s.phaseKind == some 3 && r.passed == some true && decide (s.train.committed < r.step)
  | none => false

/-- First byte of a region. -/
def Region.base (r : Region) : Nat := r.first * Config.pageBytes
/-- Bytes of a region. -/
def Region.bytes (r : Region) : Nat := r.pages * Config.pageBytes

/-- A halt in an update phase leaves the persistent and partner regions unusable (R177). -/
def State.spoil (s : State) : State :=
  if s.inUpdate then s.onTrain (fun t => { t with
    updateHalted := true
    spoiled := t.spoiled ++ (match t.image with
      | some i => (i.regions.filter (fun r => r.kind == 1 || r.kind == 2)).map (fun r => (r.base, r.bytes))
      | none => []) })
  else s

/-- The training plot halted at a cycle boundary because the chip leaves its slice (R41, R316, R177). -/
def State.haltTraining (s : State) : State :=
  if s.chip.profile == 0 && (s.plot0.st == .running || s.plot0.st == .armed) then
    s.spoil.park false
  else if s.chip.profile == 0 && s.plot0.st == .parked then
    -- a START that waits for its S0 ends when fabric time ceases to be VALID (R380)
    (s.abortJobs (fun j => j.opcode == 0x0403) 0 0).onTrain (fun t => { t with next := none })
  else s

/-- A serving plot halted and left EMPTY, as a plot reset does (R400, R417, R426): its context is invalid, its pass is discarded, its
faults' records are written, and the controller refreshes its stacks (R93). -/
def State.emptyPlot (s : State) (n : Nat) : State :=
  let ks := match s.plot? n with
    | some p => p.hstacks
    | none => []
  let ctx := (hbmBytes ks / Config.pageBytes - 1) * Config.pageBytes
  let s := s.onMem (fun m => { m with hbm := (hbmStore m.hbm ks (ctx + 4) (clean [0])).1 })
  ((s.closePass n).onPlot n (fun p => { p with
    st := .empty, pass := none, program := none, posts := [], pending := 0, stopping := none })).rest ks

/-- Every serving plot that runs halted as a plot reset halts it and left EMPTY (R417, R426). -/
def State.haltServing (s : State) : State :=
  if s.chip.profile == 0 then s
  else
    let hit := (List.range s.plots.length).filter (fun n => match s.plot? n with
      | some p => p.st == .running || p.st == .draining
      | none => false)
    let s := s.abortJobs (fun j => hit.contains j.slot.target.toNat) 0 0
    hit.foldl (fun s n => s.emptyPlot n) s

/-! ### Aborting commands -/

/-- The work behind a command of the configuration set undone, by its own abort rule where it has one. -/
def State.dropWork (s : State) (opcode : Nat) : State :=
  if opcode == 0x0401 then s.onTrain (fun t => { t with loading := none })
  else if opcode == 0x0501 then s.onPorts (fun p => if p.st == 1 then p.fail 0x0C else p)
  else if opcode == 0x0506 then s.onTime (fun t => { t with armed := false, arming := none, checkFail := true })
  else if opcode == 0x0201 then { s with chip := { s.chip with test := none } }
  else if opcode == 0x0203 then { s with vec := none }
  else if opcode == 0x0702 then { (s.onTrain (fun t => { t with shiftAborted := true })) with shift := none }
  else s

/-- The commands in progress that `f` picks ended ABORTED, detail 0, with their work dropped. -/
def State.abortWork (s : State) (f : Job → Bool) : State :=
  (s.aq.jobs.filter f).foldl (fun s j => (s.endJob j stAborted 0 0).dropWork j.opcode) s

/-- A plot reset (R400, R419): tiles halt, every command on the plot ends ABORTED, the context is invalid, the plot
is EMPTY. -/
def State.plotReset (s : State) (n : Nat) : State :=
  let s := s.spoil
  let s := s.abortWork (fun j => j.slot.target.toNat == n)
  if s.chip.profile == 0 then
    let s := s.endHamper
    let s := (s.closeRun.setPlot0 .empty).onTrain (fun t => { t.emptied with committed := t.committed, absentLast := t.absentLast })
    let s := s.onPorts Port.quiet
    { (s.rest (List.range 8)) with shift := none }
  else s.emptyPlot n

/-- A controller reset (R419, R391): a draining hamper and every command of the configuration set end ABORTED, and
the controller restarts from the active bank. -/
def State.controllerReset (s : State) : State :=
  let s := s.endHamper
  let s := s.abortWork (fun j => isConfig j.opcode)
  { s with chip := { s.chip with restart := some (s.flash.active, false) } }

/-! ### Chip reset -/

/-- The firmware bank that is active after a chip reset: a staged FW_ACTIVATE of mode 1 is applied (R391, R418). -/
def Flash.applied (f : Flash) : Flash :=
  if f.activateNext then { f with active := 1 - f.active, activateNext := false, staging := none }
  else { f with staging := none }

/-- What a chip reset leaves before it takes a profile (R418): everything at its reset value, but the journal (cleared
only with `vioLost`), configuration flash, the local flash ring, the straps and the reset record (R420); HBM undefined. -/
def State.cleared (s : State) (cause : Nat) (vioLost full : Bool) : State :=
  let f := s.flash.applied
  { State.reset with
    pending := s.pending
    out := s.out
    free := s.free
    time := { TimeBlock.reset with cyc := s.time.cyc, ftref := s.time.ftref }
    flash := f
    tap := s.tap
    chip := { Chip.reset with
      held := s.chip.held
      profsel := s.chip.profsel
      slotId := s.chip.slotId
      cause := if vioLost then 0 else cause
      count := if vioLost then 1 else min (s.chip.count + 1) 65535
      thermTrip := s.chip.thermTrip
      gen := s.chip.gen + 1
      fullNext := full
      ucode := (nth f.banks f.active ⟨false, 0, 0⟩).ucode }
    aq := { Aqvel.reset with
      journal := if vioLost then [] else s.aq.journal
      jnext := if vioLost then 1 else s.aq.jnext }
    snap := { Snap.reset with rings := s.snap.rings }
    mem := { Memories.reset with hbm := ⟨[], [], List.replicate 8 (s.chip.gen + 1)⟩ } }

/-- The cleared chip with the profile that its straps select. -/
def State.clearedTo (s : State) (cause : Nat) (vioLost full : Bool) : State :=
  let t := s.cleared cause vioLost full
  match t.flash.profile? s.chip.profsel with
  | some b => t.takeProfile s.chip.profsel b
  | none => t

/-- A land's level changed, when it changes. -/
def State.pinTo (s : State) (land : Nat) (old new : Bool) : State := if old == new then s else s.emit (.pin land new)

/-- A chip reset (R418), with the changes of FAULT_N and FL_PERST_N sent out (R421, R446). -/
def State.chipReset (s : State) (cause : Nat) (vioLost full : Bool) : State :=
  let t := s.clearedTo cause vioLost full
  (t.pinTo 0 s.faultN t.faultN).pinTo 2 s.chip.flPerst t.chip.flPerst

end Sys2Proof.Machine
end

