-- ==== Sys2Proof/Machine/Pipeline.lean ====
section
/-! DEFINITION. How every command slot is taken and checked (R361, R365, R368 to R378): one shared pipeline, to which
each opcode gives its extended lengths, its target kind, the states it is allowed in, and its own checks and effect. -/
namespace Sys2Proof.Machine

/-- What an opcode's own part answers. -/
inductive Reply where
  /-- a parameter check fails: nothing changes -/
  | fail (status detail : Nat)
  /-- done at once: detail, result, and the state after its effect -/
  | done (detail result : Nat) (s : State)
  /-- done at once with another final status, after its effect -/
  | ended (status detail result : Nat) (s : State)
  /-- accepted: the work goes on -/
  | accepted (s : State)
  /-- accepted, and an effect that follows the completion -/
  | acceptedThen (s : State) (after : State → State)
  /-- done, and an effect that follows the completion (RESET) -/
  | doneThen (detail result : Nat) (s : State) (after : State → State)

/-- Which targets an opcode takes (R369). -/
inductive TargetKind where
  | chip
  | plot
  | either
  deriving DecidableEq, Repr

/-- Whether a target byte is one the opcode takes and the profile in force has. -/
def targetOk (s : State) (k : TargetKind) (t : Nat) : Bool :=
  match k with
  | .chip => t == 0xFF
  | .plot => t < s.plots.length
  | .either => t == 0xFF || t < s.plots.length

/-- Commands of a source that owe a second completion. -/
def State.owed (s : State) (src : Source) : Nat := (s.aq.jobs.filter (fun j => j.slot.src == src)).length

/-- Commands of a source that owe a second completion which will be delivered: taken since the pair was last enabled (R361, R363). -/
def State.owes (s : State) (src : Source) : Nat :=
  (s.aq.jobs.filter (fun j => j.slot.src == src && j.gen == s.srcGen src)).length

/-- Free completion entries of a pair (R361), entries waiting to be written taken as used. -/
def Pair.room (p : Pair) : Nat :=
  p.cqSize.toNat - 1 - (p.cqTail.toNat + p.cqSize.toNat - p.cqHead.toNat) % (max p.cqSize.toNat 1) - p.waiting.length

/-- Whether a slot of this source can be taken now (R361, R364, R375, R378, R391). -/
def State.takeable (s : State) (c : Slot) : Bool :=
  let up := s.chip.st != .boot && !(s.chip.held.power || s.chip.held.pin || s.chip.held.trip) && s.chip.restart.isNone
  let fence := !(c.flags.getLsbD 1) || s.owed c.src == 0
  match c.src with
  | .pair n =>
    let p := s.pair n
    let here := n ≤ 3 || (s.plots.any (fun q => q.fn == n - 3 && s.chip.profile != 0))
    up && fence && n < 8 && here && p.running && !p.visible.isEmpty && decide (s.owes c.src + 1 ≤ p.room)
  | .endpoint _ => up && fence && s.aq.eid.isSome

/-- Whether 4 sideband commands are in progress, counted from their arrival (R365). -/
def State.sidebandBusy (s : State) : Bool :=
  decide ((s.aq.jobs.filter (fun j => match j.slot.src with
    | .endpoint _ => true
    | .pair _ => false)).length + s.aq.arrived.length ≥ 4)

/-- A slot that cannot be taken yet. One of a pair waits in its ring. One of the sideband waits in the controller, as one of 4 at
most: a fifth completes BUSY, when the chip answers at all (R365). -/
def State.wait (s : State) (opcode : Nat) (c : Slot) : State :=
  match c.src with
  | .pair _ => s
  | .endpoint _ =>
    if s.aq.eid.isNone || s.aq.arrived.any (fun a => a.1 == c) then s
    else if !s.sidebandBusy then s.onAq (fun a => { a with arrived := a.arrived ++ [(c, s.time.cyc)] })
    else if s.chip.st != .boot && s.chip.restart.isNone then s.reject opcode c stBusy 0 0 false
    else s

/-- The slot taken from its ring, where SQHEAD moves on, or from the sideband commands that wait. -/
def State.take (s : State) (c : Slot) : State :=
  match c.src with
  | .pair n => s.onPair n (fun p => { p with
      sqHead := BitVec.ofNat 32 ((p.sqHead.toNat + 1) % (max p.sqSize.toNat 1))
      visible := p.visible.tail })
  | .endpoint _ => s.onAq (fun a => { a with arrived := a.arrived.filter (fun x => x.1 != c) })

/-- Ticks from the moment the slot became visible (R371). -/
def State.waited (s : State) (c : Slot) : Nat :=
  match c.src with
  | .pair n => (s.time.cyc - (s.pair n).visible.headD s.time.cyc) / 1024
  | .endpoint _ => match s.aq.arrived.find? (fun a => a.1 == c) with
    | some a => (s.time.cyc - a.2) / 1024
    | none => 0

/-- Opcodes answered in SELFTEST and in HOLD (R378). -/
def selftestOps : List Nat := [0x0101, 0x0102, 0x0804, 0x0502, 0x0B01]
/-- In HOLD. -/
def holdOps : List Nat := [0x0101, 0x0102, 0x0202, 0x0802, 0x0804, 0x0901, 0x0902, 0x0B01, 0x0502]

/-- Detail of BAD_STATE (R368 step 8). -/
def State.badStateDetail (s : State) (c : Slot) : Nat :=
  s.chip.st.code + 16 * (if c.target == 0xFF then 0xF else s.plotCode c.target.toNat)

/-- The command of the configuration set in progress that a slot conflicts with (R377). -/
def State.conflict (s : State) (opcode : Nat) (c : Slot) : Option Nat :=
  if isConfig opcode then
    (s.aq.jobs.find? (fun j => isConfig j.opcode &&
      (j.slot.target == 0xFF || c.target == 0xFF || j.slot.target == c.target))).map (·.opcode)
  else none

/-- What the source remembers (R370). -/
def State.memoryOf (s : State) (src : Source) : Option Remembered := s.aq.memory.find? (fun r => r.src == src)

/-- The value a sequence must have after `n`. -/
def nextSeq (n : Nat) : Nat := if n == 0xFFFFFFFF then 1 else n + 1

/-- A sequence accepted and remembered. -/
def State.rememberSeq (s : State) (c : Slot) : State :=
  if c.seq == 0 then s
  else s.onAq (fun a => { a with
    memory := ⟨c.src, c.seq.toNat, none⟩ :: a.memory.filter (fun r => !(r.src == c.src)) })

/-- The extended buffer's bytes as the command reads them: host memory's, or the sideband buffer's. `none`: it
cannot be read. -/
def State.extBytes (s : State) (c : Slot) : Option (List Byte) :=
  match c.src with
  | .pair _ => c.ext.map (fun b => slice b 0 c.extLen.toNat)
  | .endpoint _ =>
    some ((List.range c.extLen.toNat).map (fun i => (cellGet s.aq.buf (c.extAddr.toNat + i)).getD 0))

/-- Whether the extended buffer can be used at all: in range on the sideband (R365). -/
def extInRange (c : Slot) : Bool :=
  match c.src with
  | .pair _ => true
  | .endpoint _ => decide (c.extAddr.toNat + c.extLen.toNat ≤ 65536)

/-- Bytes put into the sideband buffer, zeros unlisted. -/
def bufPut (l : List Host.Cell) (off : Nat) : List Byte → List Host.Cell
  | [] => l
  | b :: bs => bufPut (if b = 0 then cellDel l off else cellPut l off b) (off + 1) bs

/-- Bytes written to the extended buffer before the completion (R372). -/
def State.extWrite (s : State) (c : Slot) (bs : List Byte) : State :=
  match c.src with
  | .pair _ => s.emit (.hostWrite (srcFn c.src) c.extAddr.toNat bs)
  | .endpoint _ => s.onAq (fun a => { a with buf := bufPut a.buf c.extAddr.toNat bs })

/-- The detail of an extended buffer that cannot be read or written (R372). -/
def extFaultDetail : Nat := 2 ^ 30

/-- The first inline byte of a list of (offset, length) reserved ranges that is nonzero, as a slot offset. -/
def badReserved (c : Slot) (l : List (Nat × Nat)) : Option Nat :=
  (l.flatMap (fun r => (List.range r.2).map (r.1 + ·))).findSome? (fun i => if arg c i 1 == 0 then none else some (32 + i))

/-- The first inline byte with reserved bits set: (offset, mask of allowed bits). -/
def badBits (c : Slot) (l : List (Nat × Nat)) : Option Nat :=
  (l.find? (fun r => arg c r.1 1 &&& (255 - r.2) != 0)).map (fun r => 32 + r.1)

/-- An opcode's own checks behind the reserved inline bytes (R368 step 10, R6). -/
def guarded (c : Slot) (resv : List (Nat × Nat)) (masks : List (Nat × Nat)) (k : Unit → Reply) : Reply :=
  match badReserved c resv with
  | some o => .fail stBadParam o
  | none => match badBits c masks with
    | some o => .fail stBadParam o
    | none => if extInRange c then k () else .fail stBadParam 8

/-- An effect that writes `bs` to the extended buffer, when it can be written. -/
def writesExt (s : State) (c : Slot) (bs : List Byte) (k : State → Reply) : Reply :=
  match s.extBytes c with
  | none => .fail stHwFault extFaultDetail
  | some _ => k (s.extWrite c bs)

/-- An effect on the bytes of the extended buffer, when they can be read. -/
def readsExt (s : State) (c : Slot) (k : List Byte → Reply) : Reply :=
  match s.extBytes c with
  | none => .fail stHwFault extFaultDetail
  | some b => k b

/-- What a reply makes of the state (R373). -/
def State.answer (s : State) (opcode : Nat) (c : Slot) : Reply → State
  | .fail st d => s.reply opcode c st d 0
  | .done d r t => t.reply opcode c stDone d r
  | .ended st d r t => t.reply opcode c st d r
  | .accepted t => (t.reply opcode c stAccepted 0 0).addJob opcode c
  | .acceptedThen t f => f ((t.reply opcode c stAccepted 0 0).addJob opcode c)
  | .doneThen d r t f => f (t.reply opcode c stDone d r)

/-- Steps 8 to 10 of R368. -/
def State.execute (s : State) (opcode : Nat) (c : Slot) (allowed : State → Slot → Bool)
    (body : State → Slot → Reply) : State :=
  if s.chip.st == .selftest && !(selftestOps.contains opcode) then s.reply opcode c stBusy 0 0
  else if (s.chip.st == .hold && !(holdOps.contains opcode)) || (s.chip.st == .ready && !(allowed s c)) then
    s.reply opcode c stBadState (s.badStateDetail c) 0
  else match s.conflict opcode c with
    | some o => s.reply opcode c stBusy o 0
    | none => s.answer opcode c (body s c)

/-- Steps 6 and 7 of R368: sequence and deadline. `waited` is the wait in ticks. -/
def State.sequenced (s : State) (opcode : Nat) (c : Slot) (waited : Nat) (k : State → State) : State :=
  let late := c.deadline.toNat != 0 && decide (c.deadline.toNat ≤ waited)
  let go := fun (s : State) => if late then s.reply opcode c stDeadline (min waited 0xFFFFFFFF) 0 else k s
  if c.seq == 0 then go s
  else match s.memoryOf c.src with
    | none => go (s.rememberSeq c)
    | some r =>
      if r.seq == c.seq.toNat then
        match r.last with
        | some e => s.deliver c (s.srcGen c.src) e
        | none => s
      else if c.seq.toNat == nextSeq r.seq then go (s.rememberSeq c)
      else s.reply opcode c stBadParam 20 0

/-- Steps 3 to 5 are the opcode's; steps 1 and 2 come first, and journal even opcodes that are not journaled. -/
def State.checked (s : State) (opcode : Nat) (c : Slot) (k : State → State) : State :=
  if !crcOk c opcode then s.reject opcode c stBadParam 0x8000001C 2 true
  else if c.flags &&& 0xFC != 0 then s.reject opcode c stBadParam 5 0 true
  else k s

/-- One command slot taken and executed (R368). A slot that cannot be taken waits. -/
def aqvel (opcode : Nat) (extOk : State → Slot → Bool) (kind : TargetKind) (allowed : State → Slot → Bool)
    (body : State → Slot → Reply) (c : Slot) (s : State) : Out :=
  if !s.takeable c then .next (s.wait opcode c)
  else
    let waited := s.waited c
    let t := s.take c
    match c.src, t.sidebandBusy with
    | .endpoint _, true =>
      .next (t.reject opcode c stBusy 0 0 false)
    | _, _ =>
      .next (t.checked opcode c (fun t =>
        if c.inlineLen != 32 then t.reject opcode c stBadLength 6 0 (isJournaled opcode c)
        else if !extOk t c then t.reject opcode c stBadLength 16 0 (isJournaled opcode c)
        else if !targetOk t kind c.target.toNat then t.reject opcode c stBadTarget 4 0 (isJournaled opcode c)
        else t.sequenced opcode c waited (fun t => t.execute opcode c allowed body)))

/-- A slot whose opcode is not in Table 15.8 (R368 step 3). -/
def badOpcodeSlot (opcode : Nat) (c : Slot) (s : State) : Out :=
  if !s.takeable c then .next (s.wait opcode c)
  else
    let t := s.take c
    match c.src, t.sidebandBusy with
    | .endpoint _, true => .next (t.reject opcode c stBusy 0 0 false)
    | _, _ => .next (t.checked opcode c (fun t => t.reject opcode c stBadOpcode 0 0 true))

/-! ### States Table 15.8 asks for -/

/-- Only what R378 asks. -/
def anyState (_ : State) (_ : Slot) : Bool := true

/-- The target plot is in one of these states. -/
def plotIn (l : List PlotState) (s : State) (c : Slot) : Bool :=
  match s.plot? c.target.toNat with
  | some p => l.contains p.st
  | none => false

/-- Every plot is in one of these states. -/
def allPlotsIn (l : List PlotState) (s : State) : Bool := s.plots.all (fun p => l.contains p.st)

/-- Profile 0 with the training plot in one of these states. -/
def trainIn (l : List PlotState) (s : State) : Bool := s.chip.profile == 0 && l.contains s.plot0.st

/-- No sensor is critical (R426). -/
def State.cool (s : State) : Bool := s.power.sensors.all (fun x => x.st < 2)

/-- No extended buffer. -/
def noExt (_ : State) (c : Slot) : Bool := c.extLen == 0

/-- An extended buffer of at least `n` bytes. -/
def extAtLeast (n : Nat) (_ : State) (c : Slot) : Bool := decide (n ≤ c.extLen.toNat)

/-- A whole multiple of `n` bytes, at least one record (R467). -/
def extRecords (n : Nat) (_ : State) (c : Slot) : Bool := c.extLen.toNat % n == 0 && c.extLen != 0

/-- The lead of R68: the first run of step `n` cannot begin before two whole periods have passed. `b` is the base of
the run in progress; the run's own step counts as begun. -/
def State.leadOk (s : State) (n : Nat) : Bool :=
  match s.train.run with
  | none => decide (s.train.committed < n)
  | some r =>
    -- step n begins at the earliest at the run's end plus a period for each step between
    let boundary := r.base + r.period + (n - (r.step + 1)) * r.period
    decide (r.step < n) && decide (s.time.tick + 2 * r.period ≤ boundary)

end Sys2Proof.Machine
end

