-- ==== Sys2Proof/Machine/Regions.lean ====
section
/-! DEFINITION. Regions of HBM (R151 to R154), who may read and write them, and the committed view (R17, R18, R173,
R436). -/
namespace Sys2Proof.Machine

/-- Whether `n` bytes from `a` lie in the region. -/
def Region.holds (r : Region) (a n : Nat) : Bool := decide (r.base ≤ a) && decide (a + n ≤ r.base + r.bytes)
/-- EJECT (Table 7.1). -/
def Region.eject (r : Region) : Bool := bit r.flags 0
/-- FETCH. -/
def Region.fetch (r : Region) : Bool := bit r.flags 1
/-- HOST_WRITE. -/
def Region.hostWrite (r : Region) : Bool := bit r.flags 2

/-- The region that holds the whole range, with its number. -/
def regionAt (rs : List Region) (a n : Nat) : Option (Nat × Region) :=
  (rs.zipIdx.find? (fun x => x.1.holds a n)).map (fun x => (x.2, x.1))

/-- The region map of a plot. -/
def State.regions (s : State) (plot : Nat) : List Region :=
  if s.chip.profile == 0 then match s.train.image with
    | some i => i.regions
    | none => []
  else match s.plot? plot with
    | some p => match p.program with
      | some i => i.regions
      | none => []
    | none => []

/-- The stacks of a plot. -/
def State.stacksOf (s : State) (plot : Nat) : List Nat := match s.plot? plot with
  | some p => p.hstacks
  | none => []

/-- The plot whose address space a function reaches (R435). -/
def State.spaceOf (s : State) (fn : Nat) : Option Nat :=
  if s.chip.profile == 0 then (if fn == 0 then some 0 else none)
  else if fn == 0 then none
  else (List.range s.plots.length).find? (fun n => match s.plot? n with
    | some p => p.fn == fn
    | none => false)

/-- Whether any plot is ARMED or RUNNING (Table 7.2). -/
def State.anyBusy (s : State) : Bool := s.plots.any (fun p => p.st == .armed || p.st == .running)

/-- Whether the host may write a range of a plot's space (Table 7.2, R436). -/
def State.hostMayWrite (s : State) (plot a n : Nat) : Bool :=
  match s.plot? plot with
  | none => false
  | some p =>
    if decide (hbmBytes p.hstacks < a + n) then false
    else if p.st == .empty then true
    else match regionAt (s.regions plot) a n with
      | none => false
      | some (_, r) => r.kind == 0 && (r.hostWrite || !s.anyBusy)

/-- The event of a discarded host write (R18, R436). -/
def State.discarded (s : State) (fn a n : Nat) : State :=
  s.event 0x29 0 0 (leBytes 8 a ++ leBytes 4 n ++ leBytes 1 fn)

/-- Whether a region names a shadow. -/
def Region.shadowed (r : Region) : Bool := r.shadow != 0xFF

/-- Whether an armed update phase is in progress. -/
def State.inArmedUpdate (s : State) : Bool := match s.train.run with
  | some r => r.armedForm && s.inUpdate
  | none => false

/-- The address from which the committed view of a page of a persistent or partner region is read (R17). -/
def State.viewAddr (s : State) (a : Nat) : Nat :=
  if s.inArmedUpdate then
    match s.snap.copied.find? (fun c => c.1 == a / Config.pageBytes) with
    | some c => c.2 * Config.pageBytes + a % Config.pageBytes
    | none => a
  else a

/-- A range cut at pages, each with the address its committed view is read from. -/
def viewPiecesAux (s : State) : Nat → Nat → Nat → List (Nat × Nat)
  | 0, _, _ => []
  | _, _, 0 => []
  | fuel + 1, a, n =>
    let k := min n (Config.pageBytes - a % Config.pageBytes)
    (s.viewAddr a, k) :: viewPiecesAux s fuel (a + k) (n - k)

/-- The committed view of a range: bytes with taint, the memory after the reads, what was met. -/
def State.viewFetch (s : State) (ks : List Nat) (a n : Nat) : List TByte × Mem × Seen :=
  (viewPiecesAux s (n / Config.pageBytes + 2) a n).foldl (fun r p =>
    let f := hbmFetch r.2.1 ks p.1 p.2
    (r.1 ++ f.1, f.2.1, r.2.2.add f.2.2)) ([], s.mem.hbm, Seen.none)

/-- Whether a read of this range of the training plot must wait for the update phase to end (R17, R173, R437): an
update phase of a passed run, unarmed, or armed over a region without a shadow. -/
def State.mustHold (s : State) (a n : Nat) : Bool :=
  s.inUpdate && (s.regions 0).any (fun r => (r.kind == 1 || r.kind == 2) &&
    decide (a < r.base + r.bytes) && decide (r.base < a + n) && (!s.inArmedUpdate || !r.shadowed))

/-- Whether a stack of a plot is in self-refresh: nothing is read from it before it has left (R42, R93). -/
def State.asleep (s : State) (plot : Nat) : Bool := (s.stacksOf plot).any (fun k => (s.stack k).refresh == .selfRefresh)

/-- Whether a host read of a range of a plot's HBM must wait (R17, R42, R173, R437). -/
def State.mustWait (s : State) (plot a n : Nat) : Bool :=
  s.asleep plot || (plot == 0 && s.chip.profile == 0 && s.mustHold a n)

/-- Whether a range touches a persistent or partner region that a halt has left unusable (R177). -/
def State.unusable (s : State) (plot a n : Nat) : Bool :=
  plot == 0 && s.train.spoiled.any (fun r => decide (a < r.1 + r.2) && decide (r.1 < a + n))

/-- What a poisoned read meets, counted. -/
def Seen.count (x : Seen) : Nat := x.poisonCount

/-- A host read of a range through the committed view: the bytes, whether poisoned, the state with what was met. -/
def State.hostRead (s : State) (plot a n : Nat) : List Byte × Bool × State :=
  let ks := s.stacksOf plot
  let f := if s.chip.profile == 0 then s.viewFetch ks a n else hbmFetch s.mem.hbm ks a n
  let t := (s.onMem (fun m => { m with hbm := f.2.1 })).seenHost ks f.2.2
  (f.1.map (·.1), f.2.2.poisoned || s.unusable plot a n, t)

/-- A write of bytes into a plot's HBM. -/
def State.hbmWrite (s : State) (plot a : Nat) (bs : List TByte) : State :=
  let w := hbmStore s.mem.hbm (s.stacksOf plot) a bs
  (s.onMem (fun m => { m with hbm := w.1 })).seenHost (s.stacksOf plot) w.2

/-! ### Host reads through BAR2 -/

/-- A read answered now: bytes beyond the last data address read all ones. -/
def State.bar2Answer (s : State) (plot fn off a n : Nat) : State :=
  let top := hbmBytes (s.stacksOf plot)
  let k := min n (top - a)
  let r := s.hostRead plot a k
  r.2.2.emit (.bar2 fn off (r.1 ++ List.replicate (n - k) 0xFF) r.2.1)

/-- BAR2_READ (R435 to R437). -/
def execBar2Read (fn off n : Nat) (s : State) : Out :=
  if fn > 4 then .fault (.noSuchUnit "function")
  else if s.chip.st != .ready || !s.fnOn fn then .next (s.emit (.bar2 fn off (List.replicate n 0xFF) false))
  else match s.spaceOf fn with
  | none => .next (s.emit (.bar2 fn off (List.replicate n 0xFF) false))
  | some p =>
    let a := (nth s.host.apbase fn 0).toNat + off
    if s.mustWait p a n then
      .next (s.onHost (fun h => { h with reads := h.reads ++ [⟨fn, off, a, n⟩] }))
    else .next (s.bar2Answer p fn off a n)

/-- The held reads answered whose wait is over (R17, R42). -/
def State.releaseReads (s : State) : State :=
  s.host.reads.foldl (fun s r =>
    let p := (s.spaceOf r.fn).getD 0
    if s.mustWait p r.addr r.n then s.onHost (fun h => { h with reads := h.reads ++ [r] })
    else s.bar2Answer p r.fn r.off r.addr r.n) (s.onHost (fun h => { h with reads := [] }))

/-- BAR2_WRITE (R436, R18). -/
def execBar2Write (fn off : Nat) (data : List Byte) (s : State) : Out :=
  if fn > 4 then .fault (.noSuchUnit "function")
  else if s.chip.st != .ready || !s.fnOn fn then .next s
  else match s.spaceOf fn with
  | none => .next (s.discarded fn off data.length)
  | some p =>
    let a := (nth s.host.apbase fn 0).toNat + off
    if s.hostMayWrite p a data.length then .next (s.hbmWrite p a (clean data))
    else .next (s.discarded fn a data.length)

end Sys2Proof.Machine
end

