-- ==== Sys2Proof/Machine/Desc.lean ====
section
/-! DEFINITION. Descriptors: their 64 bytes taken apart (Tables 3.7, 3.8, 5.6, 6.8, 7.3, 7.4, 7.7, 9.2, 9.3, 10.12,
12.3, 12.12), their durations (Table 3.12), and the operand rules of Table 3.14 that a descriptor must meet by itself
(reason codes 0x0015, 0x0019, 0x001A, 0x001C, 0x001D). -/
namespace Sys2Proof.Machine

/-- What a descriptor does. -/
inductive Op where
  | matMul (o : MatMulOps)
  | vec (o : VecOps)
  | upd (o : UpdOps)
  | pair (o : PairOps)
  | conv (o : ConvOps)
  | dmaIn (o : DmaOps)
  | dmaOut (o : DmaOps)
  | perm (o : PermOps)
  | gather (o : GatherOps)
  | scatter (o : GatherOps)
  | copy (o : CopyOps)
  | handoff (o : HandoffOps)
  | egress (o : CellOps)
  | ingress (o : CellOps)
  | wait (unit : Nat)
  | save (off : Nat)
  | restore (off : Nat)
  | scale
  | digest (o : DigestOps)
  | coll (op : Nat) (o : CollOps)
  deriving DecidableEq, Repr

/-! ### Parsing -/

/-- A time word as cycles from the start of the step (R48). -/
def timeWord (b : List Byte) (off : Nat) : Nat := fieldAt b off 6

/-- The common header (Table 3.7). -/
def parseHead (b : List Byte) : DHead :=
  ⟨timeWord b 0, fieldAt b 8 4, bit (fieldAt b 13 1) 0, fieldAt b 14 2, fieldAt b 16 2, fieldAt b 18 2⟩

/-- Bytes that may hold something, by type: (offset, allowed bits); any other byte from 24 on is reserved. -/
def opMasks (ty fn : Nat) : List (Nat × Nat) :=
  let full := fun (a b : Nat) => (List.range (b + 1 - a)).map (fun i => (a + i, 255))
  match ty with
  | 0x01 => full 24 44 ++ [(45, 3), (46, 0x1F), (47, 0x3F)] ++ full 48 59
  | 0x02 => if 0xC0 ≤ fn then [(24, 255), (25, 0x3F), (26, 15)] ++ full 28 57 else (24, 255) :: full 28 51
  | 0x03 => full 24 35 ++ [(36, 0x1F), (37, 0x1F), (38, 7)] ++ full 40 51
  | 0x04 => full 24 33 ++ [(34, 3), (35, 0x11)] ++ full 36 63
  | 0x05 => full 24 33 ++ [(34, 3), (35, 0x11)] ++ full 36 63
  | 0x06 => full 24 33 ++ [(34, 0xFB), (35, 0x1F)] ++ full 36 46 ++ [(47, 127)] ++ full 48 63
  | 0x07 => full 24 53 ++ [(54, 0x0B)]
  | 0x08 => full 24 53 ++ [(54, 0x1F), (55, 3)]
  | 0x09 => [(24, 0x3F), (25, 3)] ++ full 28 63
  | 0x0A => (24, 3) :: full 28 33
  | 0x0B => (24, 255) :: full 28 39
  | 0x0C => (24, 255) :: full 28 39
  | 0x0D => [(24, 255)]
  | 0x0E => full 24 27
  | 0x0F => full 24 27
  | 0x11 => (24, 255) :: full 28 39
  | 0x12 => full 24 26 ++ [(27, 7)] ++ full 28 63
  | _ => []

/-- The start of the run of wholly reserved bytes that byte `o` lies in. -/
def runStart (l : List Nat) : Nat → Nat
  | 0 => 0
  | o + 1 => if l.contains (o + 1) && l.contains o && o + 1 != 24 then runStart l o else o + 1

/-- The offset of the first field of a descriptor with a reserved bit set (R7), header included. -/
def descReserved (b : List Byte) : Option Nat :=
  let ty := fieldAt b 12 1
  let m := opMasks ty (fieldAt b 24 1)
  let allowed := fun (i : Nat) =>
    if i == 6 || i == 7 then 0
    else if i == 13 then 1
    else if 20 ≤ i && i < 24 then 0
    else if i < 24 then 255
    else match m.find? (fun x => x.1 == i) with
      | some x => x.2
      | none => 0
  let pairResv := if ty == 0x02 && fieldAt b 24 1 == 0x5B && fieldAt b 48 4 &&& 0xFFFCF000 != 0 then some 48 else none
  let keepOut := if ty == 0x01 && bit (fieldAt b 46 1) 4 && fieldAt b 47 1 != 0 then some 47 else none
  match (List.range 64).find? (fun i => fieldAt b i 1 &&& (255 - allowed i) != 0) with
  | some i => some (runStart ((List.range 64).filter (fun j => allowed j == 0)) i)
  | none => match pairResv with
    | some i => some i
    | none => keepOut

/-- A port nibble: 0xF is none. -/
def portNibble (n : Nat) : Option Nat := if n == 15 then none else some n

/-- The operands of a tile DMA. -/
def parseDma (b : List Byte) : DmaOps :=
  ⟨fieldAt b 24 6, fieldAt b 30 4, 2 ^ (fieldAt b 34 1 % 4), bit (fieldAt b 35 1) 0, bit (fieldAt b 35 1) 4,
    (List.range 5).map (fun j => fieldAt b (36 + 2 * j) 2), signed 16 (fieldAt b 46 2),
    (List.range 4).map (fun j => signed 32 (fieldAt b (48 + 4 * j) 4))⟩

/-- The operands of a gather or scatter. -/
def parseGather (b : List Byte) : GatherOps :=
  let p := fieldAt b 54 1
  ⟨fieldAt b 24 6, fieldAt b 30 4, fieldAt b 34 4, fieldAt b 38 4, fieldAt b 42 4, signed 32 (fieldAt b 46 4),
    fieldAt b 50 4, p % 4, bit p 2, bit p 3, bit p 4, fieldAt b 55 1 == 1⟩

/-- The operands of a cell descriptor. -/
def parseCells (b : List Byte) : CellOps := ⟨fieldAt b 24 1, fieldAt b 28 2, fieldAt b 30 2, fieldAt b 32 4, fieldAt b 36 4⟩

/-- The operands of a collective step. -/
def parseColl (b : List Byte) : CollOps :=
  let f := fieldAt b 27 1
  ⟨portNibble (fieldAt b 25 1 % 16), portNibble (fieldAt b 25 1 / 16), portNibble (fieldAt b 26 1 % 16),
    fieldAt b 26 1 / 16 == 1, bit f 0, bit f 1, bit f 2, fieldAt b 28 2, fieldAt b 30 2, fieldAt b 32 2, fieldAt b 34 2,
    fieldAt b 36 2, fieldAt b 38 2, fieldAt b 40 4, fieldAt b 44 4, fieldAt b 48 4, fieldAt b 52 4, fieldAt b 56 4,
    fieldAt b 60 4⟩

/-- The operation of a descriptor's bytes; none for an unknown type or a reserved value of an enumerated field that
the typed operands cannot hold (reason 0x0015). -/
def parseOp (b : List Byte) : Option Op :=
  let u := fun (o n : Nat) => fieldAt b o n
  match u 12 1 with
  | 0x01 =>
    let f := u 46 1
    let o := u 47 1
    some (.matMul ⟨u 24 4, u 28 4, u 32 4, u 36 2, u 38 2, u 40 4, u 44 1 / 16, u 44 1 % 16, u 45 1 % 4, f % 4, bit f 2,
      bit f 3, bit f 4, o % 16, bit o 4, bit o 5, u 48 4, u 52 4, u 56 4⟩)
  | 0x02 =>
    let fn := u 24 1
    if 0xC0 ≤ fn then
      let f := u 25 1
      some (.upd ⟨fn, f % 4, bit f 2, bit f 3, bit f 4, bit f 5, u 26 1 % 16, u 28 4, u 32 4, u 36 4, u 40 4, u 44 4,
        u 48 4, u 52 2, u 54 4⟩)
    else if fn == 0x5B then
      if u 44 4 != 1 || u 36 4 != 0 then none
      else some (.pair ⟨u 28 4, u 32 4, u 40 4, u 48 2 % 4096, bit (u 50 1) 0, u 50 1 / 2 % 2⟩)
    else some (.vec ⟨fn, u 28 4, u 32 4, u 36 4, u 40 4, u 44 4, BitVec.ofNat 32 (u 48 4)⟩)
  | 0x03 =>
    let m := u 38 1
    some (.conv ⟨u 24 4, u 28 4, u 32 4, u 36 1 % 16, bit (u 36 1) 4, u 37 1 % 16, bit (u 37 1) 4, bit m 0, bit m 1,
      bit m 2, u 40 4, u 44 4, u 48 4⟩)
  | 0x04 => some (.dmaIn (parseDma b))
  | 0x05 => some (.dmaOut (parseDma b))
  | 0x06 =>
    let c := u 35 1
    if c / 2 % 4 ≥ 2 then none
    else some (.perm ⟨u 24 6, u 30 4, 2 ^ (u 34 1 % 4), u 34 1 / 8 % 16, bit (u 34 1) 7, bit c 0, c / 2 % 4 == 1, bit c 3,
      bit c 4, (List.range 5).map (fun j => u (36 + 2 * j) 2), (List.range 5).map (fun j => u 46 2 / 8 ^ j % 8),
      (List.range 4).map (fun j => signed 32 (u (48 + 4 * j) 4))⟩)
  | 0x07 => some (.gather (parseGather b))
  | 0x08 => if 2 ≤ u 55 1 then none else some (.scatter (parseGather b))
  | 0x09 => some (.copy ⟨u 24 1 % 16, bit (u 24 1) 4, bit (u 24 1) 5, 2 ^ (u 25 1 % 4), u 28 6, u 34 6, u 40 8, u 48 4,
      u 52 4, u 56 4, u 60 4⟩)
  | 0x0A => some (.handoff ⟨u 24 1 % 4, u 28 4, u 32 2⟩)
  | 0x0B => some (.egress (parseCells b))
  | 0x0C => some (.ingress (parseCells b))
  | 0x0D => some (.wait (u 24 1))
  | 0x0E => some (.save (u 24 4))
  | 0x0F => some (.restore (u 24 4))
  | 0x10 => some .scale
  | 0x11 => if 2 ≤ u 24 1 then none else some (.digest ⟨u 24 1 == 1, u 28 4, u 32 4, u 36 4⟩)
  | 0x12 => if 5 ≤ u 24 1 || 2 ≤ u 26 1 / 16 then none else some (.coll (u 24 1) (parseColl b))
  | _ => none

/-! ### Sizes -/

/-- The block size of a mode bit. -/
def blockOf (b16 : Bool) : Nat := if b16 then 16 else 32

/-- Elements of an update's wide-fixed input with its lead and headers (R462). -/
def gradBytes (n : Nat) : Nat := roundUp (6 * n + 8 + 24 * (ceilDiv n 4096 + 1)) 64

/-- FP32 arrays of an update rule (R462). -/
def updArrays (fn : Nat) : Nat := if fn == 0xC0 || fn == 0xC3 then 2 else 3

/-- Bytes of the ordinary working copy. -/
def updCopyBytes (o : UpdOps) : Nat :=
  if o.emit then o.n / max o.c 1 * blockPitch o.fmt (blockOf o.block16) (o.c / blockOf o.block16) else 0
/-- Bytes of the transposed working copy. -/
def updCopyTBytes (o : UpdOps) : Nat :=
  if o.emitT then o.c * blockPitch o.fmt (blockOf o.block16) (o.n / max o.c 1 / blockOf o.block16) else 0
/-- Bytes of the input area. -/
def updInBytes (o : UpdOps) : Nat := 4 * updArrays o.fn * o.n + gradBytes o.n
/-- Bytes of the output area. -/
def updOutBytes (o : UpdOps) : Nat := 4 * updArrays o.fn * o.n + (updCopyBytes o) + (updCopyTBytes o) + 8 * o.n

/-- Bytes of a wide-fixed area (R275, R463). -/
def wideBytes (n : Nat) : Nat := roundUp (6 * n + 24 * ceilDiv n 4096) 64

/-- Bytes of a mask (R182). -/
def maskPitch (c : Nat) : Nat := roundUp (ceilDiv c 8) 64

/-- Elements of a conversion's row. -/
def convWidth (o : ConvOps) : Nat := if o.sBlock || o.dBlock then o.rowLen * blockOf o.block16 else o.rowLen
/-- Bytes of one side of a conversion. -/
def convSide (o : ConvOps) (f : Nat) (block : Bool) : Nat :=
  if block then o.rows * blockPitch f (blockOf o.block16) o.rowLen else o.rows * (convWidth o) * (elemBits f / 8)

/-- Block size of a matrix multiply's K-blocks: SX5 groups have 32. -/
def mmBlock (o : MatMulOps) : Nat := if o.mode == 1 then 16 else 32
/-- Patches down and across. -/
def mmPatches (o : MatMulOps) : Nat × Nat := (ceilDiv o.m 16, ceilDiv o.n 16)
/-- Output row pitch of a converted output (R146). -/
def mmPitch (o : MatMulOps) : Nat := roundUp (o.n * (elemBits o.outFmt / 8)) 64
/-- Bytes of the output area. -/
def mmOutBytes (o : MatMulOps) : Nat :=
  if o.keep || o.chainIn then max (1344 * ((mmPatches o).1 * (mmPatches o).2)) (if o.keep then 0 else o.m * (mmPitch o))
  else (o.m - 1) * (mmPitch o) + o.n * (elemBits o.outFmt / 8)
/-- Bytes of an operand of `rows` rows. -/
def mmOperand (o : MatMulOps) (rows f : Nat) : Nat :=
  if o.mode == 2 then 16 else rows * blockPitch f (mmBlock o) (o.k / (mmBlock o))

/-- The dense extents of a DMA's SRAM side: runs and bytes a run. -/
def denseBytes (ext : List Nat) (e : Nat) (pad : Bool) : Nat :=
  let run := nth ext 0 1 * e
  let runs := (ext.drop 1).foldl (· * ·) 1
  if pad then (runs - 1) * roundUp run 64 + run else runs * run

/-- The lowest byte and one past the highest of a strided tensor (R156), relative to its base. -/
def strideSpan (ext : List Nat) (strides : List Int) (e : Nat) : Int × Int :=
  let t := (ext.zip strides).map (fun x => ((x.1 : Int) - 1) * x.2)
  (t.foldl (fun a x => a + min 0 x) 0, t.foldl (fun a x => a + max 0 x) 0 + e)

/-- The strides of a plain DMA, dimension 0 first. -/
def dmaStrides (o : DmaOps) : List Int := o.s0 * o.esize :: o.strides

/-- SRAM extents of a permuting DMA: dimension j is HBM dimension p_j (R160). -/
def permExt (o : PermOps) : List Nat := o.perm.map (fun p => nth o.ext p 1)

/-- SRAM row pitch of gather and scatter. -/
def gatherPitch (o : GatherOps) : Nat := if o.pad then roundUp o.len 64 else o.len

/-- Bytes of a vector function's operands: source 1, source 2, destination (Table 9.6, Table 8.4). -/
def vecAreas (o : VecOps) : Nat × Nat × Nat :=
  let n := 4 * o.rows * o.len
  let m := o.rows * maskPitch o.len
  match o.fn with
  | 0x58 => (n, 0, m)
  | 0x59 => (n, m, n)
  | 0x5A => (m, m, m)
  | 0x0B => (0, 0, n)
  | 0x0C => (n, 4 * o.len, n)
  | 0x0D => (n, 4 * o.len, n)
  | 0x0E => (n, 4 * o.rows, n)
  | 0x0F => (n, 4 * o.rows, n)
  | 0x80 => (n, 0, 4 * o.rows)
  | 0x81 => (n, 0, 4 * o.rows)
  | 0x82 => (n, 0, 4 * o.rows)
  | 0x83 => (n, 0, 4 * o.rows)
  | 0x84 => (n, 0, 4 * o.len)
  | 0x85 => (n, 0, 4 * o.len)
  | f => (n, if [0x01, 0x02, 0x03, 0x04, 0x05, 0x40, 0x41, 0x44, 0x45, 0x46, 0x47, 0x65].contains f then n else 0, n)

/-- The function IDs of Table 9.6 that type 0x02 runs beside PAIR_CHECK and the update rules. -/
def vecFns : List Nat :=
  [0x00, 0x01, 0x02, 0x03, 0x04, 0x05, 0x06, 0x07, 0x08, 0x09, 0x0A, 0x0B, 0x0C, 0x0D, 0x0E, 0x0F, 0x40, 0x41, 0x42,
   0x43, 0x44, 0x45, 0x46, 0x47, 0x58, 0x59, 0x5A, 0x60, 0x61, 0x62, 0x63, 0x64, 0x65, 0x66, 0x67, 0x68, 0x69, 0x80,
   0x81, 0x82, 0x83, 0x84, 0x85]

/-! ### Durations that need no slot map (Table 3.12, Table 12.4) -/

/-- Cost class of a function (Table 3.16): cycles per 64 elements, and once per descriptor. -/
def fnCost (fn : Nat) : Nat × Nat :=
  if fn < 0x60 then (1, 0) else if fn < 0x80 then (4, 0) else if fn < 0x90 then (1, 8)
  else match fn with
    | 0xC0 => (6, 0)
    | 0xC1 => (12, 0)
    | 0xC2 => (13, 0)
    | _ => (16, 0)

/-- B of the matrix-multiply rule: the slower operand's. -/
def mmBlocks (o : MatMulOps) : Nat :=
  let one := fun (f : Nat) =>
    let k32 := if o.mode == 1 then ceilDiv o.k 16 else ceilDiv o.k 32
    let k64 := if o.mode == 1 then ceilDiv o.k 32 else ceilDiv o.k 64
    if f == 7 then k64 else if f == 1 || f == 2 then 4 * k32 else k32
  max (one o.fa) (one o.fb)

/-- Runs and bytes a run of a plain DMA (R157). -/
def dmaRuns (o : DmaOps) : Nat × Nat :=
  if o.s0 == 1 then ((o.ext.drop 1).foldl (· * ·) 1, nth o.ext 0 1 * o.esize) else (o.ext.foldl (· * ·) 1, o.esize)

/-- Runs and bytes a run of type 0x06 (R160, R161). -/
def permRuns (o : PermOps) : Nat × Nat :=
  if o.reblock then (nth o.ext 1 1, nth o.ext 0 1 * recordBytes o.fmt (blockOf o.block16))
  else ((o.ext.drop 1).foldl (· * ·) 1, nth o.ext 0 1 * o.esize)

/-- The duration of a descriptor whose rule needs no slot map; none for cells and ROUND. `e` is the collective's
entry, for PLACE and COMBINE. -/
def Op.duration (o : Op) (declared : Nat) (e : Option CollEntry) : Option Nat :=
  match o with
  | .matMul o => some (14 + (mmPatches o).1 * (mmPatches o).2 * ((mmBlocks o) + 2))
  | .vec o => some (12 + ceilDiv (o.rows * o.len) 64 * (fnCost o.fn).1 + (fnCost o.fn).2)
  | .upd o => some (12 + ceilDiv o.n 64 * (fnCost o.fn).1)
  | .pair o => some (12 + ceilDiv o.rows 64)
  | .conv o => some (10 + ceilDiv (o.rows * (convWidth o)) 64)
  | .dmaIn o => some (40 + (dmaRuns o).1 * ceilDiv (dmaRuns o).2 256)
  | .dmaOut o => some (24 + (dmaRuns o).1 * ceilDiv (dmaRuns o).2 256)
  | .perm o => some (40 + 2 * (permRuns o).1 * ceilDiv (permRuns o).2 256)
  | .gather o => some (40 + ceilDiv o.n 64 + o.n * ceilDiv o.len 256 + (if o.policy == 3 then ceilDiv o.n 64 else 0))
  | .scatter o => some (24 + ceilDiv o.n 64 + (if o.add then 2 else 1) * o.n * ceilDiv o.len 256
      + (if o.policy == 3 then ceilDiv o.n 64 else 0))
  | .copy o => some (64 + (if o.permuting then 2 else 1) * ceilDiv o.b 512)
  | .handoff o => some (4 + ceilDiv o.w 64)
  | .wait _ => if declared == 0 then some 1 else some declared
  | .save _ => some 44
  | .restore _ => some 60
  | .scale => some 32
  | .digest o => some (8 + ceilDiv o.n 64)
  | .coll op c =>
    let k := match e with
      | some e => e
      | none => default
    match op with
    | 0 => some (16 + 2 * ceilDiv c.n 64)
    | 2 => some (8 + ceilDiv c.n 64)
    | 3 => some (12 + 2 * ceilDiv (c.n * k.mode) 64 + ceilDiv (k.n * k.experts * k.cs) 64)
    | 4 => some (12 + k.mode * ceilDiv (c.n * (k.rowBytes / 4)) 64)
    | _ => none
  | _ => none

/-! ### Ranges and discipline -/

/-- What a descriptor's rules read of its image and plot. -/
structure Ctx where
  hbm : Nat
  regions : List Region
  records : Nat
  /-- recovery mode; 0 for serving programs -/
  mode : Nat
  /-- the descriptor's phase is an update phase -/
  update : Bool
  colls : List CollEntry
  axisPorts : Nat → List Nat

/-- An SRAM range within the tile (R73). -/
def sramOk (off n : Nat) : Bool := n == 0 || decide (off + n ≤ Config.sramBytes)

/-- The whole range lies in one region, or none. -/
def Ctx.regionOf (c : Ctx) (a n : Nat) : Option Region := (regionAt c.regions a n).map (·.2)

/-- A scheduled read of HBM: scratch, persistent, partner (Table 7.2). -/
def Ctx.readOk (c : Ctx) (a n : Nat) : Bool :=
  n == 0 || (decide (a + n ≤ c.hbm) && match c.regionOf a n with
    | some r => decide (r.kind ≤ 2)
    | none => false)

/-- A scheduled write: scratch always, persistent in the update phase, partner by mirror delivery only (R152, R153). -/
def Ctx.writeOk (c : Ctx) (mirror : Bool) (a n : Nat) : Bool :=
  n == 0 || (decide (a + n ≤ c.hbm) && match c.regionOf a n with
    | some r => if mirror then r.kind == 2 && c.update && c.mode == 1
        else r.kind == 0 || (r.kind == 1 && c.update)
    | none => false)

/-- A base plus a span, when it is not negative. -/
def spanAt (a : Nat) (sp : Int × Int) : Option (Nat × Nat) :=
  if (a : Int) + sp.1 < 0 then none else some (((a : Int) + sp.1).toNat, (sp.2 - sp.1).toNat)

/-- A spanned read or write is allowed. -/
def spanOk (f : Nat → Nat → Bool) (a : Nat) (sp : Int × Int) : Bool := match spanAt a sp with
  | some r => f r.1 r.2
  | none => false

/-- The HBM strides of type 0x06: s_0 = e (permute), records along the row (re-block). -/
def permSpan (o : PermOps) : Int × Int :=
  if o.reblock then
    (min 0 ((((nth o.ext 1 1 : Nat) : Int) - 1) * nth o.strides 0 0),
      max 0 ((((nth o.ext 1 1 : Nat) : Int) - 1) * nth o.strides 0 0) + (nth o.ext 0 1 * recordBytes o.fmt (blockOf o.block16) : Nat))
  else strideSpan o.ext (o.esize :: o.strides) o.esize

/-- Bytes of type 0x06's SRAM side. -/
def permBytes (o : PermOps) : Nat :=
  if o.reblock then
    nth o.ext 0 1 * blockOf o.block16 * blockPitch o.fmt (blockOf o.block16) (nth o.ext 1 1 / blockOf o.block16)
  else denseBytes (permExt o) o.esize o.pad

/-- The table rows' span (R162). -/
def gatherSpan (o : GatherOps) : Int × Int :=
  (min 0 (((o.size : Int) - 1) * o.stride), max 0 (((o.size : Int) - 1) * o.stride) + o.len)

/-- Spans of a copy-engine descriptor. -/
def copySrcSpan (o : CopyOps) : Nat := if o.permuting then (o.rows - 1) * o.srcPitch + o.cols * o.esize else o.b
/-- Destination. -/
def copyDstSpan (o : CopyOps) : Nat := if o.permuting then (o.cols - 1) * o.dstPitch + o.rows * o.esize else o.b

/-- Whether two ranges share a byte. -/
def overlaps (a n b m : Nat) : Bool := decide (a < b + m) && decide (b < a + n)

/-- A rule that, when broken, gives a code and the offset of the offending field in the descriptor. -/
def need (ok : Bool) (code off : Nat) : Option (Nat × Nat) := if ok then none else some (code, off)

/-- The first broken rule of a list. -/
def firstBad {α : Type} (l : List (Option α)) : Option α := l.findSome? id

/-- The tables of a collective's expert steps. -/
def expertCount (e : CollEntry) : Nat := e.n * e.experts

/-- A collective step's areas (Table 12.13): (offset, bytes). -/
def collAreas (op : Nat) (o : CollOps) (e : CollEntry) : List (Nat × Nat) :=
  let x := expertCount e
  let extra := if o.extra then [(o.extraOff, wideBytes o.n)] else []
  match op with
  | 0 => (o.localOff, if o.packFp32 then 4 * o.n else ceilDiv (o.n / max o.rowLen 1) 16 * (o.rowLen / 16) * 1344)
      :: (o.resOff, wideBytes o.n) :: extra
  | 1 => if e.payload == 0 then
        (if o.own then [(o.localOff, wideBytes o.n)] else []) ++ [(o.resOff, wideBytes o.n)] ++ extra
      else [(o.localOff, 240 * o.c), (o.resOff, 240 * o.c)] ++ extra
  | 2 => [(o.resOff, wideBytes o.n)]
  | 3 => [(o.resOff, 12 * x * e.cs + 4 * o.n * e.mode), (o.first, 8 * o.n * e.mode)]
  | _ => [(o.localOff, x * e.cs * e.rowBytes), (o.resOff, o.n * e.rowBytes),
      (o.extraOff, 12 * x * e.cs + 4 * o.n * e.mode), (o.first, 8 * o.n * e.mode)]

/-- Chunk headers that a ROUND's header cells carry (R270): ⌈n/4,096⌉ chunks of its area. -/
def roundHeaders (o : CollOps) (e : CollEntry) : Nat :=
  (if e.payload == 0 then ceilDiv (ceilDiv o.n 4096) 10 else 0) + (if bit e.flags 2 then 1 else 0)

/-- What is wrong with a descriptor by itself: a reason code of Table 3.14 with the offset of the offending field in
the descriptor, or none. DESIGN CHOICE (log 94): a nonzero pitch on a plain copy is 0x15 like nonzero rows and columns, its
element size is free, and Control[0] of a re-block, whose rows lie at the pitch of R105 anyway, is accepted without effect. -/
def opBadAt (c : Ctx) (h : DHead) (o : Op) : Option (Nat × Nat) :=
  let rec_ := need (h.record == 0xFFFF || decide (h.record < c.records)) 0x1C 16
  let noRec := need (h.record == 0xFFFF) 0x15 16
  let oneTo := fun (v hi : Nat) => decide (1 ≤ v) && decide (v ≤ hi)
  match o with
  | .matMul o =>
    let sx5 := fun (f : Nat) => f == 3 || f == 4 || f == 8
    firstBad [need (pairOk o.fa o.fb && (o.mode != 2 || (sx5 o.fa && sx5 o.fb))) 0x15 44, need (o.mode != 3) 0x15 45,
      need (oneTo o.m 4096) 0x15 36, need (oneTo o.n 4096) 0x15 38, need (o.k % (mmBlock o) == 0) 0x15 40,
      need ((!o.chainOut || o.keep) && decide (o.bank < 4)) 0x15 46, need (o.keep || decide (o.outFmt ≤ 4)) 0x15 47, rec_,
      need (sramOk o.aOff (mmOperand o o.m o.fa)) 0x19 24, need (sramOk o.bOff (mmOperand o o.n o.fb)) 0x19 28,
      need (sramOk o.outOff (mmOutBytes o)) 0x19 32]
  | .vec o =>
    let a := vecAreas o
    firstBad [need (vecFns.contains o.fn) 0x15 24, rec_, need (sramOk o.src1 a.1) 0x19 28,
      need (sramOk o.src2 a.2.1) 0x19 32, need (sramOk o.dst a.2.2) 0x19 36]
  | .upd o =>
    let b := blockOf o.block16
    firstBad [need (decide (0xC0 ≤ o.fn) && decide (o.fn ≤ 0xC3)) 0x15 24,
      need (decide (o.role ≤ 2) && (c.mode != 0 || o.role == 0)) 0x15 25,
      need (if o.emit || o.emitT then isFp8 o.fmt else o.fmt == 0) 0x15 26,
      need (oneTo o.n 262144 && decide (1 ≤ o.c) && o.n % max o.c 1 == 0) 0x15 40,
      need (!o.emit || o.c % b == 0) 0x15 44, need (!o.emitT || o.n / max o.c 1 % b == 0) 0x15 25,
      need (o.parOff % 64 == 0) 0x15 36, need (decide (o.chunk ≤ 4095)) 0x15 52,
      need (o.fn == 0xC3 || o.facOff == 0) 0x15 54, need c.update 0x19 14, rec_,
      need (sramOk o.inOff (updInBytes o)) 0x19 28, need (sramOk o.outOff (updOutBytes o)) 0x19 32,
      need (sramOk o.parOff 64) 0x19 36, need (o.fn != 0xC3 || sramOk o.facOff (4 * (o.n / max o.c 1 + o.c))) 0x19 54]
  | .pair o =>
    firstBad [need (c.mode != 0) 0x15 24, need (decide (o.first + o.rows ≤ 4096)) 0x15 48, need (decide (o.role ≤ 1)) 0x15 50,
      rec_, need (sramOk o.src1 (8 * o.rows)) 0x19 28, need (sramOk o.src2 (8 * o.rows)) 0x19 32]
  | .conv o =>
    firstBad [need (if o.sBlock then blockOk o.sf else plainOk o.sf) 0x15 36,
      need (if o.dBlock then blockOk o.df else plainOk o.df) 0x15 37,
      rec_, need (sramOk o.src (convSide o o.sf o.sBlock)) 0x19 24, need (sramOk o.dst (convSide o o.df o.dBlock)) 0x19 28]
  | .dmaIn o =>
    firstBad [noRec, need (o.ext.all (fun n => decide (1 ≤ n))) 0x15 36, need ([1, 2, 4, 8].contains o.esize) 0x15 34,
      need (sramOk o.sram (denseBytes o.ext o.esize o.pad)) 0x19 30,
      need (spanOk c.readOk o.hbm (strideSpan o.ext (dmaStrides o) o.esize)) 0x19 24, need (!o.mirror) 0x19 35]
  | .dmaOut o =>
    firstBad [noRec, need (o.ext.all (fun n => decide (1 ≤ n))) 0x15 36, need ([1, 2, 4, 8].contains o.esize) 0x15 34,
      need ((o.ext.zip (dmaStrides o)).all (fun x => x.1 == 1 || x.2 != 0)) 0x15 46,
      need (sramOk o.sram (denseBytes o.ext o.esize o.pad)) 0x19 30,
      need (spanOk (c.writeOk o.mirror) o.hbm (strideSpan o.ext (dmaStrides o) o.esize)) 0x19 24]
  | .perm o =>
    let b := blockOf o.block16
    firstBad [noRec, need (o.ext.all (fun n => decide (1 ≤ n))) 0x15 36, need ([1, 2, 4, 8].contains o.esize) 0x15 34,
      need (if o.reblock then blockOk o.fmt else o.fmt == 0 && !o.block16) 0x15 34,
      need (!o.reblock || !o.toHbm) 0x15 35,
      need (!o.reblock || (nth o.ext 1 1 % b == 0 && o.ext.drop 2 == [1, 1, 1])) 0x15 36,
      need (o.reblock || (List.range 5).all (fun d => o.perm.contains d)) 0x15 46,
      need (!o.toHbm || (o.ext.zip ((o.esize : Int) :: o.strides)).all (fun x => x.1 == 1 || x.2 != 0)) 0x15 48,
      need (sramOk o.sram (permBytes o)) 0x19 30,
      need (if o.toHbm then spanOk (c.writeOk o.mirror) o.hbm (permSpan o) else spanOk c.readOk o.hbm (permSpan o)) 0x19 24,
      need (o.toHbm || !o.mirror) 0x19 35]
  | .gather o =>
    firstBad [noRec, need (oneTo o.n 262144) 0x15 38, need (oneTo o.len 1048576) 0x15 42,
      need (oneTo o.size (2 ^ 31 - 1)) 0x15 50, need (o.idx % 4 == 0) 0x15 34, need (!o.add) 0x15 54, need (!o.wide) 0x15 55,
      need (sramOk o.sram ((o.n - 1) * (gatherPitch o) + o.len)) 0x19 30, need (sramOk o.idx (4 * o.n)) 0x19 34,
      need (spanOk c.readOk o.table (gatherSpan o)) 0x19 24, need (!o.mirror) 0x19 54,
      need (!overlaps o.sram ((o.n - 1) * (gatherPitch o) + o.len) o.idx (4 * o.n)) 0x1A 30]
  | .scatter o =>
    firstBad [noRec, need (oneTo o.n 262144) 0x15 38,
      need (oneTo o.len 1048576 && (!o.add || o.len % (if o.wide then 6 else 4) == 0)) 0x15 42,
      need (oneTo o.size (2 ^ 31 - 1)) 0x15 50, need (o.idx % 4 == 0) 0x15 34,
      need (decide (o.len ≤ o.stride.natAbs)) 0x15 46, need (o.add || !o.wide) 0x15 55,
      need (sramOk o.sram ((o.n - 1) * (gatherPitch o) + o.len)) 0x19 30, need (sramOk o.idx (4 * o.n)) 0x19 34,
      need (spanOk (c.writeOk o.mirror) o.table (gatherSpan o)) 0x19 24]
  | .copy o =>
    firstBad [noRec,
      need (oneTo o.b (2 ^ 35) && (!o.permuting || o.b == o.rows * o.cols * o.esize)) 0x15 40,
      need (if o.permuting then decide (1 ≤ o.rows) && decide (1 ≤ o.cols) else o.rows == 0 && o.cols == 0) 0x15 48,
      need (if o.permuting then decide (o.cols * o.esize ≤ o.srcPitch) else o.srcPitch == 0) 0x15 56,
      need (if o.permuting then decide (o.rows * o.esize ≤ o.dstPitch) else o.dstPitch == 0) 0x15 60,
      need (c.readOk o.src (copySrcSpan o)) 0x19 28, need (c.writeOk o.mirror o.dst (copyDstSpan o)) 0x19 34,
      need (!o.permuting || !overlaps o.src (copySrcSpan o) o.dst (copyDstSpan o)) 0x1A 28]
  | .handoff o =>
    firstBad [need (decide (o.bank < 4)) 0x15 24, need (decide (16 ≤ o.w) && decide (o.w ≤ 256) && o.w % 16 == 0) 0x15 32, rec_,
      need (o.dst % 64 == 0 && sramOk o.dst 1344) 0x19 28]
  | .egress o =>
    firstBad [need (decide (o.port ≤ 9)) 0x15 24, need (oneTo o.c 65535) 0x15 30,
      need (decide (240 * (o.c - 1) + 1 ≤ o.b) && decide (o.b ≤ 240 * o.c)) 0x15 36, rec_, need (sramOk o.sram o.b) 0x19 32]
  | .ingress o =>
    firstBad [need (decide (o.port ≤ 9)) 0x15 24, need (oneTo o.c 65535) 0x15 30,
      need (decide (240 * (o.c - 1) + 1 ≤ o.b) && decide (o.b ≤ 240 * o.c)) 0x15 36, rec_, need (sramOk o.sram o.b) 0x19 32]
  | .wait u => firstBad [need (u ≤ 3 || (0x10 ≤ u && u ≤ 0x1F)) 0x15 24, rec_]
  | .save off => firstBad [rec_, need (off % 64 == 0 && sramOk off 5184) 0x19 24]
  | .restore off => firstBad [rec_, need (off % 64 == 0 && sramOk off 5184) 0x19 24]
  | .scale => firstBad [need c.update 0x19 14, need (decide (h.record < c.records)) 0x1C 16]
  | .digest o =>
    firstBad [noRec, need (oneTo o.n 262144) 0x15 32, need (o.dst % 8 == 0) 0x15 36,
      need (sramOk o.src ((if o.words then 8 else 6) * o.n)) 0x19 28, need (sramOk o.dst 8) 0x19 36]
  | .coll op o =>
    match c.colls[o.coll]? with
    | none => some (0x1D, 28)
    | some e =>
      let ports := c.axisPorts e.axis
      let onAxis := fun (p : Option Nat) => match p with
        | some p => ports.contains p
        | none => true
      firstBad [rec_,
        need (onAxis o.ingress && onAxis o.egress) 0x1D 25, need (onAxis o.egress2) 0x1D 26,
        need (op != 2 || e.payload == 0) 0x1D 24,
        need (op != 1 || o.h == roundHeaders o e) 0x1D 38,
        need (if op == 0 && !o.packFp32 then o.rowLen != 0 && o.rowLen % 16 == 0 && o.n % max o.rowLen 1 == 0
          else o.rowLen == 0) 0x1D 60,
        need ((collAreas op o e).all (fun a => sramOk a.1 a.2)) 0x19 40]

/-- The reason code of `opBadAt`. -/
def opBad (c : Ctx) (h : DHead) (o : Op) : Option Nat := (opBadAt c h o).map (·.1)

end Sys2Proof.Machine
end

