-- ==== Sys2Proof/Machine/Digest.lean ====
section
/-! DEFINITION. The linear digests modulo p = 2^61 − 1 (R279). -/
namespace Sys2Proof.Machine

/-- A sum of two digests. -/
def digAdd (a b : Nat) : Nat := (a + b) % Config.digestP

/-- An integer modulo p, non-negative. -/
def digInt (v : Int) : Nat := (v % (Config.digestP : Int)).toNat

/-- The element digest of wide-fixed elements (R279). -/
def elemDigest (vs : List Int) : Nat := vs.foldl (fun a v => digAdd a (digInt v)) 0

/-- The digest of unsigned 64-bit words (R279, R280). -/
def wordDigest (ws : List Nat) : Nat := ws.foldl (fun a w => digAdd a (w % Config.digestP)) 0

/-- The little-endian words of `n` bytes in a byte string. -/
def wordsOf (n : Nat) (bs : List Byte) : List Nat := (chunks n bs).map leNat

/-- The payload digest of a cell's 240 payload bytes (R279). -/
def payloadDigest (bs : List Byte) : Nat := wordDigest (wordsOf 8 bs)

end Sys2Proof.Machine
end

