-- ==== Sys2Proof/Machine/Records.lean ====
section
/-! DEFINITION. Scale records (R115 to R120): their fields, what descriptors fold into them, and the update. -/
namespace Sys2Proof.Machine

/-- A field of a record. -/
def ScaleRec.get (r : ScaleRec) (off n : Nat) : Nat := fieldAt r.bytes off n

/-- Bytes of a list replaced from an offset. -/
def putAt (bs : List Byte) (off : Nat) (v : List Byte) : List Byte := bs.take off ++ v ++ bs.drop (off + v.length)

/-- A field of a record replaced. -/
def ScaleRec.put (r : ScaleRec) (off n v : Nat) : ScaleRec := { r with bytes := putAt r.bytes off (leBytes n v) }

/-- A record of 64 bytes with a sound codeword. -/
def ScaleRec.ofBytes (b : List Byte) : ScaleRec := ⟨slice b 0 64, none, []⟩

/-- An empty record. -/
def ScaleRec.zero : ScaleRec := ScaleRec.ofBytes []

/-! ### The 68/64 code of the record store (R117, R300 to R302) -/

/-- The case a read of the record's codeword meets (R302). -/
def ScaleRec.case (r : ScaleRec) : ReadCase := if r.err.all (· == 0) then .good else readCase r.err

/-- Whether a read delivers the record as poisoned. -/
def ScaleRec.poisoned (r : ScaleRec) : Bool := match r.case with
  | .good => false
  | .corrected _ => false
  | _ => true

/-- The record as a read delivers it: corrected when R302 corrects, else as stored. -/
def ScaleRec.delivered (r : ScaleRec) : ScaleRec :=
  let raw := xorBytes r.bytes (slice r.err 0 64)
  match r.case with
  | .good => r
  | .corrected e => { r with bytes := xorBytes raw e }
  | _ => { r with bytes := raw }

/-- Case 5 of R302: the codeword rewritten with the found pattern, its data bytes as read. -/
def ScaleRec.markFound (r : ScaleRec) : ScaleRec := match r.case with
  | .uncorrectable => { r.delivered with err := foundPattern }
  | _ => r

/-- The record changed by a partial write: merged into what a read delivers; a poisoned codeword takes no data (R304). -/
def ScaleRec.merge (r : ScaleRec) (f : ScaleRec → ScaleRec) : ScaleRec :=
  if r.poisoned then r.markFound else { f r.delivered with err := [] }

/-- Bytes of the store flipped: the place in the codeword, and the XOR value (Hw). -/
def ScaleRec.flip (r : ScaleRec) (k : Nat) (x : Byte) : ScaleRec :=
  { r with err := modifyAt (slice r.err 0 68) k (· ^^^ x) }

/-- The working fields zeroed, and an update that no commit followed dropped (R116, R119). -/
def ScaleRec.fresh (r : ScaleRec) : ScaleRec :=
  ({ r with next := none }).merge (fun q => { q with bytes := slice q.bytes 0 48 ++ zeros 16 })

/-- SCALE as an exponent (R111). -/
def ScaleRec.exp (r : ScaleRec) : Int := (r.get 20 1 : Int) - 127

/-- PRED_ACC or PRED_CHUNK (offset 22 or 24), raised by 8 in a raised run (R120). -/
def ScaleRec.pred (r : ScaleRec) (off : Nat) (raised : Bool) : Int :=
  let p := signed 10 (r.get off 2)
  if raised then min (p + 8) 511 else p

/-- A running amax code folded in (R115). -/
def ScaleRec.foldAmax (r : ScaleRec) (code : Nat) : ScaleRec :=
  (r.put 48 1 (max (r.get 48 1) code)).put 49 1 (r.get 49 1 ||| 1)

/-- The amax code of a magnitude. -/
def amaxCode (m : Nat) (e : Int) : Nat := (clampInt 0 255 (ilog2 m e + 127)).toNat

/-- A required exponent folded in at `off` (50 accumulator, 52 chunk), with its SEEN bit. -/
def ScaleRec.foldReq (r : ScaleRec) (off seen : Nat) (e : Int) : ScaleRec :=
  let old := signed 10 (r.get off 2)
  let e := if bit (r.get 49 1) seen then max old e else e
  (r.put off 2 (twos 10 e)).put 49 1 (r.get 49 1 ||| 2 ^ seen)

/-- STEP_RENORM, STEP_SAT, STEP_NONFINITE counted. -/
def ScaleRec.count (r : ScaleRec) (renorm sat_ nonfinite : Nat) : ScaleRec :=
  ((r.put 56 4 (sat32 (r.get 56 4 + renorm))).put 60 2 (sat16 (r.get 60 2 + sat_))).put 62 2
    (sat16 (r.get 62 2 + nonfinite))

/-- What source values fold in: the largest finite nonzero one, and the count of NaN and infinities (R115). -/
def ScaleRec.foldVals (r : ScaleRec) (xs : List Val) : ScaleRec :=
  let a := xs.foldl (fun a x => magMax a x.mag) (0, 0)
  let bad := (xs.filter (fun x => match x with
    | .fin _ _ _ => false
    | _ => true)).length
  let r := if a.1 == 0 then r else r.foldAmax (amaxCode a.1 a.2)
  r.count 0 0 bad

/-- update_record of R119. -/
def ScaleRec.update (r : ScaleRec) (step : Nat) : ScaleRec :=
  let seen := r.get 49 1
  let r := if bit seen 0 then
      let h := (r.get 16 1 % 16 + 1) % 16
      ((r.put 16 1 h).put h 1 (r.get 48 1)).put 17 1 (min (r.get 17 1 + 1) 16)
    else r
  let r := if 0 < r.get 17 1 then
      let w := min (r.get 18 1) (r.get 17 1)
      let m := (List.range w).foldl (fun m i => max m (r.get ((r.get 16 1 % 16 + 16 - i) % 16) 1)) 0
      let e : Int := (m : Int) - 127 + 1 - emaxOf (3 + r.get 21 1 % 2) + signed 8 (r.get 19 1)
      r.put 20 1 (clampInt (-127) 127 e + 127).toNat
    else r
  let fall := fun (r : ScaleRec) (off req : Nat) =>
    r.put off 2 (twos 10 (clampInt (-512) 511 (max (signed 10 (r.get req 2)) (signed 10 (r.get off 2) - 1))))
  let r := if bit seen 1 then fall r 22 50 else r
  let r := if bit seen 2 then fall r 24 52 else r
  let r := r.put 28 4 (sat32 (r.get 28 4 + r.get 56 4))
  let r := r.put 32 4 (sat32 (r.get 32 4 + r.get 60 2))
  let r := r.put 36 4 (sat32 (r.get 36 4 + r.get 62 2))
  r.put 40 8 step

/-- The record as the updates of the step have left it. -/
def ScaleRec.updated (r : ScaleRec) : ScaleRec := match r.next with
  | some b => { r with bytes := slice b 0 48 ++ r.bytes.drop 48 }
  | none => r

/-- An update of type 0x10: what it writes waits for the commit (R116, R119). -/
def ScaleRec.write (r : ScaleRec) (step : Nat) : ScaleRec :=
  { r with next := some (slice (r.updated.update step).bytes 0 48) }

/-- The step commits: the committed fields take what the updates wrote (R119). -/
def ScaleRec.commit (r : ScaleRec) : ScaleRec := { r.updated with next := none }

/-! ### The record store -/

/-- The scale records a plot's descriptors see. -/
def State.records (s : State) (plot : Nat) : List ScaleRec :=
  if s.chip.profile == 0 then s.train.records else match s.plot? plot with
    | some p => p.records
    | none => []

/-- A record of a plot as a read delivers it, or none when the ID names none. -/
def State.record? (s : State) (plot id : Nat) : Option ScaleRec :=
  if id == 0xFFFF then none else ((s.records plot)[id]?).map ScaleRec.delivered

/-- The stored codeword of a record changed. -/
def State.onStore (s : State) (plot id : Nat) (f : ScaleRec → ScaleRec) : State :=
  if id == 0xFFFF then s
  else if s.chip.profile == 0 then s.onTrain (fun t => { t with records := modifyAt t.records id f })
  else s.onPlot plot (fun p => { p with records := modifyAt p.records id f })

/-- Fields of a record written (R116): a partial write of its codeword. -/
def State.onRecord (s : State) (plot id : Nat) (f : ScaleRec → ScaleRec) : State :=
  s.onStore plot id (fun r => r.merge f)

/-- The case a read of a record meets; good where there is none. -/
def State.recordCase (s : State) (plot id : Nat) : ReadCase := match (s.records plot)[id]? with
  | some r => if id == 0xFFFF then .good else r.case
  | none => .good

/-- Whether the run in progress is raised (R120); serving plots never are; a replay as
the log header calls for (R319). -/
def State.raised (s : State) : Bool := match s.train.run with
  | some r => s.chip.profile == 0 && (match s.replay? with
    | some a => a.raised
    | none => r.raised)
  | none => false

end Sys2Proof.Machine
end

