-- ==== Sys2Proof/Machine/Operands.lean ====
section
/-! DEFINITION. How a descriptor runs (R55, R59, R63, R66, R67, R78, R399, R401): when its start has come, what it
may name, and how its operands are read from and written to tile SRAM and HBM, with poison (R304 to R307) and held
ranges (R199). A descriptor's whole effect happens at its start (log 15). -/
namespace Sys2Proof.Machine

/-- Where a descriptor runs. -/
structure Dc where
  plot : Nat
  /-- logical tile in the plot, and its place on the chip: cluster times 16 plus chain position -/
  tile : Nat
  phys : Nat
  hstacks : List Nat
  desc : Nat
  /-- the spillway of its phase -/
  spill : Nat
  /-- key of the generator (R134) -/
  key : GenKey
  record : Nat
  phase : Nat
  /-- its phase is an update phase -/
  update : Bool
  /-- a paired computation, its digest or its PAIR_CHECK (Table 13.6) -/
  paired : Bool
  /-- the unit it runs on (Table 4.4) -/
  unit : Nat
  /-- the cycle of its start, from the start of the step or pass -/
  start : Nat
  /-- its scale record was delivered as poisoned -/
  recPoison : Bool
  deriving DecidableEq, Repr

/-! ### The tile and its lists -/

/-- The place on the chip of a plot's logical tile (R397). -/
def Plot.tileAt (p : Plot) (t : Nat) : Nat := nth p.clusters (t / 16) 0 * 16 + t % 16

/-- The image or program of a plot. -/
def State.imageOf (s : State) (plot : Nat) : Option Image :=
  if s.chip.profile == 0 then s.train.image else match s.plot? plot with
    | some p => p.program
    | none => none

/-- The sections in force for a plot: of the phase in progress, or of the program. -/
def State.schedOf (s : State) (plot : Nat) : Option Sched :=
  if s.chip.profile == 0 then s.schedNow else (s.imageOf plot).bind (fun i => i.sched? 0)

/-- A tile's descriptor list. -/
def Sched.list (c : Sched) (tile : Nat) : List (List Byte) := match c.descs.find? (fun x => x.1 == tile) with
  | some x => x.2
  | none => []

/-- Recovery mode of a plot's image. -/
def State.modeOf (s : State) (plot : Nat) : Nat := match s.imageOf plot with
  | some i => i.mode
  | none => 0

/-- The ports of an axis, as the image numbers them (R231, R269). -/
def axisImagePorts (a : Nat) : List Nat := [2 * a, 2 * a + 1]

/-- What a descriptor's rules read of its image. -/
def State.descCtx (s : State) (plot : Nat) (update : Bool) : Ctx :=
  { hbm := hbmBytes (s.stacksOf plot), regions := s.regions plot, records := (s.records plot).length,
    mode := s.modeOf plot, update := update,
    colls := match s.schedOf plot with
      | some c => c.colls
      | none => [],
    axisPorts := axisImagePorts }

/-! ### When a descriptor starts -/

/-- The phase that a descriptor names while it is in progress, with the cycles since the start of the step or pass
and the step number of the generator: none while the plot runs nothing for it. -/
def State.phaseFor (s : State) (plot phase : Nat) : Option (PhaseEntry × Nat × Nat) :=
  if s.chip.profile == 0 then
    match s.train.run with
    | none => none
    | some r =>
      if plot != 0 || s.plot0.st != .running || r.begun != phase + 1 then none
      else match s.phases[phase]? with
        | none => none
        | some ph =>
          let now := s.fabricCycle - r.base * 1024
          if s.isSpare then match s.replay? with
            | some a => if ph.kind ≤ 1 then some (ph, now, a.step) else none
            | none => none
          else if ph.kind == 3 && r.passed != some true then none
          else some (ph, now, r.step)
  else match s.plot? plot with
    | none => none
    | some p => match p.pass, p.program with
      | some x, some i => match (i.phases 0 false)[phase]? with
        | some ph => some (ph, s.time.cyc - x.began, 0)
        | none => none
      | _, _ => none

/-- The first cycle from `t` on that waits for no further rise of the draw count (R63): each rise, in order, that has come
by then moves it by 8. -/
def startAfter (t : Nat) : List Nat → Nat
  | [] => t
  | c :: cs => if c ≤ t then startAfter (t + 8) cs else t

/-- The cycle at which a descriptor starts (R63): an anchored one's declared start, any other's first cycle at which the
draw count has left it behind. `draws` are the cycles at which the count rises by 8, in order. -/
def startCycle (h : DHead) (draws : List Nat) : Nat := if h.anchored then h.start else startAfter h.start draws

/-- Whether a descriptor's start is now (R56, R63). -/
def dueNow (h : DHead) (draws : List Nat) (now : Nat) : Bool := now == startCycle h draws

/-- Whether 64 bytes of a descriptor list are this descriptor. -/
def isDesc (b : List Byte) (h : DHead) (o : Op) : Bool := parseHead b == h && parseOp b == some o

/-- The lookahead group that holds a descriptor: armed lists are fetched beside the base's (R53, R78). -/
def State.groupOf (s : State) (desc : Nat) (update : Bool) : Nat :=
  desc / 16 + (if s.chip.profile == 0 && update && (match s.train.run with
    | some r => r.armedForm
    | none => false) then 65536 else 0)

/-- The bytes of a lookahead group that a tile holds. -/
def Tile.group? (t : Tile) (g : Nat) : Option (List Byte) := (t.groups.find? (fun x => x.1 == g)).map (·.2)

/-- Whether a descriptor is the one that stands at its place (R13): in the lookahead buffer, or, where its group has not
been fetched, in the tile's list. -/
def State.scheduled (s : State) (x : At) (h : DHead) (o : Op) (phys : Nat) (update : Bool) : Bool :=
  match (s.tile phys).group? (s.groupOf x.index update) with
  | some b => isDesc (slice b (64 * (x.index % 16)) 64) h o
  | none => match (s.schedOf x.plot).bind (fun c => (c.list x.tile)[x.index]?) with
    | some b => isDesc b h o
    | none => false

/-- Where a descriptor runs now, or none when its plot does not run it now: its phase is in progress, its cycle has come, and
it is the descriptor that the tile's list holds there. -/
def State.gate (s : State) (x : At) (h : DHead) (o : Op) (p : Plot) : Option Dc :=
  match s.phaseFor x.plot h.phase, s.imageOf x.plot with
  | some (ph, now, step), some i =>
    let phys := p.tileAt x.tile
    let t := s.tile phys
    if t.abandoned || !dueNow h t.draws now || !s.scheduled x h o phys (ph.kind == 3) then none
    else some ⟨x.plot, x.tile, phys, p.hstacks, x.index, ph.spill, ⟨i.seed, step, h.tensor⟩, h.record, h.phase,
      ph.kind == 3, false, 0, now, false⟩
  | _, _ => none

/-- The unit of a descriptor (Table 4.4). -/
def Op.unit : Op → Nat
  | .matMul _ => 0
  | .save _ => 0
  | .restore _ => 0
  | .vec _ => 1
  | .upd _ => 1
  | .pair _ => 1
  | .conv _ => 1
  | .scale => 1
  | .digest _ => 1
  | .coll _ _ => 1
  | .dmaIn _ => 2
  | .dmaOut _ => 2
  | .perm _ => 2
  | .gather _ => 2
  | .scatter _ => 2
  | .handoff _ => 3
  | .egress _ => 3
  | .ingress _ => 3
  | .wait u => u
  | .copy o => 16 + o.engine

/-- The adders with a residue check that an operation uses: the accumulator's (R72, R133) and the vector unit's
integer ones (R298): format conversion, that of an update's working copies (R195) among them, the exponent steps of a
scale-record update (R119), PACK and ROUND, digests, and wide-fixed adds of a scatter. -/
def Op.checked : Op → Bool
  | .matMul _ => true
  | .conv _ => true
  | .upd o => o.emit || o.emitT
  | .scale => true
  | .digest _ => true
  | .coll _ _ => true
  | .scatter o => o.add && o.wide
  | _ => false

/-- Whether an operation reads or writes the scale record that its header names (R115, R119, R120, R138, R146). -/
def Op.usesRecord : Op → Bool
  | .matMul _ => true
  | .conv _ => true
  | .upd _ => true
  | .scale => true
  | .coll op _ => op == 0
  | _ => false

/-- Whether an operation belongs to a paired computation (Table 13.6). -/
def Op.pairedIn (o : Op) (update : Bool) : Bool := match o with
  | .upd _ => true
  | .pair _ => true
  | .digest d => update && d.words
  | _ => false

/-- TIMING_FAULT (R66, R78): the tile gives up the rest of its list for the phase. -/
def State.timingFault (s : State) (d : Dc) (unit : Nat) : State :=
  (s.plotFault d.plot 0x07 (Site.tile d.phys unit d.desc) false).onTile d.phys (fun t => { t with abandoned := true })

/-! ### Same-cycle accesses to a tile's SRAM (R75) -/

/-- The rank of a unit's path among writes of one byte in one cycle: chain-port ingress, tile DMA, matrix output, vector
unit, highest first; units as Table 4.4 numbers them. -/
def pathRank (unit : Nat) : Nat := match unit with
  | 0 => 1
  | 1 => 0
  | 2 => 2
  | _ => 3

/-- The writes of a path laid over a memory in order. -/
def SameCycle.lay (x : SameCycle) (rank : Nat) (m : Mem) : Mem :=
  (x.writes.filter (fun w => w.1 == rank)).foldl (fun m w => (m.store w.2.1 w.2.2).1) m

/-- What a path sees in the cycle: the memory before it, with its own writes. -/
def SameCycle.view (x : SameCycle) (rank : Nat) : Mem := x.lay rank x.before

/-- What the cycle leaves: the writes of the higher ranks over those of the lower ones. -/
def SameCycle.result (x : SameCycle) : Mem := (List.range 4).foldl (fun m k => x.lay k m) x.before

/-- The accesses of the cycle `cyc` that have written the tile's SRAM. -/
def Tile.sameNow (t : Tile) (cyc : Nat) : Option SameCycle := t.same.filter (fun x => x.cycle == cyc)

/-- A read of the SRAM by a path in a cycle: the bytes, the tile, and what was met. A codeword found uncorrectable is
marked in what the cycle began with. -/
def Tile.readSram (t : Tile) (cyc rank off n : Nat) : List TByte × Tile × Seen := match t.sameNow cyc with
  | none =>
    let f := t.sram.fetch off n
    (f.1, { t with sram := f.2.1 }, f.2.2)
  | some x =>
    let f := (x.view rank).fetch off n
    let y := { x with before := (x.before.readCws f.2.2.uncorrectable).1 }
    (f.1, if f.2.2.uncorrectable.isEmpty then t else { t with sram := y.result, same := some y }, f.2.2)

/-- A write of the SRAM by a path in a cycle: the tile, and what the merges met. -/
def Tile.writeSram (t : Tile) (cyc rank off : Nat) (bs : List TByte) : Tile × Seen := match t.sameNow cyc with
  | none =>
    let w := t.sram.store off bs
    ({ t with sram := w.1, same := some ⟨cyc, t.sram, [(rank, off, bs)]⟩ }, w.2)
  | some x =>
    let y := { x with writes := x.writes ++ [(rank, off, bs)] }
    ({ t with sram := if x.writes.all (fun w => decide (w.1 ≤ rank)) then (t.sram.store off bs).1 else y.result, same := some y },
      ((x.view rank).store off bs).2)

/-- Bytes of the SRAM flipped, in what the cycle began with too. -/
def Tile.struck (t : Tile) (fs : List (Nat × Byte)) : Tile :=
  { t with sram := t.sram.flips fs, same := t.same.map (fun x => { x with before := x.before.flips fs }) }

/-- Physical faults that strike before a descriptor's reads (log 16). -/
def State.struck (s : State) (d : Dc) (hw : Hw) : State :=
  let s := if hw.hbmFlips.isEmpty then s else s.onMem (fun m => { m with hbm := hbmFlips m.hbm d.hstacks hw.hbmFlips })
  let s := if hw.sramFlips.isEmpty then s else s.onTile d.phys (fun t => t.struck hw.sramFlips)
  hw.recFlips.foldl (fun s f => s.onStore d.plot (f.1 / 68) (fun r => r.flip (f.1 % 68) f.2)) s

/-- The place of a record's codeword: the store has no location kind in Table 13.9, so none, with its byte offset in the
store (log 78). -/
def siteRecord (id desc : Nat) : Site := ⟨0, 0, 0, desc, 64 * id, none⟩

/-- A record's codeword read through the decoder (R302, R306). -/
def State.readRecord (s : State) (d : Dc) (id : Nat) : State := match s.recordCase d.plot id with
  | .uncorrectable => (s.onStore d.plot id ScaleRec.markFound).plotFault d.plot 0x0A (siteRecord id d.desc) d.paired
  | .found => s.plotFault d.plot 0x0B (siteRecord id d.desc) d.paired
  | _ => s

/-- Whether a record is delivered as poisoned. -/
def State.recordPoison (s : State) (plot id : Nat) : Bool := match s.recordCase plot id with
  | .good => false
  | .corrected _ => false
  | _ => true

/-- The arithmetic checks that failed while the descriptor ran (R71, R72, R298). -/
def State.arithFaults (s : State) (d : Dc) (o : Op) (hw : Hw) : State :=
  let s := match o, hw.tally with
    | .matMul _, some c => s.plotFault d.plot 0x01 ⟨1, d.phys, c, d.desc, 0, none⟩ false
    | _, _ => s
  if o.checked && hw.residue then s.plotFault d.plot 0x02 (Site.tile d.phys o.unit d.desc) d.paired else s

/-- Whether the tile's lookahead buffer holds a descriptor's group (R78). -/
def State.fetched (s : State) (d : Dc) : Bool := ((s.tile d.phys).group? (s.groupOf d.desc d.update)).isSome

/-- A descriptor's scale record read before its effect. -/
def State.withRecord (s : State) (d : Dc) (o : Op) (eff : Dc → State → State) : State :=
  if o.usesRecord && d.record != 0xFFFF then
    eff { d with recPoison := s.recordPoison d.plot d.record } (s.readRecord d d.record)
  else eff d s

/-- One descriptor: its guard, its rules, its faults and its effect. -/
def State.runDesc (s : State) (x : At) (h : DHead) (o : Op) (eff : Dc → State → State) : Out :=
  match s.plot? x.plot with
  | none => .fault (.noSuchUnit "plot")
  | some p =>
    if 16 * p.clusters.length ≤ x.tile then .fault (.noSuchUnit "tile")
    else match s.gate x h o p with
      | none => .next s
      | some d =>
        match opBad (s.descCtx x.plot d.update) h o with
        | some code => .fault (.rejectedAtLoad code)
        | none =>
          let d := { d with paired := o.pairedIn d.update, unit := o.unit }
          if x.hw.busy || !s.fetched d then .next (s.timingFault d o.unit)
          else .next (((s.struck d x.hw).withRecord d o eff).arithFaults d o x.hw)

/-! ### Tile SRAM -/

/-- Bytes read from the tile's SRAM, with taint, and the state with what the reads met. -/
def State.sramRead (s : State) (d : Dc) (off n : Nat) : List TByte × State :=
  let f := (s.tile d.phys).readSram s.time.cyc (pathRank d.unit) off n
  (f.1, (s.onTile d.phys (fun _ => f.2.1)).seenSram d.plot d.phys d.unit d.desc d.paired f.2.2)

/-- Bytes written into a tile's SRAM. -/
def State.sramWriteAt (s : State) (d : Dc) (phys off : Nat) (bs : List TByte) : State :=
  let w := (s.tile phys).writeSram s.time.cyc (pathRank d.unit) off bs
  (s.onTile phys (fun _ => w.1)).seenSram d.plot phys d.unit d.desc d.paired w.2

/-- Bytes written into the descriptor's own tile. -/
def State.sramWrite (s : State) (d : Dc) (off : Nat) (bs : List TByte) : State := s.sramWriteAt d d.phys off bs

/-- Pieces written one after another: (offset, bytes). -/
def State.sramWrites (s : State) (d : Dc) (ps : List (Nat × List TByte)) : State :=
  ps.foldl (fun s p => s.sramWrite d p.1 p.2) s

/-! ### HBM -/

/-- Bytes read from the plot's HBM. -/
def State.hbmReadD (s : State) (d : Dc) (a n : Nat) : List TByte × State :=
  let f := hbmFetch s.mem.hbm d.hstacks a n
  (f.1, (s.onMem (fun m => { m with hbm := f.2.1 })).seenHbm d.plot d.hstacks d.desc d.paired f.2.2)

/-- Bytes written into the plot's HBM. -/
def State.hbmWriteD (s : State) (d : Dc) (a : Nat) (bs : List TByte) : State :=
  let w := hbmStore s.mem.hbm d.hstacks a bs
  (s.onMem (fun m => { m with hbm := w.1 })).seenHbm d.plot d.hstacks d.desc d.paired w.2

/-! ### FP32 operands -/

/-- The bytes without their taint. -/
def plain (bs : List TByte) : List Byte := bs.map (·.1)

/-- FP32 words of a byte string. -/
def words32 (bs : List Byte) : List W32 := (chunks 4 bs).map (fun c => BitVec.ofNat 32 (leNat c))

/-- The bytes of FP32 words. -/
def bytes32 (ws : List W32) : List Byte := (ws.map (fun w => leBytes 4 w.toNat)).flatten

/-! ### Held ranges (R199) -/

/-- The role whose chunk a third-role descriptor computes: that of the third-mode PAIR_CHECK which follows it in its
tile's list and covers its chunk (log 17). -/
def thirdRole (l : List (List Byte)) (idx chunk : Nat) : Nat :=
  match (l.drop (idx + 1)).findSome? (fun b => match parseOp b with
    | some (.pair o) => if o.third && decide (o.first ≤ chunk) && decide (chunk < o.first + o.rows) then some o.role else none
    | _ => none) with
  | some r => r
  | none => 0

/-- The hold-table entry of a chunk. -/
def Holds.entry? (t : Holds) (role chunk : Nat) : Option HoldEntry :=
  t.entries.find? (fun e => e.role == role && e.chunk == chunk)

/-- Whether a chunk is held on the chip (R198, R315). -/
def Holds.isHeld (t : Holds) (role chunk : Nat) : Bool :=
  t.forced.contains (role, chunk) || match t.entry? role chunk with
    | some e => e.held
    | none => false

/-- Whether a third computation of a chunk has been released by a fabric cycle (R199, R200). -/
def Holds.isReleased (t : Holds) (role chunk now : Nat) : Bool := match (t.entry? role chunk).bind (·.released) with
  | some at_ => decide (at_ ≤ now)
  | none => false

/-- Whether the output area of an update descriptor is held at a fabric cycle: its chunk is held, or its PAIR_CHECK has
not ended; of a third-role one, unless it has been released. -/
def State.updHeld (s : State) (l : List (List Byte)) (idx : Nat) (o : UpdOps) : Bool :=
  let t := s.train.holds
  let mode := s.modeOf 0
  if mode == 0 then false
  else if o.role == 2 then !t.isReleased (thirdRole l idx o.chunk) o.chunk s.fabricCycle
  else
    -- in interval mode one PAIR_CHECK of the chip concerns both roles of a chunk
    let role := if mode == 2 && (t.entry? o.role o.chunk).isNone then 1 - o.role else o.role
    t.isHeld role o.chunk || match t.entry? role o.chunk with
      | some e => decide (s.fabricCycle < e.endAt)
      | none => true

/-- The held ranges of a logical tile of the training plot in its update phase: (offset, bytes). -/
def State.heldRanges (s : State) (tile : Nat) : List (Nat × Nat) :=
  match s.schedNow with
  | none => []
  | some c =>
    let l := c.list tile
    l.zipIdx.filterMap (fun x => match parseOp x.1 with
      | some (.upd o) => if (parseHead x.1).phase + 1 == (match s.train.run with
          | some r => r.begun
          | none => 0) && s.updHeld l x.2 o then some (o.outOff, updOutBytes o) else none
      | _ => none)

/-- Whether a range of the tile's SRAM is held. -/
def State.isHeldRange (s : State) (d : Dc) (off n : Nat) : Bool :=
  s.chip.profile == 0 && d.update && (s.heldRanges d.tile).any (fun r => overlaps off n r.1 r.2)

/-! ### Rows and runs -/

/-- The index of a dense tensor's element, dimension 0 fastest, taken apart. -/
def unravel : List Nat → Nat → List Nat
  | [], _ => []
  | n :: ns, i => i % max n 1 :: unravel ns (i / max n 1)

/-- The byte distance of an element from the base (R155). -/
def strideOffset (idx : List Nat) (strides : List Int) : Int :=
  (idx.zip strides).foldl (fun a x => a + (x.1 : Int) * x.2) 0

/-- An address moved by a signed distance. -/
def moveAddr (a : Nat) (d : Int) : Nat := ((a : Int) + d).toNat

/-- The SRAM offset of byte 0 of a dense run (R155). -/
def runOffset (off run : Nat) (pad : Bool) (i : Nat) : Nat := off + i * (if pad then roundUp run 64 else run)

end Sys2Proof.Machine
end

