-- ==== Sys2Proof/Machine/MatMul.lean ====
section
/-! DEFINITION. Matrix multiply (R70 to R72, R106, R121 to R146): operands, patches, chain-in, accumulation, and the
running-sum record or the converted output. Each area is read once, before the first write (log 18). -/
namespace Sys2Proof.Machine

/-! ### Operands -/

/-- Blocks of one row of a block-layout operand: decoded elements of each block, and whether the row's bytes were
poisoned. -/
def blockRow (f b k : Nat) (row : List TByte) : List (List Val) × Bool :=
  ((List.range (k / b)).map (fun i => readBlock f b (slice (plain row) (recordBytes f b * i) (recordBytes f b))),
    anyTaint row)

/-- The rows of a block-layout operand at an offset (R105). -/
def State.blockOperand (s : State) (d : Dc) (off rows f b k : Nat) : List (List (List Val) × Bool) × State :=
  let pitch := blockPitch f b (k / b)
  let r := s.sramRead d off (rows * pitch)
  ((List.range rows).map (fun i => blockRow f b k ((r.1.drop (pitch * i)).take (recordBytes f b * (k / b)))), r.2)

/-- An SX5 element with its scale exponent. -/
abbrev SxElem := Val × Int

/-- Block size of an SX5 header's code (Table 5.11). -/
def sxBlock (code : Nat) : Nat := 2 ^ (3 + min (code % 8) 5)

/-- Bytes of the arrays that an SX5 header places in tile SRAM; a byte beyond the tile's SRAM is a free value
(log 19). -/
def State.sxBytes (s : State) (d : Dc) (off n : Nat) : List TByte × State :=
  let k := min n (Config.sramBytes - off)
  let r := s.sramRead d off k
  let t := (List.range (n - k)).foldl (fun (x : List TByte × State) _ =>
    let v := x.2.draw
    (x.1 ++ [(BitVec.ofNat 8 v.1, false)], v.2)) (([] : List TByte), r.2)
  (r.1 ++ t.1, t.2)

/-- One row of an SX5 operand: 32-element groups of (element, scale exponent), and the row's poison (R121, R122). -/
def sxRow (f k rows b : Nat) (across : Bool) (els scales : List TByte) (r : Nat) : List (List SxElem) × Bool :=
  let at_ := fun (i : Nat) => if across then i * ceilDiv rows b + r / b else r * ceilDiv k b + i / b
  let es := (List.range k).map (fun i =>
    (decodeElem f (nth els i (0, false)).1.toNat, signed 8 (nth scales (at_ i) (0, false)).1.toNat))
  (chunks 32 es, anyTaint els || (List.range k).any (fun i => (nth scales (at_ i) (0, false)).2))

/-- The rows of an SX5 operand (R121, R122). -/
def State.sxOperand (s : State) (d : Dc) (off rows f k : Nat) : List (List (List SxElem) × Bool) × State :=
  let h := s.sramRead d off 16
  let hb := plain h.1
  let b := sxBlock (fieldAt hb 0 1)
  let across := bit (fieldAt hb 0 1) 3
  let n := if across then k * ceilDiv rows b else rows * ceilDiv k b
  let sc := h.2.sxBytes d (fieldAt hb 8 4) n
  (List.range rows).foldl (fun (x : List (List (List SxElem) × Bool) × State) r =>
    let e := x.2.sxBytes d (fieldAt hb 4 4 + r * fieldAt hb 12 4) k
    let row := sxRow f k rows b across e.1 sc.1 r
    (x.1 ++ [(row.1, row.2 || anyTaint h.1)], e.2)) (([] : List (List (List SxElem) × Bool)), sc.2)

/-- The partial of one SX5 group (R123): products whose scale sum lies more than 24 below the largest are dropped; a
NaN element makes it NaN in any case (R126). -/
def sxPartial (a b : List SxElem) : Partial :=
  let ps := a.zip b
  let g := match ps.map (fun p => p.1.2 + p.2.2) with
    | [] => 0
    | x :: xs => xs.foldl max x
  if ps.any (fun p => p.1.1 == .nan || p.2.1 == .nan) then none
  else
    let kept := ps.filter (fun p => decide (g - 24 ≤ p.1.2 + p.2.2))
    dotExact (kept.map (fun p => p.1.1.scale p.1.2)) (kept.map (fun p => p.2.1.scale p.2.2))

/-- An operand pair ready for the lanes: the partial of row i, column j and block k, the number of blocks, and the
poison of a row of A and of B. -/
structure Lanes where
  rows : List (List (List Val) × Bool)
  cols : List (List (List Val) × Bool)
  sxRows : List (List (List SxElem) × Bool)
  sxCols : List (List (List SxElem) × Bool)
  sx : Bool
  deriving DecidableEq, Repr

/-- The partial of lane (i, j) for block k; zero outside the operands. -/
def Lanes.partial_ (l : Lanes) (i j k : Nat) : Partial :=
  if l.sx then match l.sxRows[i]?, l.sxCols[j]? with
    | some a, some b => sxPartial (nth a.1 k []) (nth b.1 k [])
    | _, _ => some ⟨0, 0⟩
  else match l.rows[i]?, l.cols[j]? with
    | some a, some b => dotExact (nth a.1 k []) (nth b.1 k [])
    | _, _ => some ⟨0, 0⟩

/-- Whether an operand row or column of the patch at (i, j) was poisoned. -/
def Lanes.poison (l : Lanes) (i j : Nat) : Bool :=
  ((l.rows.drop i).take 16).any (·.2) || ((l.cols.drop j).take 16).any (·.2)
    || ((l.sxRows.drop i).take 16).any (·.2) || ((l.sxCols.drop j).take 16).any (·.2)

/-- Both operands read. -/
def State.lanes (s : State) (d : Dc) (o : MatMulOps) : Lanes × State :=
  if o.mode == 2 then
    let a := s.sxOperand d o.aOff o.m o.fa o.k
    let b := a.2.sxOperand d o.bOff o.n o.fb o.k
    (⟨[], [], a.1, b.1, true⟩, b.2)
  else
    let a := s.blockOperand d o.aOff o.m o.fa (mmBlock o) o.k
    let b := a.2.blockOperand d o.bOff o.n o.fb (mmBlock o) o.k
    (⟨a.1, b.1, [], [], false⟩, b.2)

/-! ### One patch -/

/-- Bank flag bits (Table 6.7). -/
def flagSat : Nat := 0
/-- CONTINUE -/
def flagContinue : Nat := 1
/-- POISON -/
def flagPoison : Nat := 2

/-- The bank that a patch starts from without chain-in (R137). -/
def freshBank (o : MatMulOps) (x : Int) (row col : Nat) : Bank :=
  ⟨List.replicate 256 0, x, 0, o.mode, o.kBase, row, col⟩

/-- Whether a chained record is the one the descriptor expects (R142). -/
def chainOk (o : MatMulOps) (b : Bank) (row col : Nat) : Bool :=
  bit b.flags flagContinue && b.nextK == o.kBase && b.row == row && b.col == col && b.mode == o.mode

/-- What a patch leaves: its bank and draw count, what it folds, whether a word saturated in this descriptor, and the
cycles at which the draw count rises. -/
structure PatchEnd where
  acc : Acc
  saturated : Bool
  draws : List Nat
  deriving DecidableEq, Repr

/-- The cycle at which the add of block `k` of patch `p` completes when nothing renormalizes: 3 + 9 + 2 cycles for the first
block (R95), the blocks at the rate of Table 4.2, and 2 cycles to change patches. An overflow is detected in this cycle
(cycle c + 2 of Table 6.5; log 79). -/
def addCycle (o : MatMulOps) (start p k : Nat) : Nat :=
  start + 14 + p * (mmBlocks o + 2) + k * mmBlocks o / max (o.k / mmBlock o) 1

/-- One block added (R130): the renormalizations of the descriptor so far, 8 cycles each, delay it (R131). `w0` is the draw
count at the descriptor's start. -/
def patchBlock (key : GenKey) (spill : Nat) (o : MatMulOps) (l : Lanes) (pi pj start w0 : Nat) (x : Acc × List Nat) (k : Nat) :
    Acc × List Nat :=
  let a := accumulate key spill
    ((List.range 256).map (fun x => l.partial_ (16 * pi + x / 16) (16 * pj + x % 16) k)) (o.kBase + k) 256 0 x.1
  let c := addCycle o start (pi * (mmPatches o).2 + pj) k + (x.1.w - w0)
  (a, x.2 ++ (List.range ((a.w - x.1.w) / 8)).map (fun i => c + 8 * i))

/-- A patch accumulated block by block (R127, R130). SAT that came with the running sum is set aside and put back. `poison`
says that the descriptor's scale record was poisoned. -/
def runPatch (key : GenKey) (spill : Nat) (o : MatMulOps) (l : Lanes) (pi pj : Nat) (b : Bank) (w start w0 : Nat)
    (poison : Bool) : PatchEnd :=
  let had := bit b.flags flagSat
  let b0 := { b with flags := b.flags &&& 0xE, row := o.rowBase + 16 * pi, col := o.colBase + 16 * pj, mode := o.mode }
  let x := (List.range (o.k / mmBlock o)).foldl (patchBlock key spill o l pi pj start w0) (⟨b0, w, 0, false⟩, [])
  let a := x.1
  let poison := poison || bit b.flags flagPoison || l.poison (16 * pi) (16 * pj)
  let fl := b2n (a.satNow || had) + 2 * b2n o.chainOut + 4 * b2n poison
  ⟨{ a with bank := { a.bank with flags := fl, nextK := o.kBase + o.k / mmBlock o }, satNow := a.satNow && !had },
    a.satNow, x.2⟩

/-- A finite word as a value (R146). -/
def wordVal (w : W40) (x : Int) : Val :=
  if w == nanMark then .nan
  else
    let v := wordInt w
    .fin (decide (v < 0)) v.natAbs (x - 39)

/-- Whether a finite value overflows a format that clamps it (HST_PASS_STATUS.SAT, Table 16.6). -/
def clampsTo (code : Nat) (md : ConvMode) (r16 : Nat) (x : Val) : Bool :=
  (md.block || !md.nonsat) && match x with
    | .fin _ m e => m != 0 && (let r := roundTo code m e md.stoch r16; !magLe r.1 r.2 (largestOf code).1 (largestOf code).2)
    | _ => false

/-- One output element converted (R146): its bits, and whether it was clamped. -/
def outElem (key : GenKey) (o : MatMulOps) (scale : Int) (poison : Bool) (row col : Nat) (v : Val) : Nat × Bool :=
  let md : ConvMode := ⟨o.outStoch, o.outNonsat, false⟩
  let v := if poison then .nan else v
  let v := if isFp8 o.outFmt then v.scale (-scale) else v
  let r := gen key 2 0 row col 0
  ((convElem o.outFmt md r v).getD 0, clampsTo o.outFmt md r v)

/-- The rows of a patch that the output holds, converted: (offset, bytes), and whether any element was clamped. -/
def outRows (key : GenKey) (o : MatMulOps) (scale : Int) (pi pj : Nat) (b : Bank) : List (Nat × List TByte) × Bool :=
  let es := elemBits o.outFmt / 8
  let rows := (List.range (min 16 (o.m - 16 * pi))).map (fun i =>
    let cells := (List.range (min 16 (o.n - 16 * pj))).map (fun j =>
      outElem key o scale (bit b.flags flagPoison) (b.row + i) (b.col + j) (wordVal (nth b.words (16 * i + j) 0) b.exp))
    ((o.outOff + (16 * pi + i) * mmPitch o + 16 * pj * es,
      clean (cells.map (fun c => leBytes es c.1)).flatten), cells.any (·.2)))
  (rows.map (·.1), rows.any (·.2))

/-- The values of a patch within the output (R115, R146). -/
def outVals (o : MatMulOps) (pi pj : Nat) (b : Bank) : List Val :=
  ((List.range (min 16 (o.m - 16 * pi))).map (fun i =>
    (List.range (min 16 (o.n - 16 * pj))).map (fun j => wordVal (nth b.words (16 * i + j) 0) b.exp))).flatten

/-- Words outside the tensor's rows and columns zeroed in a record (R140). -/
def trimWords (o : MatMulOps) (pi pj : Nat) (b : Bank) : Bank :=
  { b with words := b.words.zipIdx.map (fun x =>
      if 16 * pi + x.2 / 16 < o.m && 16 * pj + x.2 % 16 < o.n then x.1 else 0) }

/-- What a patch folds into the descriptor's record (R138, R146). -/
def foldPatch (o : MatMulOps) (pi pj : Nat) (p : PatchEnd) (r : ScaleRec) : ScaleRec :=
  let r := match requiredExp p.acc with
    | some e => r.foldReq 50 1 e
    | none => r
  let r := r.count p.acc.renorms (b2n p.acc.satNow) 0
  if o.keep then r else r.foldVals (outVals o pi pj p.acc.bank)

/-- A conversion that clamped in a serving pass sets SAT (Table 16.6). -/
def State.passSat (s : State) (d : Dc) (sat_ : Bool) : State :=
  if sat_ && s.chip.profile != 0 then
    s.onPlot d.plot (fun p => { p with pass := p.pass.map (fun x => { x with sat := true }) })
  else s

/-- The records of a chained descriptor read before its patches (R141): the model's choice where the output of an earlier
patch lies over the record of a later one (log 18). -/
def State.chainRecords (s : State) (d : Dc) (o : MatMulOps) : List TByte × State :=
  if o.chainIn then s.sramRead d o.outOff (1344 * ((mmPatches o).1 * (mmPatches o).2)) else ([], s)

/-- Patch `p` run: the chain-in check, the accumulation, the folds and the output (R137 to R146). -/
def State.patch (d : Dc) (o : MatMulOps) (l : Lanes) (chain : List TByte) (w0 : Nat) (s : State) (p : Nat) : State :=
  let pi := p / (mmPatches o).2
  let pj := p % (mmPatches o).2
  let row := o.rowBase + 16 * pi
  let col := o.colBase + 16 * pj
  let rec_ := s.record? d.plot d.record
  let start : Bank := if o.chainIn then
      let r := (chain.drop (1344 * p)).take 1344
      let b := bankOf (plain (r.take 1280)) (plain ((r.drop 1280).take 16))
      { b with flags := b.flags ||| (4 * b2n (anyTaint r)) }
    else freshBank o (match rec_ with
      | some r => r.pred 22 s.raised
      | none => 0) row col
  let s := if o.chainIn && !chainOk o start row col then
      s.plotFault d.plot 0x03 ⟨1, d.phys, p, d.desc, 0, none⟩ false
    else s
  let e := runPatch d.key d.spill o l pi pj start (s.tile d.phys).w d.start w0 d.recPoison
  let s := s.onTile d.phys (fun t => { t with
    w := e.acc.w, draws := t.draws ++ e.draws, banks := t.banks.set o.bank e.acc.bank })
  let s := s.onRecord d.plot d.record (foldPatch o pi pj e)
  let s := if e.saturated then s.saturation d.plot (Site.tile d.phys 0 d.desc) d.phys d.record else s
  if o.keep then s.sramWrite d (o.outOff + 1344 * p) (clean (trimWords o pi pj e.acc.bank).record)
  else
    let r := outRows d.key o (match rec_ with
      | some r => r.exp
      | none => 0) pi pj e.acc.bank
    (s.sramWrites d r.1).passSat d r.2

/-- The effect of a matrix multiply. -/
def State.matMul (o : MatMulOps) (d : Dc) (s : State) : State :=
  let l := s.lanes d o
  let c := l.2.chainRecords d o
  (List.range ((mmPatches o).1 * (mmPatches o).2)).foldl (State.patch d o l.1 c.1 (s.tile d.phys).w) c.2

/-- MATRIX_MULTIPLY. -/
def execMatrixMultiply (x : At) (h : DHead) (o : MatMulOps) (s : State) : Out :=
  s.runDesc x h (.matMul o) (State.matMul o)

end Sys2Proof.Machine
end

