-- ==== Sys2Proof/Machine/Vector.lean ====
section
/-! DEFINITION. Vector functions (Table 9.6, Table 8.4), format conversion (R107 to R112) and digest descriptors
(R280, R307). A descriptor that reads any poisoned codeword marks every codeword that it writes (R305). -/
namespace Sys2Proof.Machine

/-! ### Elementwise functions -/

/-- One element of an elementwise function (Table 9.6): `a` from source 1, `b` from source 2, `d` from the
destination, `k` the constant. `u` is the microprogram version (R113). -/
def elementFn (u : W32) (fn : Nat) (k a b d : W32) : W32 :=
  match fn with
  | 0x00 => if isNaN a then nan32 else a
  | 0x01 => fadd a b
  | 0x02 => fsub a b
  | 0x03 => fmul a b
  | 0x04 => ffma a b d
  | 0x05 => ffma k a b
  | 0x06 => fmul a k
  | 0x07 => fadd a k
  | 0x08 => fneg a
  | 0x09 => fabs a
  | 0x0A => fmul a a
  | 0x0B => if isNaN k then nan32 else k
  | 0x0C => fadd a b
  | 0x0D => fmul a b
  | 0x0E => fmul a b
  | 0x0F => fsub a b
  | 0x40 => fmax a b
  | 0x41 => fmin a b
  | 0x42 => fmax a k
  | 0x43 => fmin a k
  | 0x44 => flag32 ((dec32 b).lt (dec32 a))
  | 0x45 => flag32 ((dec32 b).lt (dec32 a) || (dec32 a).eqv (dec32 b))
  | 0x46 => flag32 ((dec32 a).eqv (dec32 b))
  | 0x47 => if (dec32 b).isZero then k else a
  | 0x60 => fexp u a
  | 0x61 => flog u a
  | 0x62 => fsqrt u a
  | 0x63 => frsqrt u a
  | 0x64 => frecip u a
  | 0x65 => fdiv u a b
  | 0x66 => ftanh u a
  | 0x67 => fsigmoid u a
  | 0x68 => ferf u a
  | _ => fexp2 u a

/-- The index into source 2 of element (r, c): a row operand, a column operand, or element by element. -/
def src2Index (fn len i : Nat) : Nat :=
  if fn == 0x0C || fn == 0x0D then i % max len 1 else if fn == 0x0E || fn == 0x0F then i / max len 1 else i

/-- Reductions (Table 9.6): the results, one per row or per column. -/
def reduceFn (fn rows len : Nat) (a : List W32) : List W32 :=
  let row := fun (r : Nat) => (a.drop (r * len)).take len
  let col := fun (c : Nat) => (List.range rows).map (fun r => nth a (r * len + c) 0)
  let sum := fun (xs : List W32) => xs.foldl (fun acc x => fadd acc x) 0
  let sumsq := fun (xs : List W32) => xs.foldl (fun acc x => ffma x x acc) 0
  match fn with
  | 0x80 => (List.range rows).map (fun r => sum (row r))
  | 0x81 => (List.range rows).map (fun r => match row r with
      | [] => Config.emptyRow 0x81
      | xs => famax xs)
  | 0x82 => (List.range rows).map (fun r => match row r with
      | [] => Config.emptyRow 0x82
      | x :: xs => xs.foldl fmax (if isNaN x then nan32 else x))
  | 0x83 => (List.range rows).map (fun r => sumsq (row r))
  | 0x84 => (List.range len).map (fun c => sum (col c))
  | _ => (List.range len).map (fun c => sumsq (col c))

/-! ### Masks (R182, R183) -/

/-- A bit of a mask. -/
def maskBit (m : List Byte) (len r c : Nat) : Bool :=
  (nth m (r * maskPitch len + c / 8) 0).getLsbD (c % 8)

/-- A mask's bytes from its bits; every bit beyond the row is 0. -/
def maskBytes (rows len : Nat) (f : Nat → Nat → Bool) : List Byte :=
  ((List.range rows).map (fun r => (List.range (maskPitch len)).map (fun i =>
    BitVec.ofNat 8 ((List.range 8).foldl (fun a b =>
      a + b2n (decide (8 * i + b < len) && f r (8 * i + b)) * 2 ^ b) 0)))).flatten

/-- The destination's bytes of a vector function, from its sources' and destination's bytes. -/
def vecResult (u : W32) (o : VecOps) (a b d : List Byte) : List Byte :=
  let x := words32 a
  match o.fn with
  | 0x58 => maskBytes o.rows o.len (fun r c => (dec32 o.const).lt (dec32 (nth x (r * o.len + c) 0)))
  | 0x59 => bytes32 ((List.range (o.rows * o.len)).map (fun i =>
      if maskBit b o.len (i / max o.len 1) (i % max o.len 1) then fmul (nth x i 0) o.const else 0))
  | 0x5A => maskBytes o.rows o.len (fun r c => maskBit a o.len r c && maskBit b o.len r c)
  | f =>
    if 0x80 ≤ f then bytes32 (reduceFn f o.rows o.len x)
    else
      let y := words32 b
      let z := words32 d
      bytes32 ((List.range (o.rows * o.len)).map (fun i =>
        elementFn u f o.const (nth x i 0) (nth y (src2Index f o.len i) 0) (nth z i 0)))

/-- The effect of a vector function. -/
def State.vector (o : VecOps) (d : Dc) (s : State) : State :=
  let n := vecAreas o
  let a := s.sramRead d o.src1 n.1
  let b := a.2.sramRead d o.src2 n.2.1
  let z := if o.fn == 0x04 then b.2.sramRead d o.dst n.2.2 else ([], b.2)
  let taint := anyTaint a.1 || anyTaint b.1 || anyTaint z.1
  z.2.sramWrite d o.dst (tagged taint (vecResult s.chip.ucode o (plain a.1) (plain b.1) (plain z.1)))

/-- VECTOR_FUNCTION. -/
def execVectorFunction (x : At) (h : DHead) (o : VecOps) (s : State) : Out :=
  s.runDesc x h (.vec o) (State.vector o)

/-! ### Format conversion -/

/-- The decoded values of one row of a conversion's source (R108). -/
def convSource (o : ConvOps) (scale : Int) (row : List Byte) : List Val :=
  if o.sBlock then
    let b := blockOf o.block16
    ((List.range o.rowLen).map (fun i => readBlock o.sf b (slice row (recordBytes o.sf b * i) (recordBytes o.sf b)))).flatten
  else
    let es := elemBits o.sf / 8
    (List.range (convWidth o)).map (fun i =>
      let v := decodeElem o.sf (fieldAt row (es * i) es)
      if isFp8 o.sf then v.scale scale else v)

/-- The bytes of one row of a conversion's destination, and whether a value was clamped. `r` is the global row. -/
def convDest (key : GenKey) (o : ConvOps) (scale : Int) (r : Nat) (vs : List Val) : List Byte × Bool :=
  let rnd := fun (i : Nat) => gen key 2 0 r (o.elemBase + i) 0
  if o.dBlock then
    let b := blockOf o.block16
    let bs := (List.range o.rowLen).map (fun i =>
      let x := (vs.drop (b * i)).take b
      let rs := (List.range b).map (fun j => rnd (b * i + j))
      let e := blockExp o.df x
      (blockBytes o.df b (convertBlock o.df o.stoch o.nonsat rs x),
        (x.zip rs).any (fun p => clampsTo o.df ⟨o.stoch, o.nonsat, true⟩ p.2 (p.1.scale (-e)))))
    (slice (bs.map (·.1)).flatten 0 (blockPitch o.df b o.rowLen), bs.any (·.2))
  else
    let es := elemBits o.df / 8
    let md : ConvMode := ⟨o.stoch, o.nonsat, false⟩
    let cs := vs.zipIdx.map (fun x =>
      let v := if isFp8 o.df then x.1.scale (-scale) else x.1
      (leBytes es ((convElem o.df md (rnd x.2) v).getD 0), clampsTo o.df md (rnd x.2) v))
    ((cs.map (·.1)).flatten, cs.any (·.2))

/-- Bytes of one row of a side of a conversion. -/
def convPitch (o : ConvOps) (f : Nat) (block : Bool) : Nat :=
  if block then blockPitch f (blockOf o.block16) o.rowLen else convWidth o * (elemBits f / 8)

/-- The effect of a format conversion. -/
def State.convert (o : ConvOps) (d : Dc) (s : State) : State :=
  let scale := match s.record? d.plot d.record with
    | some r => r.exp
    | none => 0
  let sp := convPitch o o.sf o.sBlock
  let dp := convPitch o o.df o.dBlock
  let src := s.sramRead d o.src (convSide o o.sf o.sBlock)
  let rows := (List.range o.rows).map (fun r => convSource o scale (slice (plain src.1) (sp * r) sp))
  let out := rows.zipIdx.map (fun x => convDest d.key o scale (o.rowBase + x.2) x.1)
  let s := src.2.onRecord d.plot d.record (fun r => r.foldVals rows.flatten)
  let s := s.sramWrites d (out.zipIdx.map (fun x => (o.dst + dp * x.2, tagged (anyTaint src.1 || d.recPoison) x.1.1)))
  s.passSat d (out.any (·.2))

/-- FORMAT_CONVERSION. -/
def execFormatConversion (x : At) (h : DHead) (o : ConvOps) (s : State) : Out :=
  s.runDesc x h (.conv o) (State.convert o)

/-! ### Digest -/

/-- The digest of the elements (R280); 2^61 − 1 when any was poisoned (R307). -/
def digestOf (o : DigestOps) (bs : List TByte) : Nat :=
  if anyTaint bs then Config.digestP
  else if o.words then wordDigest (wordsOf 8 (plain bs))
  else elemDigest ((wordsOf 6 (plain bs)).map (signed 48))

/-- The effect of a digest descriptor. -/
def State.digest (o : DigestOps) (d : Dc) (s : State) : State :=
  let r := s.sramRead d o.src ((if o.words then 8 else 6) * o.n)
  r.2.sramWrite d o.dst (tagged (anyTaint r.1) (leBytes 8 (digestOf o r.1)))

/-- DIGEST. -/
def execDigestDescriptor (x : At) (h : DHead) (o : DigestOps) (s : State) : Out :=
  s.runDesc x h (.digest o) (State.digest o)

end Sys2Proof.Machine
end

