-- ==== Sys2Proof/Machine/Slots.lean ====
section
/-! DEFINITION. The slot grid (R209, R222), which slot-map entries rule a slot (R223, R231, R232, R465), cells
(R218, Table 10.11), and the Linby groups that carry them (R211 to R213). -/
namespace Sys2Proof.Machine

/-! ### Slots of a tick -/

/-- Slots per tick of a port (R209). -/
def Port.slots (p : Port) : Nat := 60 * p.lanes

/-- The cycle of the tick at which a slot departs (R222). -/
def Port.departs (p : Port) (slot : Nat) : Nat := slot * 1024 / max p.slots 1

/-- The cycle of the current tick: of fabric time while VALID, else of the chip's own time base. -/
def State.slotCycle (s : State) : Nat := if s.time.valid then s.time.cycle else s.time.cyc % 1024

/-! ### Steering and slice membership -/

/-- The mark of a physical plane. -/
def State.mark (s : State) (d : Nat) : Nat := nth s.place.map d 0xFD

/-- The installation's planes. -/
def State.planes (s : State) : Nat := match s.place.coord with
  | some c => nth c.ext 3 1
  | none => 1

/-- The physical plane that a D or culvert port reaches (R207). -/
def State.planeAt (s : State) (p : Nat) : Nat :=
  let d := s.plane.getD 0
  let n := max s.planes 1
  if p == 6 then (d + 1) % n else if p == 7 then (d + n - 1) % n
  else if p == 8 then (d + 2) % n else (d + 2 * n - 2) % n

/-- Whether a plane is bypassed: spare or skipped. -/
def bypassed (m : Nat) : Bool := m == 0xFE || m == 0xFF

/-- The physical port that carries logical D+ (R231). -/
def State.dPlus (s : State) : Nat := if bypassed (s.mark (s.planeAt 6)) then 8 else 6
/-- The physical port that carries logical D−. -/
def State.dMinus (s : State) : Nat := if bypassed (s.mark (s.planeAt 7)) then 9 else 7

/-- The image port whose entries rule a physical port (R231). -/
def State.imgPort (s : State) (p : Nat) : Nat :=
  if p < 6 then p
  else if p % 2 == 0 then (if s.isSpare then 8 else if s.dPlus == p then 6 else 8)
  else (if s.isSpare then 9 else if s.dMinus == p then 7 else 9)

/-- The physical port of an image port on an active chip. -/
def State.physPort (s : State) (ip : Nat) : Nat :=
  if ip < 6 then ip
  else if ip == 6 then s.dPlus
  else if ip == 7 then s.dMinus
  else if ip == 8 then (if s.dPlus == 6 then 8 else 6)
  else (if s.dMinus == 7 then 9 else 7)

/-- Whether the loaded image uses an image port (Table 3.5). -/
def State.imageUses (s : State) (ip : Nat) : Bool := match s.train.image with
  | some i => (nth i.ports ip ⟨false, 0, 0⟩).used
  | none => false

/-- Whether a port belongs to the slice: a D or culvert port by the plane map in force alone (R232), any other when the loaded
image uses it (DESIGN CHOICE, log 81). -/
def State.belongs (s : State) (p : Nat) : Bool :=
  let live := fun (m : Nat) => m != 0xFF && m != 0xFD
  if p < 6 then s.imageUses p else s.plane.isSome && live s.planeMark && live (s.mark (s.planeAt p))

/-- IN_SLICE of every port set anew (R232); a port that joins starts its digests afresh (R37). -/
def State.refreshSlice (s : State) : State :=
  (List.range 10).foldl (fun s p =>
    let b := s.belongs p
    let t := s.onPort p (fun q => { q with inSlice := b })
    if b && !(s.port p).inSlice then t.onCheck p (fun k => { k with digTx := 0, digRx := 0 }) else t) s

/-- The background plane is enabled (R238). -/
def State.planeOn (s : State) : Bool :=
  s.time.valid && s.chip.profile == 0 && [PlotState.loaded, .armed, .running, .draining, .parked].contains s.plot0.st

/-! ### Entries in force -/

/-- The run that an absolute tick belongs to, with its variant: the one in progress, or the one that has ended last, whose
cells are still released after its boundary (R222). -/
def State.runAt (s : State) (tick : Nat) : Option PastRun :=
  match s.train.run.filter (fun r => decide (r.base ≤ tick)) with
  | some r => some ⟨r, s.train.variant⟩
  | none => s.train.past.filter (fun x => decide (x.run.base ≤ tick) && decide (tick < x.run.base + x.run.period))

/-- The phase of a run that holds an absolute tick. -/
def State.phaseAt (s : State) (tick : Nat) : Option (Nat × PhaseEntry) :=
  match s.runAt tick, s.train.image with
  | some x, some i => ((i.phases x.variant x.run.armedForm).zipIdx.find? (fun y => decide (y.1.start ≤ tick - x.run.base)
        && decide (tick - x.run.base < y.1.start + y.1.length))).map (fun y => (y.2, y.1))
  | _, _ => none

/-- Whether an entry is the beacon of its phase (R52). -/
def SlotEntry.isBeacon (e : SlotEntry) (ph : PhaseEntry) : Bool := e.kind == 3 && e.tick == 0 && e.slot == ph.beacon

/-- The entries of the slot maps in force for a slot of a port at an absolute tick (R223, R465). -/
def State.entriesAt (s : State) (p tick slot : Nat) : List SlotEntry :=
  match s.train.image, s.runAt tick, s.phaseAt tick with
  | some i, some ⟨r, v⟩, some (k, ph) =>
    if !(s.port p).inSlice || (ph.kind == 3 && r.idle) then []
    else
      let ip := s.imgPort p
      match i.schedFor v r.armedForm ph.kind with
      | none => []
      | some c =>
        (c.slotMap ip).filter (fun e => e.phase == k && e.slot == slot && e.tick == tick - r.base - ph.start
          && (!s.isSpare || e.isBeacon ph || (e.kind == 4 && 8 ≤ ip && ph.kind == 2)
            || (s.replay?.isSome && ph.kind ≤ 1 && p < 6)))
  | _, _, _ => []

/-- The entry that reserves a slot for egress. -/
def State.egressEntry (s : State) (p tick slot : Nat) : Option SlotEntry :=
  (s.entriesAt p tick slot).find? (fun e => e.kind == 0 || e.kind == 3 || e.kind == 4)

/-- The entry that reserves a slot for ingress. -/
def State.ingressEntry (s : State) (p tick slot : Nat) : Option SlotEntry :=
  (s.entriesAt p tick slot).find? (fun e => e.kind == 1 || e.kind == 2 || e.kind == 3 || e.kind == 4)

/-! ### Cells -/

/-- Bytes 0 to 251 with their check (R218). -/
def withCheck (b : List Byte) : List Byte := b ++ leBytes 4 (crc32c b).toNat

/-- Whether a cell of 256 bytes carries the right check. -/
def cellCheckOk (c : List Byte) : Bool :=
  c.length == 256 && fieldAt c 252 4 == (crc32c (slice c 0 252)).toNat

/-- A cell's kind. -/
def cellKind (c : List Byte) : Nat := fieldAt c 0 1 % 4

/-- The idle cell (R218). -/
def idleCell : List Byte := withCheck (leBytes 1 2 ++ zeros 251)

/-- A scheduled cell (Table 10.11): flags 4 VOID and 8 POISON. -/
def schedCell (flags phase tag index epoch tick : Nat) (payload : List Byte) (seq : W32) : List Byte :=
  withCheck (leBytes 1 flags ++ leBytes 1 phase ++ leBytes 2 tag ++ leBytes 2 index ++ leBytes 1 epoch
    ++ leBytes 1 tick ++ slice payload 0 240 ++ leBytes 4 seq.toNat)

/-! ### Linby groups -/

/-- Bits of a byte string, bit 0 of byte 0 first. -/
def bitsOf (bs : List Byte) : List Bool := (bs.map (fun b => (List.range 8).map (fun i => b.getLsbD i))).flatten

/-- Bytes of a bit string, eight bits a byte. -/
def bytesOf (l : List Bool) : List Byte :=
  (chunks 8 l).map (fun c => BitVec.ofNat 8 (c.zipIdx.foldl (fun a x => a + b2n x.1 * 2 ^ x.2) 0))

/-- The marker (Table 10.2). -/
def groupMarker : Nat := 0x5A3C96E10F78B4D2

/-- Group bits 64 to 111 as six bytes: port, lane, group index, tick. -/
def groupInfo (port lane g tick : Nat) : List Byte := leBytes 6 (port % 16 + lane % 16 * 16 + g % 8 * 256 + tick % 2 ^ 20 * 65536)

/-- One bit through the scrambler of x^58 + x^39 + 1 (R213): the register holds the last 58 bits sent, the newest
at place 0. -/
def scrambleBit (x : List Bool × BitVec 58) (b : Bool) : List Bool × BitVec 58 :=
  let y := (b != x.2.getLsbD 38) != x.2.getLsbD 57
  (y :: x.1, (x.2 <<< 1) ||| (if y then 1 else 0))

/-- One received bit through the descrambler. -/
def descrambleBit (x : List Bool × BitVec 58) (y : Bool) : List Bool × BitVec 58 :=
  ((((y != x.2.getLsbD 38) != x.2.getLsbD 57)) :: x.1, (x.2 <<< 1) ||| (if y then 1 else 0))

/-- A list of bits as a group. -/
def packGroup (l : List Bool) : BitVec 25700 := BitVec.ofNat 25700 (l.foldr (fun b a => 2 * a + b2n b) 0)

/-- The 192 units of a lane's group, missing ones zero. -/
def laneUnits (units : List (Nat × Nat × List Byte)) (lane g : Nat) : List Byte :=
  ((List.range 192).map (fun m => match units.find? (fun u => u.1 == lane && u.2.1 == 192 * g + m) with
    | some u => slice u.2.2 0 16
    | none => zeros 16)).flatten

/-- One lane's group, scrambled, and the scrambler's register after it (R211, R213). -/
def buildGroup (port lane g tick : Nat) (units : List (Nat × Nat × List Byte)) (reg : BitVec 58) :
    BitVec 25700 × BitVec 58 :=
  let info := groupInfo port lane g tick
  let body := bitsOf (info ++ leBytes 2 (crc16 info).toNat ++ laneUnits units lane g) ++ List.replicate 996 false
  let r := body.foldl scrambleBit ([], reg)
  (packGroup (bitsOf (leBytes 8 groupMarker) ++ r.1.reverse), r.2)

/-- Low 20 bits of the fabric tick, all ones while VALID is clear. -/
def State.groupTick (s : State) : Nat := if s.time.valid then s.time.tick % 2 ^ 20 else 2 ^ 20 - 1

/-- The groups of all lanes of a port sent. -/
def State.sendGroups (s : State) (p g : Nat) : State :=
  (List.range (s.port p).lanes).foldl (fun s lane =>
    let k := s.check p
    let b := buildGroup p lane g s.groupTick k.units (nth k.scr lane 0)
    (s.onCheck p (fun k => { k with scr := k.scr.set lane b.2 })).emit (.group p lane b.1)) s
    |>.onCheck p (fun k => { k with units := k.units.filter (fun u => decide (192 * (g + 1) ≤ u.2.1)) })

/-- The units of a cell in slot `slot` on `n` lanes (R212): lane, unit position, 16 bytes. -/
def cellUnits (n slot : Nat) (cell : List Byte) : List (Nat × Nat × List Byte) :=
  (List.range 16).map (fun u => ((16 * slot + u) % max n 1, (16 * slot + u) / max n 1, slice cell (16 * u) 16))

/-- A slot passes: its cell, if any, leaves, and the last slot of a group sends the group of every lane. On a port whose
lanes are electrically idle the cell is dropped (Table 10.3, R234). -/
def State.passSlot (s : State) (p slot : Nat) (cell : Option (List Byte)) : State :=
  let n := (s.port p).lanes
  if !((s.port p).st == 1 || (s.port p).st == 2) then s
  else
  let s := match cell with
    | some c => (s.onCheck p (fun k => { k with units := k.units ++ cellUnits n slot c })).emit (.cell p slot c)
    | none => s
  if (slot + 1) % max (12 * n) 1 == 0 then s.sendGroups p (slot / max (12 * n) 1) else s

/-- A scheduled cell sent: the port sequence counts it, and the running digest takes its payload unless it is a
beacon (R37, R221). -/
def State.sendScheduled (s : State) (p slot flags phase tag index : Nat) (payload : List Byte) (beacon : Bool) : State :=
  let seq := (s.port p).seqTx + 1
  let c := schedCell flags phase tag index s.place.epoch s.time.tick payload seq
  let t := s.onPort p (fun q => { q with seqTx := seq })
  let t := t.onCheck p (fun k => { k with
    digTx := if beacon then 0 else digAdd k.digTx (payloadDigest (slice payload 0 240)) })
  t.passSlot p slot (some c)

end Sys2Proof.Machine
end

