-- ==== Sys2Proof/Machine/Vote.lean ====
section
/-! DEFINITION. The headgate vote (R292 to R295, R464): the chip's own word, its stages along the axes, what a vote
cell does, and the decision. -/
namespace Sys2Proof.Machine

/-- The word that changes nothing when combined (R293). -/
def VoteWord.neutral : VoteWord := ⟨true, false, 0xFFFF, 0, 0, 0xFFFF, 0, 0, 0⟩

/-- The word that stands for a missing chain input (R293). -/
def VoteWord.missing : VoteWord := { VoteWord.neutral with pass := false }

/-- Two words combined (Table 12.9). -/
def VoteWord.combine (a b : VoteWord) : VoteWord :=
  ⟨a.pass && b.pass, a.sat || b.sat, a.pAnd &&& b.pAnd, a.pOr ||| b.pOr, a.suspect ||| b.suspect, min a.vMin b.vMin,
    max a.vMax b.vMax, (a.counted + b.counted) % 65536, (a.failing + b.failing) % 65536⟩

/-- Bytes 0 to 15 of a vote cell's payload (Table 12.9). -/
def VoteWord.bytes (w : VoteWord) (stage : Nat) : List Byte :=
  leBytes 1 (b2n w.pass + 2 * b2n w.sat) ++ leBytes 1 stage ++ leBytes 2 w.pAnd ++ leBytes 2 w.pOr ++ leBytes 2 w.suspect
    ++ leBytes 2 w.vMin ++ leBytes 2 w.vMax ++ leBytes 2 w.counted ++ leBytes 2 w.failing

/-- The word in a payload. -/
def voteOf (b : List Byte) : VoteWord :=
  ⟨bit (fieldAt b 0 1) 0, bit (fieldAt b 0 1) 1, fieldAt b 2 2, fieldAt b 4 2, fieldAt b 6 2, fieldAt b 8 2,
    fieldAt b 10 2, fieldAt b 12 2, fieldAt b 14 2⟩

/-- A vote cell's payload. -/
def State.votePayload (s : State) (w : VoteWord) (axis : Nat) (bcast : Bool) : List Byte :=
  w.bytes (axis + 128 * b2n bcast) ++ leBytes 8 s.stepNow ++ leBytes 1 s.place.epoch ++ zeros 215

/-! ### Axes -/

/-- The slice's extent along an axis: T, E, P, and the active replicas along D. -/
def State.extent (s : State) (a : Nat) : Nat := match s.train.image with
  | some i => if a == 3 then s.replicas else nth i.shape a 1
  | none => 1

/-- This chip's index along an axis. -/
def State.axisIndex (s : State) (a : Nat) : Nat := match s.train.image with
  | some i => if a == 3 then s.replica.getD 0 else nth i.member a 0
  | none => 0

/-- Whether an axis is a ring (R243, R267). -/
def State.isRing (s : State) (a : Nat) : Bool := match s.train.image, s.place.coord with
  | some i, some c => (if a == 3 then nth i.shape 3 1 + i.spare else nth i.shape a 1) == nth c.ext a 0
  | _, _ => false

/-- The physical port in the + (true) or − direction of an axis. -/
def State.axisPort (s : State) (a : Nat) (plus : Bool) : Nat := s.physPort (2 * a + b2n (!plus))

/-- The axes that the vote visits after an axis number, in order. -/
def State.axesFrom (s : State) (a : Nat) : List Nat :=
  [0, 1, 2, 3].filter (fun x => decide (a ≤ x) && decide (1 < s.extent x))

/-- Hops that a broadcast makes in the + direction from the last index: ⌈(n − 1)/2⌉ on a ring, none on a line. -/
def plusHops (ring : Bool) (n : Nat) : Nat := if ring then n / 2 else 0
/-- And in the − direction: ⌊(n − 1)/2⌋ on a ring, all on a line. -/
def minusHops (ring : Bool) (n : Nat) : Nat := if ring then (n - 1) / 2 else n - 1

/-! ### The own word -/

/-- The replicas this chip marks suspect: its own, while it is suspect or has marked it (R284, R312). -/
def State.suspectMask (s : State) : Nat := match s.train.run, s.replica with
  | some r, some d => if r.suspectMark || s.flash.suspect then 2 ^ d else 0
  | _, _ => 0

/-- The chip's own vote word as it would form it now (R292). -/
def State.formWord (s : State) : VoteWord := match s.train.run with
  | some r => ⟨r.failed == 0, r.sat, r.pAnd, r.pOr, s.suspectMask, r.vMin, r.vMax, 1, b2n (r.failed != 0)⟩
  | none => VoteWord.missing

/-- A run that keeps its chip's own word: what it holds and what is on its way take the word in where they lack it. -/
def Run.formed (r : Run) (w : VoteWord) : Run :=
  { r with
    own := some w
    held := if r.heldBare then r.held.combine w else r.held
    heldBare := false
    due := r.due.map (fun x => (if x.2.2 then x.1.combine w else x.1, x.2.1, false)) }

/-- The chip's own word, formed now unless it has been, and the state with it kept. -/
def State.ownWord (s : State) : VoteWord × State := match s.train.run with
  | some r => match r.own with
    | some w => (w, s)
    | none => (s.formWord, s.onRun (fun r => r.formed s.formWord))
  | none => (VoteWord.missing, s)

/-! ### The decision -/

/-- A word lost in a broadcast (R293): this chip will hold no valid final word, and it enters the later stages with its own
word, PASS cleared. -/
def State.voteLost (s : State) : State := s.onRun (fun r => { r with lost := true })

/-- VOTE_LOST: the vote phase ends without a valid final word, and this side parks at the boundary (R295). -/
def State.noFinalWord (s : State) : State :=
  (s.onTrain (fun t => { t with mustPark := true })).notice 0x16 ⟨7, 0, 0, 0xFFFFFFFF, 0, none⟩ (if s.outing then 4 else 9) 0

/-- Whether a final word lets the step commit (R294). -/
def State.votePasses (s : State) (w : VoteWord) : Bool :=
  w.pass && w.counted == s.extent 0 * s.extent 1 * s.extent 2 * s.extent 3 && w.failing == 0
    && (w.pAnd == w.pOr || (w.pAnd == 0xFFFF && w.pOr == 0)) && (w.vMin == w.vMax || (w.vMin == 0xFFFF && w.vMax == 0))

/-- V for the update (R191, R294). -/
def VoteWord.v (w : VoteWord) : Nat := if w.vMin == 0xFFFF && w.vMax == 0 then 0 else w.vMax

/-- The absent record of the repeat: the complement of present-AND among the active replicas (R286). -/
def State.absentNext (s : State) (w : VoteWord) : Nat := (0xFFFF ^^^ w.pAnd) &&& (2 ^ s.replicas - 1)

/-- Eight runs of the step have failed (R309). -/
def State.atLimit (s : State) : Bool := decide (8 ≤ s.train.failedRuns)

/-- RUN_LIMIT (R309): raised at the end of the vote phase; the plot parks at the boundary. -/
def State.runLimit (s : State) : State := (s.onTrain (fun t => { t with mustPark := true })).notice 0x1A Site.none 5 0

/-- The failed run counted, and what its repeat takes over (R286, R294, R309). -/
def State.voteFailed (s : State) (w : Option VoteWord) : State :=
  let s := s.onTrain (fun t => { t with
    failedRuns := t.failedRuns + 1
    nextAbsent := match w with
      | some w => s.absentNext w
      | none => t.nextAbsent
    nextRaised := t.nextRaised || (match w with
      | some w => w.sat
      | none => false) })
  s.settle s.atLimit

/-- The final word written and the vote decided (R294): VOTE or VOTE_FAIL, and what a failed run leaves. Once only. -/
def State.voteDecide (s : State) (w : VoteWord) : State :=
  match s.train.run with
  | none => s
  | some r =>
    if r.passed.isSome then s
    else
      let ok := s.votePasses w
      let s := s.event (if ok then 0x26 else 0x27) 4 0 (w.bytes 0 ++ leBytes 1 r.idx)
      let s := s.onRun (fun r => { r with
        final := some w, passed := some ok, due := none, faults := r.faults.map (fun f => { f with suspect := w.suspect }) })
      if ok then s.settle false else s.voteFailed (some w)

/-! ### Stages -/

/-- A vote word made to wait for its entry on a port. -/
def State.pushVote (s : State) (p : Nat) (d : VoteDue) : State := s.onPort p (fun q => { q with votes := q.votes ++ [d] })

/-- The final word written once its cycle has come, when nothing of it is missing (R293). -/
def State.writeDue (s : State) : State := match s.train.run.bind (·.due) with
  | some (w, at_, bare) => if !bare && decide (at_ ≤ s.fabricCycle) then s.voteDecide w else s
  | none => s

/-- The chip enters the axes left after a stage, with the word it holds; `rel` is the fabric cycle of the release
that gave it, and `bare` says that the chip's own word, not formed yet, is still to be combined into it. With no axis left
the word is final, and is written 12 cycles after the release (R293). -/
def State.enterAxes (s : State) (after : Nat) (w : VoteWord) (rel : Nat) (bare : Bool) : State :=
  let s := s.onRun (fun r => { r with held := w, heldBare := bare })
  match s.axesFrom (after + 1) with
  | a :: _ => if s.axisIndex a == 0 then s.pushVote (s.axisPort a true) ⟨a, false, rel + 26, w, bare⟩ else s
  | [] => s.onRun (fun r => if r.lost || r.passed.isSome then r else { r with due := some (w, rel + 12, bare) })

/-- The last chip of a chain broadcasts. -/
def State.pushBroadcast (s : State) (a rel : Nat) (w : VoteWord) (own : Bool) : State :=
  let n := s.extent a
  let s := if 0 < plusHops (s.isRing a) n then s.pushVote (s.axisPort a true) ⟨a, true, rel + 26, w, own⟩ else s
  if 0 < minusHops (s.isRing a) n then s.pushVote (s.axisPort a false) ⟨a, true, rel + 26, w, own⟩ else s

/-- At the start of the vote phase: the chip at index 0 of the first axis has the first word to send (R293). -/
def State.beginVote (s : State) : State :=
  if s.isSpare then s
  else match s.axesFrom 0 with
    | a :: _ => if s.axisIndex a == 0 then s.pushVote (s.axisPort a true) ⟨a, false, 0, VoteWord.neutral, true⟩ else s
    | [] => s

/-- Whether an axis is the first the vote visits. -/
def State.firstAxis (s : State) (a : Nat) : Bool := s.axesFrom 0 == a :: s.axesFrom (a + 1)

/-- A chain input taken on an axis. -/
def State.voteChain (s : State) (a rel : Nat) (w : VoteWord) : State :=
  let n := s.extent a
  let i := s.axisIndex a
  let first := s.firstAxis a
  let held := match s.train.run with
    | some r => (r.held, r.heldBare)
    | none => (VoteWord.neutral, false)
  let word := if first then w else w.combine held.1
  let bare := if first then !s.voted else held.2
  let word := if first then (match s.train.run.bind (·.own) with
    | some o => word.combine o
    | none => word) else word
  let s := s.onRun (fun r => { r with chained := a :: r.chained })
  if i + 1 < n then s.pushVote (s.axisPort a true) ⟨a, false, rel + 26, word, bare⟩
  else (s.pushBroadcast a rel word bare).enterAxes a word rel bare

/-- A broadcast taken on an axis from the port in the − (`fromMinus`) or + direction. -/
def State.voteBroadcast (s : State) (a rel : Nat) (fromMinus : Bool) (w : Option VoteWord) : State :=
  let n := s.extent a
  let i := s.axisIndex a
  let ring := s.isRing a
  match w with
  | none =>
    let o := s.voteLost.ownWord
    o.2.enterAxes a { o.1 with pass := false } rel false
  | some w =>
    let s :=
      if fromMinus then
        (if i + 1 < plusHops ring n then s.pushVote (s.axisPort a true) ⟨a, true, rel + 14, w, false⟩ else s)
      else if n - 1 - i < minusHops ring n then s.pushVote (s.axisPort a false) ⟨a, true, rel + 14, w, false⟩ else s
    s.enterAxes a w rel false

/-- The word of a cell's payload when its step and route epoch are the receiver's (Table 12.9). -/
def State.voteWordOf (s : State) (payload : List Byte) : Option VoteWord :=
  if fieldAt payload 16 8 == s.stepNow && fieldAt payload 24 1 == s.place.epoch then some (voteOf payload) else none

/-- What a vote slot released at fabric cycle `rel` on a port delivers: a payload, or none for a cell that is
missing, failed its checks, or is void; `due` says that the schedule has a word due in it, `split` that the two copies of
the vote unit disagree on it: its PASS is clear then (R299). -/
def State.voteArrive (s : State) (p rel : Nat) (payload : Option (List Byte)) (due split : Bool) : State :=
  let ip := s.imgPort p
  if 8 ≤ ip then
    if s.isSpare then
      match payload with
      | some b =>
        let w := voteOf b
        s.onRun (fun r => if r.due.isSome || r.passed.isSome then r
          else { r with due := some ({ w with pass := w.pass && !split }, rel + 12, false) })
      | none => s
    else s
  else if !due then s
  else
    let a := ip / 2
    let w := (payload.bind s.voteWordOf).map (fun w => { w with pass := w.pass && !split })
    let chained := match s.train.run with
      | some r => r.chained.contains a
      | none => true
    if ip % 2 == 1 && s.axisIndex a != 0 && !chained then s.voteChain a rel (w.getD VoteWord.missing)
    else s.voteBroadcast a rel (ip % 2 == 1) w

/-- The two copies of the vote unit disagree (R299): PASS is clear in whatever the chip sends and keeps. -/
def State.voteUnitFault (s : State) : State :=
  let s := s.failCheck 0x0D ⟨7, 0, 0, 0xFFFFFFFF, 0, none⟩ false
  let s := s.onRun (fun r => { r with
    held := { r.held with pass := false }, due := r.due.map (fun x => ({ x.1 with pass := false }, x.2)) })
  s.onPorts (fun q => { q with votes := q.votes.map (fun d => { d with word := { d.word with pass := false } }) })

/-- The vote word that leaves in a kind-4 entry now, if any, with the state after taking it (R292, R293, R464). -/
def State.voteDepart (s : State) (p now : Nat) : Option (List Byte) × State :=
  if 8 ≤ s.imgPort p then
    if s.isSpare || !s.place.map.contains 0xFE then (none, s)
    else
      let f := match s.train.run with
        | some r => r.final
        | none => none
      match f with
      | some w => (some (s.votePayload w 3 true), s)
      | none =>
        let o := s.ownWord
        (some (o.2.votePayload { o.1 with pass := false } 3 true), o.2)
  else match (s.port p).votes.find? (fun d => decide (d.notBefore ≤ now)) with
    | none => (none, s)
    | some d =>
      let o := (s.onPort p (fun q => { q with votes := q.votes.erase d })).ownWord
      let w := if d.addOwn then d.word.combine o.1 else d.word
      (some (o.2.votePayload w d.axis d.bcast), o.2.writeDue)

/-! ### The end of the vote phase -/

/-- What the end of the vote phase decides when nothing has: a slice of one chip forms its word and decides; any other chip
has no valid final word, and the step has failed on its side (R292, R295). -/
def State.endVote (s : State) : State :=
  if (s.axesFrom 0).isEmpty && !s.isSpare then
    let o := s.ownWord
    o.2.voteDecide o.1
  else (s.noFinalWord.onRun (fun r => { r with passed := some false })).voteFailed none

/-- The end of the vote phase, once: a run not decided is decided, and the eighth failed run raises RUN_LIMIT. -/
def State.overVote (s : State) (r : Run) : State :=
  let s := s.onRun (fun r => { r with phaseOver := true, due := none })
  let s := if r.passed.isNone then s.endVote else s
  if s.atLimit then s.runLimit else s

/-- VOTE_PHASE_END: at the last cycle of the vote phase (R292, R295, R309). Before it, nothing. -/
def execVotePhaseEnd (s : State) : Out :=
  match s.train.run with
  | none => .next s
  | some r =>
    match s.phases[r.phase]? with
    | none => .next s
    | some ph =>
      if ph.kind == 2 && 0 < r.begun && !r.phaseOver
          && decide (r.phaseStart ph + ph.length * 1024 ≤ s.fabricCycle + 1) then .next (s.overVote r)
      else .next s

end Sys2Proof.Machine
end

