-- ==== Sys2Proof/Machine/Update.lean ====
section
/-! DEFINITION. The update phase's descriptors: the four update rules with their working copies and pair words (R190 to
R196, R278), PAIR_CHECK and the third computation (R197 to R201, R307), and the scale-record update (R119). -/
namespace Sys2Proof.Machine

/-! ### Inputs -/

/-- The parameter block (Table 9.4), field by field. -/
structure Params where
  lr : W32
  b1 : W32
  a1 : W32
  b2 : W32
  a2 : W32
  eps : W32
  c1 : W32
  c2 : W32
  lam : W32
  k : W32
  sc : W32
  deriving DecidableEq, Repr

/-- The parameter block of 64 bytes. -/
def paramsOf (b : List Byte) : Params :=
  let f := fun (i : Nat) => BitVec.ofNat 32 (fieldAt b (4 * i) 4)
  ⟨f 0, f 1, f 2, f 3, f 4, f 5, f 6, f 7, f 8, f 9, f 10⟩

/-- 1/V rounded once by RNE (R191), for V from 1 to 65,535. -/
def recipV (v : Nat) : W32 :=
  enc32 (.fin false (2 * (2 ^ 60 / v) + b2n (2 ^ 60 % v != 0)) (-61))

/-- v × 2^(X − 42) as FP32 (R278). -/
def wideToFp32 (v x : Int) : W32 := enc32 (.fin (decide (v < 0)) v.natAbs (x - 42))

/-- The exponent of element i of a reduced shard, from the headers behind its lead; `free` where no header of the lead's
count covers the element (log 21). -/
def shardExp (g : List Byte) (n i : Nat) (free : Int) : Int :=
  let j := (fieldAt g (6 * n) 2 + i) / 4096
  if j < fieldAt g (6 * n + 2) 2 && j < ceilDiv n 4096 + 1 then signed 10 (fieldAt g (6 * n + 8 + 24 * j + 4) 2)
  else free

/-- The averaged gradient of element i (R191). -/
def gradient (g : List Byte) (n i v : Nat) (free : Int) : W32 :=
  if v == 0 then 0
  else fmul (wideToFp32 (signed 48 (fieldAt g (6 * i) 6)) (shardExp g n i free)) (recipV v)

/-! ### The rules (R193) -/

/-- New weight and moments of one element. -/
def updateRule (u : W32) (fn : Nat) (p : Params) (w m v g row col : W32) : W32 × W32 × W32 :=
  let adam := fun (g : W32) =>
    let m := ffma p.b1 m (fmul p.a1 g)
    let v := ffma p.b2 v (fmul p.a2 (fmul g g))
    let den := fadd (fsqrt u (fmul v p.c2)) p.eps
    (m, v, fdiv u (fmul m p.c1) den)
  match fn with
  | 0xC0 =>
    let g := ffma p.lam w g
    let m := ffma p.b1 m g
    (ffma (fneg p.lr) m w, m, 0)
  | 0xC1 =>
    let r := adam (ffma p.lam w g)
    (ffma (fneg p.lr) r.2.2 w, r.1, r.2.1)
  | 0xC2 =>
    let r := adam g
    (ffma (fneg p.lr) r.2.2 (fmul w p.k), r.1, r.2.1)
  | _ =>
    let vh := fmul (fmul row col) p.sc
    let x := fmul g (frsqrt u (fadd vh p.eps))
    let m := ffma p.b1 m (fmul p.a1 x)
    (ffma (fneg p.lr) m (fmul w p.k), m, 0)

/-! ### Working copies (R195) -/

/-- A block of new weights converted; NaN or an infinity poisons it. -/
def copyBlock (fmt : Nat) (stoch : Bool) (rs : List Nat) (ws : List W32) : List Nat × Nat :=
  let vs := ws.map dec32
  if vs.any (fun v => match v with
    | .fin _ _ _ => false
    | _ => true) then (ws.map (fun _ => 0), 0xFF)
  else convertBlock fmt stoch false rs vs

/-- The blocks of a working copy of `rows` rows of `len` elements: `at_ r p` is the index of element p of row r in the
chunk, `gr r` and `gp p` its global row and position. -/
def copyBlocks (key : GenKey) (o : UpdOps) (w : List W32) (rows len : Nat) (at_ : Nat → Nat → Nat) (gr gp : Nat → Nat) :
    List (List (List Nat × Nat)) :=
  let b := blockOf o.block16
  (List.range rows).map (fun r => (List.range (len / b)).map (fun k =>
    let ps := (List.range b).map (fun j => b * k + j)
    copyBlock o.fmt o.stoch (ps.map (fun p => gen key 2 0 (gr r) (gp p) 0)) (ps.map (fun p => nth w (at_ r p) 0))))

/-- The bytes of a working copy, rows at the pitch of R105. -/
def copyBytes (o : UpdOps) (len : Nat) (bs : List (List (List Nat × Nat))) : List Byte :=
  let b := blockOf o.block16
  (bs.map (fun row => slice (row.map (blockBytes o.fmt b)).flatten 0 (blockPitch o.fmt b (len / b)))).flatten

/-- 256 × scale byte + element byte of an element of a copy. -/
def copyPair (o : UpdOps) (bs : List (List (List Nat × Nat))) (r p : Nat) : Nat :=
  let b := blockOf o.block16
  let x := nth (nth bs r []) (p / b) ([], 0)
  256 * x.2 + nth x.1 (p % b) 0

/-- Pair word of R196. -/
def pairWord (w m v : W32) (x : Nat) : Nat :=
  w.toNat + 2 ^ 32 * (m ^^^ (v.rotateLeft 16) ^^^ BitVec.ofNat 32 x).toNat

/-- The output area of an update (R190, R195, R196). -/
def updateOutput (key : GenKey) (u : W32) (o : UpdOps) (p : Params) (v : Nat) (free : Int) (area facs : List Byte) :
    List Byte × List W32 :=
  let n := o.n
  let arr := updArrays o.fn
  let f := fun (a i : Nat) => BitVec.ofNat 32 (fieldAt area (4 * (n * a + i)) 4)
  let fac := fun (i : Nat) => BitVec.ofNat 32 (fieldAt facs (4 * i) 4)
  let rows := n / max o.c 1
  let g := area.drop (4 * arr * n)
  let new := (List.range n).map (fun i =>
    updateRule u o.fn p (f 0 i) (f 1 i) (if arr == 3 then f 2 i else 0) (gradient g n i v free) (fac (i / max o.c 1))
      (fac (rows + i % max o.c 1)))
  let w := new.map (·.1)
  let a := if o.emit then copyBlocks key o w rows o.c (fun r c => r * o.c + c) (fun r => o.rowBase + r) id else []
  let t := if o.emitT then copyBlocks key o w o.c rows (fun j r => r * o.c + j) id (fun r => o.rowBase + r) else []
  let pw := (new.zipIdx.map (fun x =>
    let r := x.2 / max o.c 1
    let c := x.2 % max o.c 1
    let xi := (if o.emit then copyPair o a r c else 0) ^^^ ((if o.emitT then copyPair o t c r else 0) * 65536)
    leBytes 8 (pairWord x.1.1 x.1.2.1 x.1.2.2 xi))).flatten
  (bytes32 w ++ bytes32 (new.map (·.2.1)) ++ (if arr == 3 then bytes32 (new.map (·.2.2)) else [])
    ++ (if o.emit then copyBytes o o.c a else []) ++ (if o.emitT then copyBytes o rows t else []) ++ pw, w)

/-- The valid micro-batches that the vote of the step delivered (R191, R294). -/
def State.validCount (s : State) : Nat := match s.train.run with
  | some r => match r.final with
    | some w => w.v
    | none => 0
  | none => 0

/-- The tile's descriptor list in the phase. -/
def State.listOf (s : State) (tile : Nat) : List (List Byte) := match s.schedNow with
  | some c => c.list tile
  | none => []

/-- Whether an update descriptor runs its rule: a third only when its chunk is held (R200). -/
def State.updRuns (s : State) (d : Dc) (o : UpdOps) : Bool :=
  o.role != 2 || s.train.holds.isHeld (thirdRole (s.listOf d.tile) d.desc o.chunk) o.chunk

/-- The effect of an update descriptor. -/
def State.update (o : UpdOps) (d : Dc) (s : State) : State :=
  let s := if o.role == 2 then s.onTrain (fun t => { t with holds := { t.holds with tiebreak := true } }) else s
  if !s.updRuns d o then s
  else
    let a := s.sramRead d o.inOff (updInBytes o)
    let p := a.2.sramRead d o.parOff 64
    let f := if o.fn == 0xC3 then p.2.sramRead d o.facOff (4 * (o.n / max o.c 1 + o.c)) else ([], p.2)
    let x := f.2.draw
    let r := updateOutput d.key s.chip.ucode o (paramsOf (plain p.1)) s.validCount (signed 10 x.1) (plain a.1) (plain f.1)
    let taint := anyTaint a.1 || anyTaint p.1 || anyTaint f.1
    let s := x.2.sramWrite d o.outOff (tagged taint r.1)
    if o.role == 0 then
      let fold := fun (on : Bool) (q : ScaleRec) => if on then q.foldVals (r.2.map dec32) else q
      s.onRecord d.plot d.record (fun q => fold o.emitT (fold o.emit q))
    else s

/-- UPDATE_DESCRIPTOR. -/
def execUpdateDescriptor (x : At) (h : DHead) (o : UpdOps) (s : State) : Out :=
  s.runDesc x h (.upd o) (State.update o)

/-! ### PAIR_CHECK (R198 to R201) -/

/-- Whether two pair digests agree: 2^61 − 1 equals none (R307). -/
def digestsAgree (a b : Nat) : Bool := a == b && a != Config.digestP

/-- The hold table changed. -/
def State.onHolds (s : State) (f : Holds → Holds) : State := s.onTrain (fun t => { t with holds := f t.holds })

/-- An entry recorded, in place of an earlier one of its chunk. -/
def Holds.put (t : Holds) (e : HoldEntry) : Holds :=
  { t with entries := e :: t.entries.filter (fun x => !(x.role == e.role && x.chunk == e.chunk)) }

/-- The place of a chunk's fault on a tile. -/
def chunkSite (tile chunk desc : Nat) : Site := ⟨1, tile, chunk, desc, 0, none⟩

/-- The fabric cycle at which a PAIR_CHECK that starts now ends (Table 3.12, class c = 1). -/
def State.pairEnd (s : State) (o : PairOps) : Nat := s.fabricCycle + 12 + ceilDiv o.rows 64

/-- One digest pair in ordinary mode (R198). -/
def State.pairOne (d : Dc) (o : PairOps) (own other : List Byte) (s : State) (k : Nat) : State :=
  let chunk := o.first + k
  let a := fieldAt own (8 * k) 8
  let b := fieldAt other (8 * k) 8
  let held := !digestsAgree a b
  let s := s.onHolds (fun t => t.put ⟨o.role, chunk, a, b, s.pairEnd o, held, none⟩)
  if held then s.notice 0x11 (chunkSite d.phys chunk d.desc) 3 d.plot else s

/-- The logical tile whose update descriptor of a role computes a chunk in this phase. -/
def State.chunkTile (s : State) (d : Dc) (role chunk : Nat) : Nat := match s.schedNow with
  | none => 0
  | some c => match c.descs.find? (fun x => x.2.any (fun b => match parseOp b with
      | some (.upd o) => o.role == role && o.chunk == chunk && (parseHead b).phase == d.phase
      | _ => false)) with
    | some x => x.1
    | none => 0

/-- A computation of this chip lost (R201). -/
def State.pairLoss (s : State) (d : Dc) (role chunk : Nat) : State :=
  let t := s.chunkTile d role chunk
  let w := chunkSite t chunk d.desc
  let again := s.train.holds.lastLost.contains t
  let s := (s.onHolds (fun h => { h with lost := h.lost ++ [t] })).notice 0x12 w 3 d.plot
  if again then s.declareSuspect w else s

/-- One digest in third mode (R200, R201). -/
def State.pairThird (d : Dc) (o : PairOps) (third : List Byte) (s : State) (k : Nat) : State :=
  let chunk := o.first + k
  let x := fieldAt third (8 * k) 8
  let t := s.train.holds
  if !t.isHeld o.role chunk then s
  else
    let e := (t.entry? o.role chunk).getD ⟨o.role, chunk, Config.digestP, Config.digestP, 0, true, none⟩
    let w := chunkSite d.phys chunk d.desc
    if digestsAgree x e.own || digestsAgree x e.other then
      let s := s.onHolds (fun t => t.put { e with released := some (s.pairEnd o) })
      let s := if !digestsAgree x e.own then s.pairLoss d o.role chunk else s
      if !digestsAgree x e.other && s.modeOf 0 == 2 then s.pairLoss d (1 - o.role) chunk else s
    else (s.notice 0x13 w 4 d.plot).declareSuspect w

/-- The effect of PAIR_CHECK. -/
def State.pairCheck (o : PairOps) (d : Dc) (s : State) : State :=
  let a := s.sramRead d o.src1 (8 * o.rows)
  if o.third then (List.range o.rows).foldl (State.pairThird d o (plain a.1)) a.2
  else
    let b := a.2.sramRead d o.src2 (8 * o.rows)
    (List.range o.rows).foldl (State.pairOne d o (plain a.1) (plain b.1)) b.2

/-- PAIR_CHECK. -/
def execPairCheck (x : At) (h : DHead) (o : PairOps) (s : State) : Out := s.runDesc x h (.pair o) (State.pairCheck o)

/-! ### Scale-record update (R119, R203) -/

/-- The effect of a type 0x10 descriptor: what it writes becomes the committed state when the step commits. -/
def State.scaleUpdate (d : Dc) (s : State) : State := s.onRecord d.plot d.record (fun r => r.write d.key.step)

/-- SCALE_RECORD_UPDATE. -/
def execScaleRecordUpdate (x : At) (h : DHead) (s : State) : Out := s.runDesc x h .scale State.scaleUpdate

end Sys2Proof.Machine
end

