-- ==== Sys2Proof/Machine/TileDma.lean ====
section
/-! DEFINITION. Tile DMA (R155 to R161), gather and scatter (R162 to R166) and the copy-engine descriptor (R167, R170),
with the poison they carry (R305), held ranges (R199) and the carry area (R288). -/
namespace Sys2Proof.Machine

/-! ### The carry area (R288) -/

/-- Whether this chip's replica is carried: absent in the committing run and marked suspect by no chip, under CARRY. -/
def State.isCarried (s : State) : Bool := match s.train.run, s.replica with
  | some r, some d => match r.final with
    | some w => s.train.carry && r.passed == some true && !bit w.pAnd d && !bit w.suspect d
    | none => false
  | _, _ => false

/-- Whether an HBM range touches a carry area of the schedule in force. -/
def State.inCarryArea (s : State) (a n : Nat) : Bool := match s.schedNow with
  | some c => c.colls.any (fun e => e.carry != 0 && overlaps a n e.carry (wideBytes e.size))
  | none => false

/-- Whether a descriptor that moves a range of the tile's SRAM to an HBM range writes nothing (R199, R288). -/
def State.writesNothing (s : State) (d : Dc) (off n a m : Nat) : Bool :=
  s.isHeldRange d off n || (s.chip.profile == 0 && d.update && s.inCarryArea a m && !s.isCarried)

/-! ### Runs -/

/-- The HBM pieces of run `i`: one contiguous piece, or one per element when dimension 0 is not contiguous (R157). -/
def dmaPieces (o : DmaOps) (i : Nat) : List (Nat × Nat) :=
  let idx := unravel (o.ext.drop 1) i
  let base := moveAddr o.hbm (strideOffset idx o.strides)
  if o.s0 == 1 then [(base, nth o.ext 0 1 * o.esize)]
  else (List.range (nth o.ext 0 1)).map (fun (j : Nat) => (moveAddr base ((j : Int) * o.s0 * o.esize), o.esize))

/-- Runs along dimension 0. -/
def dmaRunCount (ext : List Nat) : Nat := (ext.drop 1).foldl (· * ·) 1

/-- Pieces of HBM read one after another. -/
def State.hbmReads (s : State) (d : Dc) (ps : List (Nat × Nat)) : List TByte × State :=
  ps.foldl (fun (x : List TByte × State) p =>
    let r := x.2.hbmReadD d p.1 p.2
    (x.1 ++ r.1, r.2)) ([], s)

/-- Pieces of HBM written one after another from one byte string. -/
def State.hbmWrites (s : State) (d : Dc) (ps : List (Nat × Nat)) (bs : List TByte) : State :=
  (ps.foldl (fun (x : List TByte × State) p => (x.1.drop p.2, x.2.hbmWriteD d p.1 (x.1.take p.2))) (bs, s)).2

/-- The effect of TILE_DMA_IN. -/
def State.dmaIn (o : DmaOps) (d : Dc) (s : State) : State :=
  let run := nth o.ext 0 1 * o.esize
  (List.range (dmaRunCount o.ext)).foldl (fun s i =>
    let r := s.hbmReads d (dmaPieces o i)
    r.2.sramWrite d (runOffset o.sram run o.pad i) r.1) s

/-- TILE_DMA_IN. -/
def execTileDmaIn (x : At) (h : DHead) (o : DmaOps) (s : State) : Out := s.runDesc x h (.dmaIn o) (State.dmaIn o)

/-- The effect of TILE_DMA_OUT. -/
def State.dmaOut (o : DmaOps) (d : Dc) (s : State) : State :=
  let run := nth o.ext 0 1 * o.esize
  let sp := (spanAt o.hbm (strideSpan o.ext (dmaStrides o) o.esize)).getD (0, 0)
  let stop := s.writesNothing d o.sram (denseBytes o.ext o.esize o.pad) sp.1 sp.2
  (List.range (dmaRunCount o.ext)).foldl (fun s i =>
    let r := s.sramRead d (runOffset o.sram run o.pad i) run
    if stop then r.2 else r.2.hbmWrites d (dmaPieces o i) r.1) s

/-- TILE_DMA_OUT. -/
def execTileDmaOut (x : At) (h : DHead) (o : DmaOps) (s : State) : Out := s.runDesc x h (.dmaOut o) (State.dmaOut o)

/-! ### Type 0x06 -/

/-- The linear index of a multi-index, dimension 0 fastest. -/
def ravel : List Nat → List Nat → Nat
  | n :: ns, i :: is => i + n * ravel ns is
  | _, _ => 0

/-- HBM linear index of the SRAM element with this index (R160). -/
def permSource (o : PermOps) (i : Nat) : Nat :=
  let idx := unravel (permExt o) i
  ravel o.ext ((List.range 5).map (fun d => nth idx (o.perm.findIdx (· == d)) 0))

/-- SRAM linear index of the HBM element with this index. -/
def permDest (o : PermOps) (i : Nat) : Nat :=
  let idx := unravel o.ext i
  ravel (permExt o) (o.perm.map (fun p => nth idx p 0))

/-- The contiguous HBM runs of type 0x06 (R160). -/
def permRunAt (o : PermOps) (i : Nat) : Nat × Nat :=
  (moveAddr o.hbm (strideOffset (unravel (o.ext.drop 1) i) o.strides), nth o.ext 0 1 * o.esize)

/-- Permute, HBM to SRAM. -/
def State.permIn (o : PermOps) (d : Dc) (s : State) : State :=
  let n := o.ext.foldl (· * ·) 1
  let r := s.hbmReads d ((List.range (dmaRunCount o.ext)).map (permRunAt o))
  let el := fun (i : Nat) => (r.1.drop (o.esize * permSource o i)).take o.esize
  let e0 := nth (permExt o) 0 1
  (List.range (n / max e0 1)).foldl (fun s i =>
    s.sramWrite d (runOffset o.sram (e0 * o.esize) o.pad i)
      ((List.range e0).map (fun j => el (i * e0 + j))).flatten) r.2

/-- Permute, SRAM to HBM. -/
def State.permOut (o : PermOps) (d : Dc) (s : State) : State :=
  let n := o.ext.foldl (· * ·) 1
  let e0 := nth (permExt o) 0 1
  let sp := (spanAt o.hbm (permSpan o)).getD (0, 0)
  let stop := s.writesNothing d o.sram (permBytes o) sp.1 sp.2
  let r := (List.range (n / max e0 1)).foldl (fun (x : List TByte × State) i =>
    let y := x.2.sramRead d (runOffset o.sram (e0 * o.esize) o.pad i) (e0 * o.esize)
    (x.1 ++ y.1, y.2)) (([] : List TByte), s)
  if stop then r.2
  else
    let bs := ((List.range n).map (fun i => (r.1.drop (o.esize * permDest o i)).take o.esize)).flatten
    r.2.hbmWrites d ((List.range (dmaRunCount o.ext)).map (permRunAt o)) bs

/-- A source record of a re-block: its values, whether its scale poisons (0xFF), and its taint. -/
structure Rec161 where
  vals : List Val
  dead : Bool
  taint : Bool
  deriving DecidableEq, Repr, Inhabited

/-- Re-block (R161). DESIGN CHOICE (log 94): a new block that a source block with scale 0xFF poisons is scale 0xFF with zero elements in
every format. -/
def State.reblock (o : PermOps) (d : Dc) (s : State) : State :=
  let b := blockOf o.block16
  let rb := recordBytes o.fmt b
  let n0 := nth o.ext 0 1
  let n1 := nth o.ext 1 1
  let src := (List.range n1).foldl (fun (x : List (List Rec161) × State) (r : Nat) =>
    let y := x.2.hbmReadD d (moveAddr o.hbm ((r : Nat) * nth o.strides 0 (0 : Int))) (n0 * rb)
    let row := (List.range n0).map (fun k =>
      let bs := (y.1.drop (rb * k)).take rb
      (⟨readBlock o.fmt b (plain bs), fieldAt (plain bs) (rb - 1) 1 == 0xFF, anyTaint bs⟩ : Rec161))
    (x.1 ++ [row], y.2)) (([] : List (List Rec161)), s)
  let pitch := blockPitch o.fmt b (n1 / b)
  (List.range (n0 * b)).foldl (fun s c =>
    let blocks := (List.range (n1 / b)).map (fun k =>
      let rs := (List.range b).map (fun j => nth (nth src.1 (b * k + j) []) (c / b) default)
      let vs := rs.map (fun r => nth r.vals (c % b) Val.zero)
      let q := if rs.any (·.dead) then (vs.map (fun _ => 0), 0xFF) else convertBlock o.fmt false false (vs.map (fun _ => 0)) vs
      tagged (rs.any (·.taint)) (blockBytes o.fmt b q))
    let row := blocks.flatten
    s.sramWrite d (o.sram + pitch * c) (row ++ clean (zeros (pitch - row.length)))) src.2

/-- The effect of TILE_DMA_PERMUTE. -/
def State.permute (o : PermOps) (d : Dc) (s : State) : State :=
  if o.reblock then s.reblock o d else if o.toHbm then s.permOut o d else s.permIn o d

/-- TILE_DMA_PERMUTE. -/
def execTileDmaPermute (x : At) (h : DHead) (o : PermOps) (s : State) : Out := s.runDesc x h (.perm o) (State.permute o)

/-! ### Gather and scatter -/

/-- What an index maps to (R163): a table row, or none (zeros, or a dropped row), and which counter it adds to:
0 none, 1 ZEROED, 2 CLAMPED, 3 WRAPPED. -/
def mapIndex (policy size : Nat) (x : Int) : Option Nat × Nat :=
  if 0 ≤ x && x < (size : Int) then (some x.toNat, 0)
  else match policy with
    | 1 => (some (if x < 0 then 0 else size - 1), 2)
    | 2 => if x < 0 && 0 ≤ x + (size : Int) then (some (x + size).toNat, 3) else (none, 1)
    | _ => (none, 1)

/-- The index counters (R166) after the mapped indices. -/
def Tile.countIndices (t : Tile) (ms : List (Option Nat × Nat)) : Tile :=
  let n := fun (k : Nat) => (ms.filter (fun m => m.2 == k)).length
  { t with zeroed := sat32 (t.zeroed + n 1), clamped := sat32 (t.clamped + n 2), wrapped := sat32 (t.wrapped + n 3) }

/-- The indices of a descriptor read, with whether any was poisoned. -/
def State.readIndices (s : State) (d : Dc) (o : GatherOps) : List Int × Bool × State :=
  let r := s.sramRead d o.idx (4 * o.n)
  ((wordsOf 4 (plain r.1)).map (signed 32), anyTaint r.1, r.2)

/-- ERROR's rejection (R164). -/
def State.rejectIndices (s : State) (d : Dc) (pos : Nat) : State :=
  (s.onTile d.phys (fun t => { t with rejected := sat32 (t.rejected + 1) })).event 0x22 1 d.phys
    (leBytes 2 d.phys ++ leBytes 4 d.desc ++ leBytes 4 pos)

/-- The first index out of range. -/
def firstOut (size : Nat) (xs : List Int) : Option Nat :=
  xs.findIdx? (fun x => !(decide (0 ≤ x) && decide (x < (size : Int))))

/-- Address of a table row. -/
def tableRow (o : GatherOps) (r : Nat) : Nat := moveAddr o.table ((r : Int) * o.stride)

/-- Bytes marked when an index was poisoned (R305). -/
def markAll (t : Bool) (bs : List TByte) : List TByte := if t then bs.map (fun b => (b.1, true)) else bs

/-- The effect of GATHER. -/
def State.gather (o : GatherOps) (d : Dc) (s : State) : State :=
  let x := s.readIndices d o
  match if o.policy == 3 then firstOut o.size x.1 else none with
  | some pos => x.2.2.rejectIndices d pos
  | none =>
    let ms := x.1.map (mapIndex o.policy o.size)
    let s := x.2.2.onTile d.phys (fun t => t.countIndices ms)
    (ms.zipIdx).foldl (fun s m => match m.1.1 with
      | some r =>
        let y := s.hbmReadD d (tableRow o r) o.len
        y.2.sramWrite d (o.sram + m.2 * gatherPitch o) (markAll x.2.1 y.1)
      | none => s.sramWrite d (o.sram + m.2 * gatherPitch o) (tagged x.2.1 (zeros o.len))) s

/-- GATHER. -/
def execGather (x : At) (h : DHead) (o : GatherOps) (s : State) : Out := s.runDesc x h (.gather o) (State.gather o)

/-- A wide-fixed add outside a reduction: the sum kept within ±(2^47 − 1), and whether it left the range (R277). -/
def wideAddSat (a b : Int) : Int × Bool :=
  let v := a + b
  (clampInt (-(2 ^ 47 - 1)) (2 ^ 47 - 1) v, decide (2 ^ 47 - 1 < v.natAbs))

/-- An SRAM row added into a table row (R165): the new bytes, and whether a wide-fixed add overflowed. -/
def addRow (wide : Bool) (tbl row : List TByte) : List TByte × Bool :=
  let e := if wide then 6 else 4
  let ps := (chunks e tbl).zip (chunks e row)
  let rs := ps.map (fun p =>
    let a := leNat (plain p.1)
    let b := leNat (plain p.2)
    let t := anyTaint p.1 || anyTaint p.2
    if wide then
      let v := wideAddSat (signed 48 a) (signed 48 b)
      (tagged t (leBytes 6 (twos 48 v.1)), v.2)
    else (tagged t (leBytes 4 (fadd (BitVec.ofNat 32 a) (BitVec.ofNat 32 b)).toNat), false))
  ((rs.map (·.1)).flatten, rs.any (·.2))

/-- One row of a scatter. -/
def State.scatterRow (o : GatherOps) (d : Dc) (taint : Bool) (s : State) (m : (Option Nat × Nat) × Nat) : State :=
  let y := s.sramRead d (o.sram + m.2 * gatherPitch o) o.len
  match m.1.1 with
  | none => y.2
  | some r =>
    if o.add then
      let t := y.2.hbmReadD d (tableRow o r) o.len
      let v := addRow o.wide t.1 y.1
      let s := t.2.hbmWriteD d (tableRow o r) (markAll taint v.1)
      if v.2 then s.plotFault d.plot 0x09 (Site.tile d.phys 2 d.desc) false else s
    else y.2.hbmWriteD d (tableRow o r) (markAll taint y.1)

/-- The effect of SCATTER. -/
def State.scatter (o : GatherOps) (d : Dc) (s : State) : State :=
  let x := s.readIndices d o
  match if o.policy == 3 then firstOut o.size x.1 else none with
  | some pos => x.2.2.rejectIndices d pos
  | none =>
    let sp := (spanAt o.table (gatherSpan o)).getD (0, 0)
    let ms := x.1.map (mapIndex o.policy o.size)
    let s := x.2.2.onTile d.phys (fun t => t.countIndices ms)
    if s.writesNothing d o.sram ((o.n - 1) * gatherPitch o + o.len) sp.1 sp.2 then s
    else ms.zipIdx.foldl (State.scatterRow o d x.2.1) s

/-- SCATTER. -/
def execScatter (x : At) (h : DHead) (o : GatherOps) (s : State) : Out := s.runDesc x h (.scatter o) (State.scatter o)

/-! ### Copy engines -/

/-- The destination rows of a permuting copy (R167). -/
def State.transpose (o : CopyOps) (d : Dc) (s : State) : State :=
  (List.range o.cols).foldl (fun s c =>
    let r := s.hbmReads d ((List.range o.rows).map (fun r => (o.src + r * o.srcPitch + c * o.esize, o.esize)))
    r.2.hbmWriteD d (o.dst + c * o.dstPitch) r.1) s

/-- The effect of COPY_ENGINE: a plain copy reads every source byte before it writes (R170). -/
def State.copyDesc (o : CopyOps) (d : Dc) (s : State) : State :=
  if o.permuting then s.transpose o d
  else
    let r := s.hbmReadD d o.src o.b
    r.2.hbmWriteD d o.dst r.1

/-- COPY_ENGINE; a plot has two engines for each of its stacks (Table 16.3). -/
def execCopyEngine (x : At) (h : DHead) (o : CopyOps) (s : State) : Out :=
  if 2 * (s.stacksOf x.plot).length ≤ o.engine then .fault (.noSuchUnit "copy engine")
  else s.runDesc x h (.copy o) (State.copyDesc o)

end Sys2Proof.Machine
end

