-- ==== Sys2Proof/Machine/Cells.lean ====
section
/-! DEFINITION. Running sums and cells: chain hand-off (R80, R143), cell egress and ingress (R224, R199), waits
(R76), and context save and restore (R147, R148, R406). -/
namespace Sys2Proof.Machine

/-- A bank as a hand-off carries it: its first `w` words, CONTINUE set (R143). DESIGN CHOICE (log 18): the record's NAN flag follows
the words that it carries. -/
def handoffBank (b : Bank) (w : Nat) : Bank :=
  { b with words := b.words.zipIdx.map (fun x => if x.2 < w then x.1 else 0), flags := b.flags ||| 2 }

/-- The place on the chip of the next logical tile of the ring (R80). -/
def State.nextTile (s : State) (d : Dc) : Nat := match s.plot? d.plot with
  | some p => p.tileAt ((d.tile + 1) % (16 * p.clusters.length))
  | none => d.phys

/-- The effect of CHAIN_HANDOFF. -/
def State.handoff (o : HandoffOps) (d : Dc) (s : State) : State :=
  let b := nth (s.tile d.phys).banks o.bank Bank.zero
  s.sramWriteAt d (s.nextTile d) o.dst (clean (handoffBank b o.w).record)

/-- CHAIN_HANDOFF; a serving program's last logical tile hands nothing on (R399). -/
def execChainHandoff (x : At) (h : DHead) (o : HandoffOps) (s : State) : Out :=
  if s.chip.profile != 0 && (match s.plot? x.plot with
      | some p => x.tile + 1 == 16 * p.clusters.length
      | none => false) then .fault (.rejectedAtLoad 0x15)
  else s.runDesc x h (.handoff o) (State.handoff o)

/-- Slot tag `first` plus `i` (R224): a 16-bit field, taken modulo 65,536. -/
def cellTag (first i : Nat) : Nat := (first + i) % 65536

/-- Cell `i` of an egress descriptor, waiting for its slot. -/
def egressCell (o : CellOps) (phase : Nat) (void : Bool) (bs : List TByte) (i : Nat) : WaitCell :=
  let p := (bs.drop (240 * i)).take 240
  ⟨phase, cellTag o.tag i, i, !void && anyTaint p, void, slice (plain p) 0 240⟩

/-- The effect of CELL_EGRESS (R224); the cells that read a held range leave void (R199, log 84). -/
def State.egress (o : CellOps) (d : Dc) (s : State) : State :=
  let r := s.sramRead d o.sram o.b
  r.2.onPort (r.2.physPort o.port) (fun q => { q with
    egress := q.egress ++ (List.range o.c).map (fun i =>
      egressCell o d.phase (s.isHeldRange d (o.sram + 240 * i) (min 240 (o.b - 240 * i))) r.1 i) })

/-- CELL_EGRESS; serving programs have none (R399). -/
def execCellEgress (x : At) (h : DHead) (o : CellOps) (s : State) : Out :=
  if s.chip.profile != 0 then .fault (.rejectedAtLoad 0x15) else s.runDesc x h (.egress o) (State.egress o)

/-- The effect of CELL_INGRESS: the tile claims the cells of its tags (R225). -/
def State.ingress (o : CellOps) (d : Dc) (s : State) : State :=
  s.onTile d.phys (fun t => { t with
    claims := t.claims ++ [⟨s.physPort o.port, d.phase, o.tag, o.c, o.sram, o.b, d.desc, d.record, none⟩] })

/-- CELL_INGRESS. -/
def execCellIngress (x : At) (h : DHead) (o : CellOps) (s : State) : Out :=
  if s.chip.profile != 0 then .fault (.rejectedAtLoad 0x15) else s.runDesc x h (.ingress o) (State.ingress o)

/-- WAIT: it occupies its unit and does nothing else (R76). -/
def execWait (x : At) (h : DHead) (unit : Nat) (s : State) : Out := s.runDesc x h (.wait unit) (fun _ s => s)

/-- The effect of CONTEXT_SAVE (R147). -/
def State.contextSave (off : Nat) (d : Dc) (s : State) : State :=
  s.sramWrite d off (clean (contextRecord (s.tile d.phys).banks))

/-- CONTEXT_SAVE. -/
def execContextSave (x : At) (h : DHead) (off : Nat) (s : State) : Out := s.runDesc x h (.save off) (State.contextSave off)

/-- The effect of CONTEXT_RESTORE (R148). -/
def State.contextRestore (off : Nat) (d : Dc) (s : State) : State :=
  let r := s.sramRead d off 5184
  r.2.onTile d.phys (fun t => { t with banks := contextBanks (plain r.1) })

/-- CONTEXT_RESTORE. -/
def execContextRestore (x : At) (h : DHead) (off : Nat) (s : State) : Out :=
  s.runDesc x h (.restore off) (State.contextRestore off)

end Sys2Proof.Machine
end

