-- ==== Sys2Proof/Machine/Flags.lean ====
section
/-! DEFINITION. Chunk headers and their flags (Table 12.6), how headers fold (R281), and how working fields of scale
records combine across replicas (R118). -/
namespace Sys2Proof.Machine

/-- A chunk header (Table 12.6). Flags: bit 0 SAT, 1 NONFINITE, 2 POISON, 3 STALE. -/
structure ChunkHdr where
  chunk : Nat
  exp : Int
  flags : Nat
  contribs : Nat
  present : Nat
  stale : Nat
  valid : Nat
  digest : Nat
  deriving DecidableEq, Repr, Inhabited

/-- The 24 bytes of a header. -/
def ChunkHdr.bytes (h : ChunkHdr) : List Byte :=
  leBytes 4 h.chunk ++ leBytes 2 (twos 10 h.exp) ++ leBytes 1 (h.flags % 16) ++ leBytes 1 h.contribs ++ leBytes 2 h.present
    ++ leBytes 2 h.stale ++ leBytes 2 h.valid ++ zeros 2 ++ leBytes 8 (h.digest % 2 ^ 61)

/-- The header in 24 bytes. -/
def chunkHdrOf (b : List Byte) : ChunkHdr :=
  ⟨fieldAt b 0 4, signed 10 (fieldAt b 4 2), fieldAt b 6 1 % 16, fieldAt b 7 1, fieldAt b 8 2, fieldAt b 10 2,
    fieldAt b 12 2, fieldAt b 16 8 % 2 ^ 61⟩

/-- The header of an empty sum (R285). -/
def emptyHdr (chunk : Nat) (x : Int) : ChunkHdr := ⟨chunk, x, 0, 0, 0, 0, 0, 0⟩

/-- An item folded into a header (R281): only when its present mask is nonzero. -/
def ChunkHdr.fold (a b : ChunkHdr) : ChunkHdr :=
  if b.present == 0 then a
  else { a with
    flags := a.flags ||| b.flags, contribs := (a.contribs + b.contribs) % 256, present := a.present ||| b.present,
    stale := a.stale ||| b.stale, valid := (a.valid + b.valid) % 65536, digest := digAdd a.digest b.digest }

/-- Byte offset of the header of chunk `q` in a wide-fixed area of `n` elements at `off` (R275). -/
def hdrOff (off n q : Nat) : Nat := off + 6 * n + 24 * q

/-! ### Working fields (R115, R118) -/

/-- The 16 working bytes of a record. -/
def ScaleRec.working (r : ScaleRec) : List Byte := slice r.bytes 48 16

/-- The working bytes replaced. -/
def ScaleRec.setWorking (r : ScaleRec) (w : List Byte) : ScaleRec :=
  { r with bytes := slice r.bytes 0 48 ++ slice w 0 16 }

/-- A required exponent of two sets of working bytes: the larger of those seen. -/
def foldSeen (a b : List Byte) (off seen : Nat) : Nat :=
  let sa := bit (fieldAt a 1 1) seen
  let sb := bit (fieldAt b 1 1) seen
  if sa && sb then twos 10 (max (signed 10 (fieldAt a off 2)) (signed 10 (fieldAt b off 2)))
  else if sb then fieldAt b off 2 else fieldAt a off 2

/-- Two sets of working bytes combined: codes and required exponents by maximum, counts by saturating sum (R118). -/
def combineWorking (a b : List Byte) : List Byte :=
  leBytes 1 (max (fieldAt a 0 1) (fieldAt b 0 1)) ++ leBytes 1 (fieldAt a 1 1 ||| fieldAt b 1 1)
    ++ leBytes 2 (foldSeen a b 2 1) ++ leBytes 2 (foldSeen a b 4 2) ++ slice a 6 2
    ++ leBytes 4 (sat32 (fieldAt a 8 4 + fieldAt b 8 4)) ++ leBytes 2 (sat16 (fieldAt a 12 2 + fieldAt b 12 2))
    ++ leBytes 2 (sat16 (fieldAt a 14 2 + fieldAt b 14 2))

end Sys2Proof.Machine
end

