-- ==== Sys2Proof/Machine/Collective.lean ====
section
/-! DEFINITION. Collective steps (R270 to R291, R463): PACK, ROUND, CHECK, PLACE and COMBINE. -/
namespace Sys2Proof.Machine

/-- The collective-table entry a step names. -/
def State.coll (s : State) (i : Nat) : CollEntry := match s.schedNow with
  | some c => nth c.colls i default
  | none => default

/-- PRESENCE (Table 12.2). -/
def CollEntry.presence (e : CollEntry) : Bool := bit e.flags 1
/-- TRAILER. -/
def CollEntry.trailer (e : CollEntry) : Bool := bit e.flags 2

/-- This chip's replica, or the one that an audit replays (R319). -/
def State.ownReplica (s : State) : Nat := match s.replay? with
  | some a => a.replica
  | none => s.replica.getD 0

/-- This chip's index along a collective's axis. -/
def State.collIndex (s : State) (e : CollEntry) : Nat := if e.axis == 3 then s.ownReplica else s.axisIndex e.axis

/-- Whether this chip's replica takes part in the run: it is not in the absent record, and the chip has not marked it suspect
(R284). -/
def State.takesPart (s : State) : Bool := match s.train.run with
  | some r => !bit r.absent s.ownReplica && !(r.suspectMark || s.flash.suspect)
  | none => false

/-- Whether this chip's contribution to a collective is present (R284). -/
def State.isPresent (s : State) (e : CollEntry) : Bool := !e.presence || s.takesPart

/-- The place of a fault of a collective's chunk (R281, R282). -/
def collSite (coll chunk desc : Nat) (tile : Option Nat) : Site := ⟨4, coll, chunk, desc, 0, tile⟩

/-- Whether a step along D is replaced by idle time in a replay (R319). -/
def State.idleInReplay (s : State) (e : CollEntry) : Bool := s.replay?.isSome && e.axis == 3

/-! ### PACK (R276) -/

/-- One element packed: its integer and its flag bits. -/
def packElem (key : GenKey) (x : Int) (chunk j axis : Nat) (v : Val) : Int × Nat :=
  match v with
  | .fin s m e =>
    let w := sr s m (e - (x - 42)) (gen key 3 0 chunk j axis)
    if 2 ^ 42 - 1 < w.natAbs then (if s then -(2 ^ 42 - 1) else 2 ^ 42 - 1, 1) else (w, 0)
  | _ => (0, 2)

/-- A source element: its value and whether its record carries POISON. -/
abbrev PackSrc := Val × Bool

/-- Elements from running-sum records in patch order (R276). -/
def recordElems (n w : Nat) (bs : List Byte) : List PackSrc :=
  (List.range n).map (fun i =>
    let r := i / max w 1
    let c := i % max w 1
    let k := r / 16 * (w / 16) + c / 16
    let word := BitVec.ofNat 40 (fieldAt bs (1344 * k + 5 * (r % 16 * 16 + c % 16)) 5)
    (wordVal word (signed 10 (fieldAt bs (1344 * k + 1280) 2)), bit (fieldAt bs (1344 * k + 1282) 1) 2))

/-- The source of a PACK: its elements, whether any codeword was poisoned, and the state after the reads. -/
def State.packSource (s : State) (d : Dc) (o : CollOps) : List PackSrc × Bool × State :=
  if o.packFp32 then
    let r := s.sramRead d o.localOff (4 * o.n)
    ((words32 (plain r.1)).map (fun w => (dec32 w, false)), anyTaint r.1, r.2)
  else
    let k := ceilDiv (o.n / max o.rowLen 1) 16 * (o.rowLen / 16)
    let r := s.sramRead d o.localOff (1344 * k)
    (recordElems o.n o.rowLen (plain r.1), anyTaint r.1, r.2)

/-- A chunk packed: its elements, its header before any carried contribution, and what it folds. -/
structure Packed where
  elems : List Int
  hdr : ChunkHdr
  /-- the largest finite magnitude, and the count of NaN and infinite inputs -/
  top : Nat × Int
  nonfinite : Nat
  deriving DecidableEq, Repr, Inhabited

/-- One chunk of a PACK. -/
def packChunk (key : GenKey) (x : Int) (chunk axis rep m : Nat) (present poison : Bool) (src : List PackSrc) : Packed :=
  let ws := src.zipIdx.map (fun p => packElem key x chunk p.2 axis p.1.1)
  let fl := ws.foldl (fun a w => a ||| w.2) (4 * b2n (poison || src.any (·.2)))
  let vs := ws.map (·.1)
  ⟨vs, ⟨chunk, x, fl, b2n present, if present then 2 ^ rep else 0, 0, if present then m else 0, elemDigest vs⟩,
    src.foldl (fun a p => magMax a p.1.mag) (0, 0), (ws.filter (fun w => bit w.2 1)).length⟩

/-- A carried contribution added to a chunk (R288). -/
def addCarry (p : Packed) (rep m : Nat) (ex : List Int) (h : ChunkHdr) : Packed :=
  let vs := (p.elems.zip ex).map (fun x => x.1 + x.2)
  { p with
    elems := vs
    hdr := { p.hdr with
      flags := p.hdr.flags ||| h.flags ||| 8, contribs := p.hdr.contribs + 1, stale := p.hdr.stale ||| 2 ^ rep,
      valid := p.hdr.valid + m, digest := elemDigest vs } }

/-- A wide-fixed area's bytes (R275). -/
def areaBytes (n : Nat) (ps : List Packed) : List Byte :=
  slice ((ps.map (fun p => (p.elems.map (fun v => leBytes 6 (twos 48 v))).flatten)).flatten
    ++ (ps.map (fun p => p.hdr.bytes)).flatten) 0 (wideBytes n)

/-- What a PACK folds into its record (R276): each chunk's required exponent, and the non-finite inputs. -/
def foldPack (ps : List Packed) (r : ScaleRec) : ScaleRec :=
  ps.foldl (fun r p =>
    let r := if p.top.1 == 0 then r else r.foldReq 52 2 (clampInt (-512) 511 (ilog2 p.top.1 p.top.2 + 1))
    r.count 0 0 p.nonfinite) r

/-- An audit's entry of a chunk (R318). -/
def auditEntry (h : ChunkHdr) : List Byte :=
  leBytes 8 (h.digest % 2 ^ 61 + 2 ^ 61 * (h.flags % 8))

/-- Whether this run forms an audit's entries (R318, R319). -/
def State.auditing (s : State) : Bool := match s.train.run, s.train.audit with
  | some r, some a => (a.role == 0 && a.step == r.step) || s.replay?.isSome
  | _, _ => false

/-- The entries of a PACK's chunks logged. -/
def State.logChunks (s : State) (ps : List Packed) : State :=
  if s.auditing then s.onTrain (fun t => { t with
    audit := t.audit.map (fun a => { a with entries := a.entries ++ ps.map (fun p => auditEntry p.hdr) }) })
  else s

/-- The effect of COLLECTIVE_PACK. -/
def State.pack (o : CollOps) (d : Dc) (s : State) : State :=
  let e := s.coll o.coll
  let present := s.isPresent e
  let rep := s.ownReplica
  let m := if e.presence then e.m else 0
  let x := match s.record? d.plot d.record with
    | some r => r.pred 24 s.raised
    | none => 0
  let src := s.packSource d o
  let carries := o.extra && e.presence && s.train.carryPending && present
  let ex := if carries then src.2.2.sramRead d o.extraOff (wideBytes o.n) else ([], src.2.2)
  let poison := src.2.1 || anyTaint ex.1 || d.recPoison
  let ps := (chunks 4096 src.1).zipIdx.map (fun c =>
    packChunk d.key x (o.first + c.2) (s.collIndex e) rep m present poison c.1)
  let exb := plain ex.1
  let ps2 := if carries then ps.zipIdx.map (fun p =>
      addCarry p.1 rep m ((List.range p.1.elems.length).map (fun i => signed 48 (fieldAt exb (6 * (4096 * p.2 + i)) 6)))
        (chunkHdrOf (slice exb (hdrOff 0 o.n p.2) 24))) else ps
  let s := ex.2.logChunks ps
  let s := if s.takesPart then s.onRecord d.plot d.record (foldPack ps) else s
  let s := if ps.any (fun p => bit p.hdr.flags 0) then
      s.saturation d.plot (Site.tile d.phys 1 d.desc) d.phys d.record
    else s
  s.sramWrite d o.resOff (tagged poison (areaBytes o.n ps2))

/-- A collective step run; serving programs have none (R399). -/
def State.runColl (s : State) (x : At) (h : DHead) (op : Nat) (o : CollOps) (eff : CollOps → Dc → State → State) : Out :=
  if s.chip.profile != 0 then .fault (.rejectedAtLoad 0x15) else s.runDesc x h (.coll op o) (eff o)

/-- COLLECTIVE_PACK. -/
def execCollectivePack (x : At) (h : DHead) (o : CollOps) (s : State) : Out := s.runColl x h 0 o State.pack

/-! ### ROUND (R270, R281, R283, R285) -/

/-- Bytes of the tile's SRAM as a read delivers them, the reads already counted. -/
def State.sramPeek (s : State) (d : Dc) (off n : Nat) : List Byte := (s.tile d.phys).sram.peeks off n

/-- Whether an area's chunk takes part in the sum: its present mask is nonzero (R281). -/
def State.areaHdr (s : State) (d : Dc) (off n q : Nat) : ChunkHdr := chunkHdrOf (s.sramPeek d (hdrOff off n q) 24)

/-- Element `j` of an area that is added, or 0. -/
def State.areaElem (s : State) (d : Dc) (use_ : Bool) (off n j : Nat) : Int :=
  if use_ && (s.areaHdr d off n (j / 4096)).present != 0 then signed 48 (leNat (s.sramPeek d (off + 6 * j) 6)) else 0

/-- Payload of data cell `i` of a payload-0 ROUND: what was received, plus own, plus extra. -/
def State.roundData (s : State) (d : Dc) (o : CollOps) (i : Nat) (rx : List Byte) : List Byte :=
  slice ((List.range (min 40 (o.n - 40 * i))).map (fun k =>
    leBytes 6 (twos 48 (signed 48 (fieldAt rx (6 * k) 6) + s.areaElem d o.own o.localOff o.n (40 * i + k)
      + s.areaElem d o.extra o.extraOff o.n (40 * i + k))))).flatten 0 240

/-- The header that a payload-0 ROUND forms for chunk `q` from the received one, if any. -/
def State.roundHdr (s : State) (d : Dc) (o : CollOps) (q : Nat) (rx : Option ChunkHdr) : ChunkHdr :=
  let own := s.areaHdr d o.localOff o.n q
  let h := match rx with
    | some h => (emptyHdr (o.first + q) h.exp).fold h
    | none => emptyHdr (o.first + q) (if o.own then own.exp else 0)
  let h := if o.own then h.fold own else h
  if o.extra then h.fold (s.areaHdr d o.extraOff o.n q) else h

/-- Whether a received header is the one expected (R281). -/
def State.hdrOk (s : State) (d : Dc) (o : CollOps) (q : Nat) (h : ChunkHdr) : Bool :=
  h.chunk == o.first + q && (!o.own || h.exp == (s.areaHdr d o.localOff o.n q).exp)
    && (!o.extra || h.exp == (s.areaHdr d o.extraOff o.n q).exp)

/-- Working fields of the records of data cell `i` of a record combine, as they stand; zeros while `none_`. -/
def State.recordCell (s : State) (e : CollEntry) (i : Nat) (none_ : Bool) : List Byte :=
  slice ((List.range (min 15 (e.recCount - 15 * i))).map (fun k =>
    if none_ then zeros 16 else match s.record? 0 (e.firstRec + 15 * i + k) with
      | some r => r.working
      | none => zeros 16)).flatten 0 240

/-- Working fields received for the records of data cell `i` (R118): combined with this chip's own when it adds them
and takes part, else taken as they are. -/
def State.takeRecords (s : State) (e : CollEntry) (o : CollOps) (i : Nat) (rx : List Byte) : State :=
  (List.range (min 15 (e.recCount - 15 * i))).foldl (fun s k =>
    let w := slice rx (16 * k) 16
    s.onRecord 0 (e.firstRec + 15 * i + k) (fun r =>
      r.setWorking (if o.own && s.takesPart then combineWorking r.working w else w))) s

/-- The codewords of the records of data cell `i` read: whether one is delivered as poisoned, and what was met. -/
def State.readRecords (s : State) (d : Dc) (e : CollEntry) (i : Nat) : Bool × State :=
  let ids := (List.range (min 15 (e.recCount - 15 * i))).map (fun k => e.firstRec + 15 * i + k)
  (ids.any (fun k => s.recordPoison 0 k), ids.foldl (fun s k => s.readRecord d k) s)

/-- A trailer's payload (R283). -/
def trailerBytes (digest count coll number : Nat) : List Byte :=
  leBytes 8 digest ++ leBytes 4 count ++ leBytes 2 coll ++ leBytes 2 number ++ zeros 224

/-- Cell `i` of a ROUND put before its slots on both egress ports. -/
def State.roundSend (s : State) (o : CollOps) (phase i : Nat) (poison void : Bool) (payload : List Byte) : State :=
  let one := fun (s : State) (p : Option Nat) (tag : Nat) => match p with
    | some p => s.onPort (s.physPort p) (fun q => { q with
        egress := q.egress ++ [⟨phase, cellTag tag i, i, poison && !void, void, payload⟩] })
    | none => s
  one (one s o.egress o.egTag) o.egress2 o.eg2Tag

/-- Result bytes of a payload-0 ROUND that keeps its result: elements of cell `i`. -/
def keptElems (o : CollOps) (i : Nat) (p : List Byte) : List Byte := slice p 0 (6 * min 40 (o.n - 40 * i))

/-- Headers of one header cell formed and sent, and kept when the ROUND keeps its result. -/
def State.roundHeaders (s : State) (d : Dc) (o : CollOps) (poison : Bool) (k : Nat) (rx : Option (List Byte)) : State :=
  let nch := ceilDiv o.n 4096
  let qs := (List.range (min 10 (nch - 10 * k))).map (fun j => 10 * k + j)
  let got := fun (q : Nat) => rx.map (fun b => chunkHdrOf (slice b (24 * (q % 10)) 24))
  let s := qs.foldl (fun s q => match got q with
    | some h => if s.hdrOk d o q h then s else s.plotFault 0 0x03 (collSite o.coll (o.first + q) d.desc (some d.phys)) false
    | none => s) s
  let out := (qs.map (fun q => (s.roundHdr d o q (got q)).bytes)).flatten
  let s := s.roundSend o d.phase (o.c + k) poison false (slice out 0 240)
  if o.keep then
    let s := s.sramWrite d (hdrOff o.resOff o.n (10 * k)) (tagged poison out)
    if 10 * k + 10 < nch then s
    else
      let e := 6 * o.n + 24 * nch
      s.sramWrite d (o.resOff + e) (tagged poison (zeros (wideBytes o.n - e)))
  else s

/-- Data cell `i` of a ROUND: `rx` what was received (none in a ROUND without ingress). Its payload as sent joins the
digest. -/
def State.roundDataCell (s : State) (d : Dc) (e : CollEntry) (r : RoundRx) (i : Nat) (poison : Bool)
    (rx : Option (List Byte)) : State × RoundRx :=
  let o := r.o
  let sends := o.egress.isSome || o.egress2.isSome
  let add := fun (p : List Byte) => { r with txDigest := digAdd r.txDigest (payloadDigest p) }
  if e.kind == 6 then
    let q := s.readRecords d e i
    let poison := poison || q.1
    let s := match rx with
      | some b => (q.2.takeRecords e o i b).sramWrite d (o.resOff + 240 * i) (tagged poison b)
      | none => q.2
    let p := s.recordCell e i (rx.isNone && o.own && !s.takesPart)
    if sends then (s.roundSend o d.phase i poison false p, add p) else (s, r)
  else if e.payload == 0 then
    let p := s.roundData d o i (rx.getD [])
    let s := if o.keep then s.sramWrite d (o.resOff + 240 * i) (tagged poison (keptElems o i p)) else s
    if sends then (s.roundSend o d.phase i poison false p, add p) else (s, r)
  else match rx with
    | some b => (s.sramWrite d (o.resOff + 240 * i) (tagged poison b), r)
    | none => (s, r)

/-- The data at the local offset of a payload-1 to payload-3 ROUND put before its slots (R281), with the digest of what is
sent. The cells that read a held range are sent void, with zero payloads (R199, R37, log 84). -/
def State.roundLocal (s : State) (d : Dc) (r : RoundRx) : State × RoundRx :=
  let o := r.o
  if o.egress.isSome || o.egress2.isSome then
    let b := s.sramRead d o.localOff (240 * o.c)
    let poison := anyTaint b.1
    (List.range o.c).foldl (fun x i =>
      let void := s.isHeldRange d (o.localOff + 240 * i) 240
      let p := if void then [] else slice (plain b.1) (240 * i) 240
      (x.1.roundSend o d.phase i poison void p, { x.2 with txDigest := digAdd x.2.txDigest (payloadDigest p) }))
      (b.2, { r with poison := poison })
  else (s, r)

/-- The number of this ROUND among the tile's rounds of its collective in the run (R283). -/
def State.nextRound (s : State) (d : Dc) (coll : Nat) : Nat × State :=
  let old := match s.train.run with
    | some r => match r.rounds.find? (fun x => x.1 == d.tile && x.2.1 == coll) with
      | some x => x.2.2
      | none => 0
    | none => 0
  (old, s.onRun (fun r => { r with
    rounds := (d.tile, coll, old + 1) :: r.rounds.filter (fun x => !(x.1 == d.tile && x.2.1 == coll)) }))

/-- The trailer sent, when the collective has one. -/
def State.sendTrailer (s : State) (d : Dc) (e : CollEntry) (r : RoundRx) : State :=
  if e.trailer then
    s.roundSend r.o d.phase (r.o.c + r.o.h - 1) r.poison false (trailerBytes r.txDigest r.o.c r.o.coll r.number)
  else s

/-- The effect of COLLECTIVE_ROUND at its start: with ingress it claims its cells; without, everything it sends is put
before its slots. -/
def State.round (o : CollOps) (d : Dc) (s : State) : State :=
  let e := s.coll o.coll
  if s.idleInReplay e then s
  else
    let n := s.nextRound d o.coll
    let wide := e.payload == 0 && e.kind != 6
    let own := if wide && o.own then n.2.sramRead d o.localOff (wideBytes o.n) else ([], n.2)
    let ext := if wide && o.extra then own.2.sramRead d o.extraOff (wideBytes o.n) else ([], own.2)
    let r : RoundRx := ⟨o, n.1, anyTaint own.1 || anyTaint ext.1, 0, 0, 0⟩
    let x := if wide || e.kind == 6 then (ext.2, r) else ext.2.roundLocal d r
    match o.ingress with
    | some p =>
      let t := if wide || e.kind == 6 then x.1 else x.1.sendTrailer d e x.2
      t.onTile d.phys (fun t => { t with
        claims := t.claims ++ [⟨s.physPort p, d.phase, o.inTag, o.c + o.h, o.resOff, 0, d.desc, d.record, some x.2⟩] })
    | none =>
      let x := if wide || e.kind == 6 then
          (List.range o.c).foldl (fun (x : State × RoundRx) i => x.1.roundDataCell d e x.2 i x.2.poison Option.none) x
        else x
      let t := if wide then
          (List.range (o.h - b2n e.trailer)).foldl (fun s k => s.roundHeaders d o x.2.poison k Option.none) x.1
        else x.1
      t.sendTrailer d e x.2

/-- COLLECTIVE_ROUND. -/
def execCollectiveRound (x : At) (h : DHead) (o : CollOps) (s : State) : Out := s.runColl x h 1 o State.round

/-- What a received trailer must say (R283). -/
def trailerOk (p : List Byte) (digest count coll : Nat) : Bool :=
  fieldAt p 0 8 == digest && fieldAt p 8 4 == count && fieldAt p 12 2 == coll

/-- Cell `i` of a claim of a ROUND taken in; `rx` is none for a cell that was void or failed its checks, in whose place
nothing is received (log 22). A void data cell counts as one of a zero payload (R37, R283). -/
def State.roundCell (s : State) (d : Dc) (r : RoundRx) (i : Nat) (poison void : Bool) (rx : Option (List Byte)) :
    State × RoundRx :=
  let o := r.o
  let e := s.coll o.coll
  let wide := e.payload == 0 && e.kind != 6
  let bad := r.poison || poison
  if i < o.c then
    let r := match rx with
      | some b => { r with rxDigest := digAdd r.rxDigest (payloadDigest b), rxCount := r.rxCount + 1 }
      | none => { r with rxCount := r.rxCount + b2n void }
    match rx with
    | some b => s.roundDataCell d e r i bad (some b)
    | none => if wide then s.roundDataCell d e r i bad (some []) else
        if e.kind == 6 && (o.egress.isSome || o.egress2.isSome) then
          let p := s.recordCell e i false
          (s.roundSend o d.phase i bad false p, { r with txDigest := digAdd r.txDigest (payloadDigest p) })
        else (s, r)
  else if e.trailer && i + 1 == o.c + o.h then
    let s := match rx with
      | some b => if trailerOk b r.rxDigest r.rxCount o.coll then s
          else s.plotFault 0 0x04 (collSite o.coll 0 d.desc (some d.phys)) false
      | none => s
    (if wide || e.kind == 6 then s.sendTrailer d e r else s, r)
  else if wide then (s.roundHeaders d o bad (i - o.c) rx, r)
  else (s, r)

/-! ### CHECK (R282, R292, R306) -/

/-- One result chunk checked, and reported as a chain end's. -/
def State.checkChunk (d : Dc) (o : CollOps) (e : CollEntry) (area : List Byte) (s : State) (q : Nat) : State :=
  let h := chunkHdrOf (slice area (hdrOff 0 o.n q) 24)
  let len := min 4096 (o.n - 4096 * q)
  let dig := elemDigest ((List.range len).map (fun i => signed 48 (fieldAt area (6 * (4096 * q + i)) 6)))
  let w := collSite o.coll (o.first + q) d.desc (some d.phys)
  let s := if bit h.flags 2 then s.plotFault d.plot 0x0C w false else s
  let s := if dig != h.digest then s.plotFault d.plot 0x04 w false else s
  if e.presence then s.onRun (fun r => { r with
    reported := true, pAnd := r.pAnd &&& h.present, pOr := r.pOr ||| h.present, vMin := min r.vMin h.valid,
    vMax := max r.vMax h.valid })
  else s

/-- The effect of COLLECTIVE_CHECK. -/
def State.collCheck (o : CollOps) (d : Dc) (s : State) : State :=
  let e := s.coll o.coll
  if s.idleInReplay e then s
  else
    let r := s.sramRead d o.resOff (wideBytes o.n)
    (List.range (ceilDiv o.n 4096)).foldl (State.checkChunk d o e (plain r.1)) r.2

/-- COLLECTIVE_CHECK. -/
def execCollectiveCheck (x : At) (h : DHead) (o : CollOps) (s : State) : Out := s.runColl x h 2 o State.collCheck

/-! ### PLACE and COMBINE (R289, R290) -/

/-- What PLACE has done so far: slots taken of each expert's share, slots filled (slot, token, gate), the return map in
order, and residual choices. -/
structure Placing where
  used : List Nat
  slots : List (Nat × Nat × Nat)
  ret : List Nat
  residual : List Nat
  deriving DecidableEq, Repr

/-- One choice placed: expert, gate, token. `free` stands in the return map for an expert that does not exist
(log 23). -/
def placeOne (cs experts : Nat) (p : Placing) (expert gate token free : Nat) : Placing :=
  if expert == 0xFFFF then { p with ret := p.ret ++ [0xFFFFFFFF] }
  else if experts ≤ expert then { p with ret := p.ret ++ [free % 2 ^ 32] }
  else
    let u := nth p.used expert 0
    if u < cs then
      { p with used := p.used.set expert (u + 1), slots := p.slots ++ [(expert * cs + u, token, gate)],
               ret := p.ret ++ [expert * cs + u] }
    else { p with ret := p.ret ++ [0xFFFFFFFF], residual := p.residual ++ [expert] }

/-- The effect of PLACE. The global index of a token, and the gate of an empty slot, are free values: one for each token, one
for each slot (log 23). -/
def State.placeDesc (o : CollOps) (d : Dc) (s : State) : State :=
  let e := s.coll o.coll
  let xs := expertCount e
  let slots := xs * e.cs
  let r := s.sramRead d o.first (8 * o.n * e.mode)
  let b := plain r.1
  let f0 := r.2.free
  let p := (List.range (o.n * e.mode)).foldl (fun p i =>
    placeOne e.cs xs p (fieldAt b (8 * i) 2) (fieldAt b (8 * i + 4) 4) (i / max e.mode 1) (Config.freeNat (f0 + i)))
    ⟨List.replicate xs 0, [], [], []⟩
  let at_ := fun (k : Nat) => p.slots.find? (fun x => x.1 == k)
  let f1 := f0 + o.n * e.mode
  let out := ((List.range slots).map (fun k => leBytes 4 (match at_ k with
      | some x => x.2.1
      | none => 0xFFFFFFFF))).flatten
    ++ ((List.range slots).map (fun k => match at_ k with
      | some x => leBytes 4 (Config.freeNat (f1 + x.2.1)) ++ leBytes 4 x.2.2
      | none => leBytes 4 0xFFFFFFFF ++ leBytes 4 (Config.freeNat (f1 + o.n + k)))).flatten
    ++ (p.ret.map (leBytes 4)).flatten
  let s := { r.2 with free := f1 + o.n + slots }
  let s := s.onMem (fun m => { m with
    residual := p.residual.foldl (fun l x => modifyAt l x (fun c => sat32 (c + 1))) m.residual })
  s.sramWrite d o.resOff (tagged (anyTaint r.1) out)

/-- PLACE. -/
def execPlace (x : At) (h : DHead) (o : CollOps) (s : State) : Out := s.runColl x h 3 o State.placeDesc

/-- Offset of a returned row; a position that is no slot lies beyond the tile's SRAM, where every byte is free. -/
def returnedRow (o : CollOps) (e : CollEntry) (pos : Int) : Nat :=
  if 0 ≤ pos && pos < ((expertCount e * e.cs : Nat) : Int) then o.localOff + pos.toNat * e.rowBytes else Config.sramBytes

/-- One token's output row: `ret` and `gates` are its return-map entries and gates. -/
def State.combineRow (s : State) (d : Dc) (o : CollOps) (e : CollEntry) (choices : List (Int × W32)) :
    List W32 × Bool × State :=
  choices.foldl (fun x c =>
    if c.1 == -1 then x
    else
      let r := x.2.2.sxBytes d (returnedRow o e c.1) e.rowBytes
      (List.zipWith (fun y acc => ffma c.2 y acc) (words32 (plain r.1)) x.1, x.2.1 || anyTaint r.1, r.2))
    (List.replicate (e.rowBytes / 4) 0, false, s)

/-- The effect of COMBINE. -/
def State.combine (o : CollOps) (d : Dc) (s : State) : State :=
  let e := s.coll o.coll
  let slots := expertCount e * e.cs
  let g := s.sramRead d o.first (8 * o.n * e.mode)
  let m := g.2.sramRead d (o.extraOff + 12 * slots) (4 * o.n * e.mode)
  let gb := plain g.1
  let mb := plain m.1
  let rows := (List.range o.n).foldl (fun (x : List (List W32) × Bool × State) t =>
    let cs := (List.range e.mode).map (fun k =>
      let i := t * e.mode + k
      (signed 32 (fieldAt mb (4 * i) 4), BitVec.ofNat 32 (fieldAt gb (8 * i + 4) 4)))
    let r := x.2.2.combineRow d o e cs
    (x.1 ++ [r.1], x.2.1 || r.2.1, r.2.2)) (([] : List (List W32)), anyTaint g.1 || anyTaint m.1, m.2)
  rows.2.2.sramWrites d (rows.1.zipIdx.map (fun r => (o.resOff + r.2 * e.rowBytes, tagged rows.2.1 (bytes32 r.1))))

/-- COMBINE. -/
def execCombine (x : At) (h : DHead) (o : CollOps) (s : State) : Out := s.runColl x h 4 o State.combine

end Sys2Proof.Machine
end

