-- ==== Sys2Proof/Machine/Copies.lean ====
section
/-! DEFINITION. Host copy queues (R168 to R177): enabling, draining, aborting, and the copies themselves, one 1 KiB
group at a time. -/
namespace Sys2Proof.Machine

/-- The plot whose HBM a copy queue works on. -/
def State.queuePlot (s : State) (q : Nat) : Option Nat := s.spaceOf q

/-- The job of a queue. -/
def State.copyJob? (s : State) (q : Nat) : Option CopyJob := (s.dma.jobs.find? (fun j => j.1 == q)).map (·.2)

/-- The job of a queue replaced. -/
def State.setCopyJob (s : State) (q : Nat) (j : Option CopyJob) : State :=
  let rest := s.dma.jobs.filter (fun x => x.1 != q)
  { s with dma := { s.dma with jobs := match j with
    | some j => rest ++ [(q, j)]
    | none => rest } }

/-- Ring index of the entry in progress: the one before QHEAD. -/
def DmaQueue.inFlight (d : DmaQueue) : Nat :=
  (d.head.toNat + d.size.toNat - 1) % (max d.size.toNat 1)

/-- Entry bytes to move. -/
def esizeOf (code : Nat) : Nat := 2 ^ code

/-! ### Control of a queue -/

/-- ENABLE written 1 to a STOPPED queue (Table 7.9). The manual says of copy queues not what happens with a DMA_QSIZE or a base
that R171 does not allow: the queue starts (DESIGN CHOICE, log 91). -/
def DmaQueue.enable (d : DmaQueue) : DmaQueue :=
  if d.st == 0 then { d with head := 0, tail := 0, cTail := 0, st := 1, phase := true } else d

/-- DRAIN (R174). -/
def State.queueDrain (s : State) (q : Nat) : State :=
  if (s.dmaQ q).st == 1 then (s.onQ q (fun d => { d with st := 2, drainTo := d.tail })).drained q else s

/-- The doorbell: taken only while RUNNING (R171, R174). An index at or above DMA_QSIZE, of which the manual says nothing, is
ignored (DESIGN CHOICE, log 91). -/
def DmaQueue.doorbell (d : DmaQueue) (v : W32) : DmaQueue :=
  if d.st == 1 && decide (v.toNat < d.size.toNat) then { d with tail := v } else d

/-- DMA_QUEUE_ENABLE. -/
def execDmaQueueEnable (q : Nat) (s : State) : Out :=
  if q > 4 then .fault (.noSuchUnit "host copy queue")
  else if (s.queuePlot q).isNone && q != 0 then .next s
  else .next (s.onQ q DmaQueue.enable)

/-- DMA_QUEUE_DRAIN. -/
def execDmaQueueDrain (q : Nat) (s : State) : Out :=
  if q > 4 then .fault (.noSuchUnit "host copy queue") else .next (s.queueDrain q)

/-- DMA_QTAIL_DOORBELL. -/
def execDmaQtailDoorbell (q : Nat) (value : W32) (s : State) : Out :=
  if q > 4 then .fault (.noSuchUnit "host copy queue") else .next (s.onQ q (fun d => d.doorbell value))

/-! ### The copy -/

/-- Source and destination byte of each byte of a permuting copy, destination rows in order (R167, R175). -/
def permuteOffset (e rows dstPitch srcPitch i : Nat) : Nat × Nat :=
  let w := rows * e
  let c := i / (max w 1)
  let r := i % (max w 1) / (max e 1)
  (r * srcPitch + c * e + i % (max e 1), c * dstPitch + r * e + i % (max e 1))

/-- A stretch of destination bytes cut at row ends. -/
def rowPiecesAux (w : Nat) : Nat → Nat → Nat → List (Nat × Nat)
  | 0, _, _ => []
  | _, _, 0 => []
  | fuel + 1, a, n =>
    let k := min n (w - a % (max w 1))
    (a, k) :: rowPiecesAux w fuel (a + k) (n - k)

/-- `n` destination bytes from `a`, cut at the ends of rows of `w` bytes. -/
def rowPieces (w a n : Nat) : List (Nat × Nat) := rowPiecesAux w (n + 1) a n

/-- Bytes read from a plot's committed view or plain HBM. -/
def State.copyRead (s : State) (plot a n : Nat) : List TByte × State :=
  let ks := s.stacksOf plot
  let f := if s.chip.profile == 0 then s.viewFetch ks a n else hbmFetch s.mem.hbm ks a n
  (f.1, (s.onMem (fun m => { m with hbm := f.2.1 })).seenHost ks f.2.2)

/-- Bytes that a host copy reads: all of them poisoned in a region that a halt has left unusable (R177; log 91). -/
def State.hostFetch (s : State) (plot a n : Nat) : List TByte × State :=
  let r := s.copyRead plot a n
  (if s.unusable plot a n then r.1.map (fun x => (x.1, true)) else r.1, r.2)

/-- The source codewords of a range that carry taint. -/
def taintedCws (a : Nat) (bs : List TByte) : List Nat := (bs.zipIdx.filter (fun x => x.1.2)).map (fun x => (a + x.2) / 64)

/-- More poisoned source codewords met by a copy. -/
def CopyJob.meets (j : CopyJob) (cws : List Nat) : CopyJob := { j with poisoned := (j.poisoned ++ cws).eraseDups }

/-- Spans of a permuting entry. -/
def permSpans (e : CopyEntry) : Nat × Nat :=
  let es := esizeOf e.esizeCode
  ((e.rows - 1) * e.srcPitch + e.cols * es, (e.cols - 1) * e.dstPitch + e.rows * es)

/-- Bytes that an entry's source and destination span. -/
def copySpans (e : CopyEntry) : Nat × Nat := if e.kind == 1 then permSpans e else (e.b, e.b)

/-- Whether a copy must wait: for its stacks to leave self-refresh (R42), or, reading what an unarmed update phase may be
writing, for that phase to end (R17, R173). -/
def State.copyWaits (s : State) (plot : Nat) (e : CopyEntry) : Bool :=
  s.asleep plot || (e.kind != 2 && s.mustWait plot e.src (copySpans e).1)

/-- A piece of a copy moved: `k` bytes of the destination from byte `at_` on. -/
def State.movePiece (s : State) (q plot : Nat) (e : CopyEntry) (at_ k : Nat) : List Nat × State :=
  match e.kind with
  | 0 =>
    let r := s.hostFetch plot (e.src + at_) k
    (taintedCws (e.src + at_) r.1, r.2.hbmWrite plot (e.dst + at_) r.1)
  | 1 =>
    let es := esizeOf e.esizeCode
    (rowPieces (e.rows * es) at_ k).foldl (fun (x : List Nat × State) seg =>
      let r := (List.range seg.2).foldl (fun (y : List TByte × List Nat × State) i =>
        let a := e.src + (permuteOffset es e.rows e.dstPitch e.srcPitch (seg.1 + i)).1
        let v := y.2.2.hostFetch plot a 1
        (y.1 ++ v.1, y.2.1 ++ taintedCws a v.1, v.2)) ([], x.1, x.2)
      (r.2.1, r.2.2.hbmWrite plot (e.dst + (permuteOffset es e.rows e.dstPitch e.srcPitch seg.1).2) r.1)) ([], s)
  | 2 => ([], s.hbmWrite plot (e.dst + at_) (clean (slice e.hostData at_ k)))
  | _ =>
    let r := s.hostFetch plot (e.src + at_) k
    let bs := r.1.map (·.1)
    (taintedCws (e.src + at_) r.1,
      r.2.emit (if anyTaint r.1 then .hostPoisoned (qFn q) (e.dst + at_) bs else .hostWrite (qFn q) (e.dst + at_) bs))

/-- The next piece of a copy moved: at most `k` bytes from byte `j.bytes` on, in the order R170 and R175 give. A copy that waits
moves nothing. One whose destination the host may not write any more stops: its writes are discarded, with the event of R18 while
a plot is ARMED or RUNNING (R18, R173; log 91). -/
def State.moveCopy (s : State) (q plot : Nat) (j : CopyJob) (k : Nat) : State :=
  let e := j.entry
  let k := min k (e.b - j.bytes)
  let at_ := if e.kind == 0 && decide (e.src < e.dst) then e.b - j.bytes - k else j.bytes
  if j.status != stDone || s.copyWaits plot e then s
  else if e.kind != 3 && !s.hostMayWrite plot e.dst (copySpans e).2 then
    (if s.anyBusy then s.discarded (qFn q) e.dst (e.b - j.bytes) else s).setCopyJob q (some { j with status := stBadState })
  else
    let r := s.movePiece q plot e at_ k
    r.2.setCopyJob q (some ({ j with bytes := j.bytes + k }.meets r.1))

/-- Whether an entry is malformed (R172, Table 7.11). -/
def entryBad (s : State) (plot : Nat) (e : CopyEntry) : Bool :=
  let es := esizeOf e.esizeCode
  let plain := e.kind != 1
  let inOne := fun a n => (s.plot? plot).any (fun p => p.st == .empty && decide (a + n ≤ hbmBytes p.hstacks))
    || (regionAt (s.regions plot) a n).isSome
  e.kind > 3 || e.reserved || e.b == 0 || decide (2 ^ 35 < e.b)
    || (plain && (e.esizeCode != 0 || e.rows != 0 || e.cols != 0 || e.srcPitch != 0 || e.dstPitch != 0))
    || (!plain && (e.esizeCode > 3 || e.rows == 0 || e.cols == 0 || e.b != e.rows * e.cols * es
        || decide (e.srcPitch < e.cols * es) || decide (e.dstPitch < e.rows * es)))
    || (e.kind != 2 && !inOne e.src (copySpans e).1) || (e.kind != 3 && !inOne e.dst (copySpans e).2)

/-- DMA_QHEAD moved past an entry that is taken. -/
def DmaQueue.next (d : DmaQueue) : DmaQueue := { d with head := BitVec.ofNat 32 ((d.head.toNat + 1) % (max d.size.toNat 1)) }

/-- The status with which an entry ends before anything is written: malformed, overlapping, forbidden (R169, R172, R173). -/
def State.entryRefused (s : State) (plot : Nat) (e : CopyEntry) : Option Nat :=
  let sp := copySpans e
  if entryBad s plot e then some stBadParam
  else if e.kind == 1 && decide (e.src < e.dst + sp.2) && decide (e.dst < e.src + sp.1) then some stOverlap
  else if e.kind != 3 && !s.hostMayWrite plot e.dst sp.2 then some stBadState
  else none

/-- HOST_COPY_ENTRY_START (R172, R173, R169, R175). An entry whose source must wait for an update phase stays in its ring; one
that an aborting queue takes ends ABORTED. -/
def execHostCopyEntryStart (q : Nat) (e : CopyStart) (s : State) : Out :=
  if q > 4 then .fault (.noSuchUnit "host copy queue")
  else
    let d := s.dmaQ q
    if d.st == 0 || d.head == d.limit || (s.copyJob? q).isSome then .next s
    else match e.entry with
    | none => .next (s.onQ q (fun d => { d.stop with ringFault := true }))
    | some f =>
      let t := s.onQ q DmaQueue.next
      let done := fun (t : State) (st : Nat) => Host.Outcome.next (t.copyPost q d.head.toNat f.tag.toNat f.signal st 0 0 e.ringOk)
      if d.st == 3 then done t stAborted
      else match s.queuePlot q with
      | none => done t stBadParam
      | some plot =>
        if s.copyWaits plot f then .next s
        else match s.entryRefused plot f with
          | some st => done (if st == stBadState && s.anyBusy then t.discarded (qFn q) f.dst f.b else t) st
          | none => .next (t.setCopyJob q (some ⟨f, 0, stDone, []⟩))

/-- UNSCHEDULED_COPY_GROUP: the copy engines move one group of the queue's entry (R168). -/
def execUnscheduledCopyGroup (q : Nat) (s : State) : Out :=
  if q > 4 then .fault (.noSuchUnit "host copy queue")
  else match s.copyJob? q, s.queuePlot q with
  | some j, some p => .next (s.moveCopy q p j 1024)
  | _, _ => .next s

/-- The rest of a copy moved, group by group; `stop` bounds the bytes done. -/
def finishCopy (q plot stop : Nat) : Nat → State → State
  | 0, s => s
  | fuel + 1, s => match s.copyJob? q with
    | none => s
    | some j =>
      if decide (stop ≤ j.bytes) then s
      else finishCopy q plot stop fuel (s.moveCopy q plot j (min 1024 (stop - j.bytes)))

/-- The status that a copy's completion gives. -/
def CopyJob.final (j : CopyJob) (failed : Bool) : Nat :=
  if j.status != stDone then j.status
  else if failed then stHwFault else if j.poisoned.isEmpty then stDone else stPoisoned

/-- HOST_COPY_COMPLETE (R176): the rest of the entry is moved, or what was written when the engine failed, and its
completion goes to the ring; a ring that cannot be written stops the queue. A copy that waits does not complete. -/
def execHostCopyComplete (q : Nat) (failedAt : Option Nat) (ringOk : Bool) (s : State) : Out :=
  if q > 4 then .fault (.noSuchUnit "host copy queue")
  else match s.copyJob? q, s.queuePlot q with
  | some j, some p =>
    let stop := match failedAt with
      | some n => max j.bytes (min n j.entry.b)
      | none => j.entry.b
    let t := finishCopy q p stop (stop / 1024 + 2) s
    let k := (t.copyJob? q).getD j
    if k.status == stDone && failedAt.isNone && k.bytes < j.entry.b then .next t
    else
      let st := k.final failedAt.isSome
      .next ((t.setCopyJob q none).copyPost q (t.dmaQ q).inFlight j.entry.tag.toNat j.entry.signal st
        (if st == stPoisoned then k.poisoned.length else 0) k.bytes ringOk)
  | _, _ => .next s

/-- Where an abort stops a copy that is to stop at byte `n`: at a 256-byte boundary, for a permuting copy at the end of a
destination row (R175). -/
def CopyJob.stopAt (j : CopyJob) (n : Nat) : Nat :=
  let e := j.entry
  min e.b (if e.kind == 1 then roundUp (max j.bytes n) (max (e.rows * esizeOf e.esizeCode) 1) else max j.bytes (n / 256 * 256))

/-- An abort of a copy queue (R175): the queue is ABORTING, and the entry in progress stops with about `bytesDone` bytes of its
destination written; its completion, and those of the entries not started, follow in ring order. -/
def State.queueAbort (s : State) (q bytesDone : Nat) : State :=
  let d := s.dmaQ q
  if !(d.st == 1 || d.st == 2) then s
  else
    let t := s.onQ q (fun d => { d with st := 3 })
    match t.copyJob? q, t.queuePlot q with
    | some j, some p =>
      let stop := j.stopAt bytesDone
      let t := finishCopy q p stop (stop / 1024 + 2) t
      t.setCopyJob q ((t.copyJob? q).map (fun k => { k with status := if k.status == stDone then stAborted else k.status }))
    | some j, none => t.setCopyJob q (some { j with status := stAborted })
    | none, _ => t.drained q

/-- DMA_QUEUE_ABORT. -/
def execDmaQueueAbort (q bytesDone : Nat) (s : State) : Out :=
  if q > 4 then .fault (.noSuchUnit "host copy queue") else .next (s.queueAbort q bytesDone)

end Sys2Proof.Machine
end

