-- ==== Sys2Proof/Machine/Profiles.lean ====
section
/-! DEFINITION. Profiles (R392 to R396) and the commands that select, read and write them. -/
namespace Sys2Proof.Machine

/-- A queue pair stopped at once: nothing further taken or delivered (R363). -/
def Pair.stop (p : Pair) : Pair := { p with running := false, gen := p.gen + 1, waiting := [], visible := [] }

/-- Context pages of the serving plots marked invalid (R396, R406). -/
def State.dropContexts (s : State) : State :=
  if s.chip.profile == 0 then s
  else s.plots.foldl (fun s p => s.onMem (fun m => { m with
    hbm := (hbmStore m.hbm p.hstacks ((hbmBytes p.hstacks / Config.pageBytes - 1) * Config.pageBytes + 4)
      (clean [0])).1 })) s

/-- Every bank zeroed and all tile SRAM zero with correct check bytes (R396, R148). -/
def State.zeroTiles (s : State) (f : Nat → Bool) : State :=
  s.onMem (fun m => { m with tiles := m.tiles.zipIdx.map (fun x =>
    if f x.2 then { x.1 with sram := Mem.zero, same := none, banks := List.replicate 4 Bank.zero } else x.1) })

/-- Plots of a new layout that hold a cluster of a plot whose RUN_SELFTEST failed: they cannot be configured before the next chip
reset either (R424, log 95). -/
def State.keepBad (s t : State) : State :=
  let bad := (s.plots.filter (·.bad)).flatMap (·.clusters)
  { t with plots := t.plots.map (fun p => { p with bad := p.clusters.any (fun c => bad.contains c) }) }

/-- The steps of R396 before the final completion of SET_PROFILE. -/
def State.switchProfile (s : State) (n : Nat) (b : List Byte) : State :=
  let fns := (plotsOf b).map (·.fn)
  let gone := [1, 2, 3, 4].filter (fun v => !(fns.contains v) || n == 0)
  let s := gone.foldl (fun s v => (s.onPair (3 + v) Pair.stop).onQ v DmaQueue.stop) s
  let s := { s with dma := { s.dma with jobs := s.dma.jobs.filter (fun j => !(gone.contains j.1)) } }
  s.keepBad (((s.zeroTiles (fun _ => true)).dropContexts).takeProfile n b)

/-- SET_PROFILE (0x0301). -/
def execSetProfile (c : Slot) (s : State) : Out :=
  aqvel 0x0301 noExt .chip (fun s _ => allPlotsIn [.empty] s) (fun s c =>
    guarded c [(1, 31)] [] (fun _ => if arg c 0 1 > 3 then .fail stBadParam 32 else .accepted s)) c s

/-- SET_PROFILE_END: the new layout, or HW_FAULT when no copy of the record is valid (R396). -/
def execSetProfileEnd (s : State) : Out :=
  match s.job? 0x0301 with
  | none => .next s
  | some j =>
    let n := arg j.slot 0 1
    match s.flash.profile? n with
    | some b => .next ((s.switchProfile n b).endJob j stDone 0 n)
    | none => .next (s.endJob j stHwFault 0 0)

/-- READ_PROFILE (0x0302): the copy that is valid, else device 0's. -/
def execReadProfile (c : Slot) (s : State) : Out :=
  aqvel 0x0302 (extAtLeast 64) .chip anyState (fun s c =>
    guarded c [(1, 31)] [] (fun _ =>
      let n := arg c 0 1
      if n > 3 then .fail stBadParam 32
      else writesExt s c (slice ((s.flash.profile? n).getD (nth s.flash.prof0 n [])) 0 64) (fun t => .done 0 0 t))) c s

/-- WRITE_PROFILE (0x0303). -/
def execWriteProfile (c : Slot) (s : State) : Out :=
  aqvel 0x0303 (fun _ c => c.extLen == 64) .chip anyState (fun s c =>
    guarded c [(1, 31)] [] (fun _ =>
      let n := arg c 0 1
      if n > 3 then .fail stBadParam 32
      else readsExt s c (fun b => match profileBad n b with
        | some o => .fail stBadParam (2 ^ 30 + o)
        | none => .accepted s))) c s

/-- WRITE_PROFILE_END: device 0's copy, then device 1's; `ok` false is a write that the flash failed (R393). DESIGN
CHOICE (log 57): a failed write leaves both copies as they were. -/
def execWriteProfileEnd (ok : Bool) (s : State) : Out :=
  match s.job? 0x0303 with
  | none => .next s
  | some j =>
    let n := arg j.slot 0 1
    let b := (s.extBytes j.slot).getD []
    if ok && (profileBad n b).isNone then
      .next ({ s with flash := { s.flash with prof0 := s.flash.prof0.set n b, prof1 := s.flash.prof1.set n b } }.endJob j
        stDone 0 0)
    else .next (s.endJob j stHwFault 0 0)

end Sys2Proof.Machine
end

