-- ==== Sys2Proof/Machine/Power.lean ====
section
/-! DEFINITION. Power, reset, self-test and heat (R409 to R427, R81 to R84, R316, R446, R447): the commands of these
families but SUPPLY_DIP_BEGIN, which the paired update's tables need. -/
namespace Sys2Proof.Machine

/-! ### Resets -/

/-- POWER_ON_RESET: PWR_OK asserted, or VIO rising (Table 17.5). RESET_N is still low (Table 17.2). -/
def execPowerOnReset (vioLost : Bool) (s : State) : Out :=
  let t := s.chipReset 0 vioLost false
  let t := t.pinTo 1 t.chip.thermTrip false
  .next { t with
    chip := { t.chip with held := ⟨false, true, false⟩, thermTrip := false }
    tap := if vioLost then .idcode else t.tap }

/-- PWR_OK_DEASSERT: in reset until power is good again, with the effect of removing power but for the journal
(R410). The reset that counts is the one at PWR_OK's return. -/
def execPwrOkDeassert (s : State) : Out :=
  let t := s.chipReset 0 false false
  let t := t.pinTo 1 t.chip.thermTrip false
  .next { t with chip := { t.chip with
    held := ⟨true, s.chip.held.pin, false⟩, thermTrip := false, cause := s.chip.cause, count := s.chip.count } }

/-- PIN_RESET: RESET_N low for at least 1 µs while PWR_OK is asserted (Table 17.5). -/
def execPinReset (s : State) : Out :=
  if s.chip.held.power || s.chip.held.trip then .next { s with chip := { s.chip with held := { s.chip.held with pin := true } } }
  else
    let t := s.chipReset 1 false false
    .next { t with chip := { t.chip with held := { t.chip.held with pin := true } } }

/-- RESET_N_DEASSERT: the straps are sampled, and PROFSEL selects the profile (R395, R446). -/
def execResetNDeassert (profsel slotId : Nat) (s : State) : Out :=
  if s.chip.held.pin then
    let n := profsel % 4
    let t := { s with chip := { s.chip with
      held := { s.chip.held with pin := false }, profsel := n, slotId := slotId % 64, profile := n } }
    .next (match t.flash.profile? n with
      | some b => t.takeProfile n b
      | none => t)
  else .next s

/-- SUPPLY_RESET: a reset crossing of VSRAM or VCORE (R413). The cause names the rail that crossed the reset level (DEDUCED, log 53). -/
def execSupplyReset (vcore : Bool) (s : State) : Out := .next (s.chipReset (if vcore then 3 else 2) false false)

/-- SUPPLY_DIP_TIMEOUT: a dip has lasted 10 ms (R413). Before that, nothing. -/
def execSupplyDipTimeout (s : State) : Out :=
  match s.power.dip with
  | some d =>
    if d.began + 10 * Config.cyclesPerMs ≤ s.time.cyc then .next (s.chipReset d.rail false false) else .next s
  | none => .next s

/-- SUPPLY_DIP_END: both rails have recovered (R413). Its record carries the lowest voltage; where the run that it struck
keeps the record, that one takes the voltage up. -/
def execSupplyDipEnd (lowestMv : Nat) (s : State) : Out :=
  match s.power.dip with
  | none => .next s
  | some d =>
    let low := min d.lowest lowestMv
    let t := { s with power := { s.power with
      dip := none, rails := modifyAt s.power.rails d.rail (fun r => { r with lowest := min r.lowest low }) } }
    match d.record with
    | some o => .next (t.writeRecord (t.faultRec 0x0E ⟨5, d.rail, low, 0xFFFFFFFF, 0, none⟩ false 0xFF) o)
    | none =>
      let set := fun (f : FaultRec) => if f.kind == 0x0E then { f with sub := low } else f
      .next ((t.onRun (fun r => { r with faults := r.faults.map set })).onTrain (fun x => { x with prev := x.prev.map set }))

/-- THERMAL_TRIP (R427). -/
def execThermalTrip (s : State) : Out :=
  let t := s.pinTo 1 s.chip.thermTrip true
  let t := t.chipReset 4 false false
  .next { t with chip := { t.chip with thermTrip := true, held := { t.chip.held with trip := true } } }

/-- RESET (0x0B01, R419): answered first, then it acts; a chip reset acts at COMMAND_CHIP_RESET, within 10 µs. -/
def execReset (c : Slot) (s : State) : Out :=
  aqvel 0x0B01 noExt .either anyState (fun s c =>
    guarded c [(2, 30)] [] (fun _ =>
      let k := arg c 0 1
      let b := arg c 1 1
      if k > 2 then .fail stBadParam 32
      else if (k == 0 && b > 1) || (k != 0 && b != 0) then .fail stBadParam 33
      else if (k == 2) == (c.target == 0xFF) then .fail stBadParam 32
      else .doneThen 0 0 s (fun t =>
        if k == 0 then { t with chip := { t.chip with resetDue := some (b == 1) } }
        else if k == 1 then t.controllerReset
        else t.plotReset c.target.toNat))) c s

/-- COMMAND_CHIP_RESET: a commanded chip reset acts (R419, R418). -/
def execCommandChipReset (s : State) : Out :=
  match s.chip.resetDue with
  | some full => .next (s.chipReset 5 false full)
  | none => .next s

/-! ### BOOT -/

/-- The fused setpoint: 0.700 to 0.800 V in steps of 5 mV (R411). -/
def setpointMv : Nat := 700 + 5 * (Config.fusedSetpoint % 21)

/-- The chip enters HOLD after a failure (R421, R423). -/
def State.toHold (s : State) (scope kind step ms : Nat) (hstacks ports : List Nat) : State :=
  let t := s.withFaultN (fun s => { s with chip := { s.chip with
    st := .hold, test := none, report := ⟨scope, kind, 1, step, ms, hstacks, ports⟩ } })
  let t := { t with ports := t.ports.map (fun _ => Port.reset), checks := t.checks.map (fun _ => PortCheck.reset) }
  (t.refreshBy (List.range 8) .selfRefresh).notice 0x1C Site.none 8 0xFF

/-- Stacks read as passed, ports as not tested (R385). -/
def noStacks : List Nat := List.replicate 8 0
/-- Ports not tested. -/
def noPorts : List Nat := List.replicate 10 2

/-- BOOT_COMPLETE: VCORE set over AVSBus and a bank verified, or HOLD with failing step 0 (R411, R421). -/
def execBootComplete (i : BootInfo) (s : State) : Out :=
  if s.chip.st != .boot || s.chip.held.power || s.chip.held.pin || s.chip.held.trip then .next s
  else
    let t := (s.emit (.avs setpointMv))
    let t := { t with chip := { t.chip with setpoint := setpointMv } }
    let avs := i.avsAnswers && decide (i.readBackMv ≤ setpointMv + 10) && decide (setpointMv ≤ i.readBackMv + 10)
    let ok := fun n => if n == 0 then i.bank0Ok else i.bank1Ok
    if !avs then .next (t.toHold 0xFF 2 0 0 noStacks noPorts)
    else if ok t.flash.active || ok (1 - t.flash.active) then
      let b := if ok t.flash.active then t.flash.active else 1 - t.flash.active
      .next { t with
        flash := { t.flash with active := b }
        chip := { t.chip with
          st := .selftest
          ucode := (nth t.flash.banks b ⟨false, 0, 0⟩).ucode
          test := some ⟨0xFF, 2, t.chip.fullNext, 1, false, false, 0, List.range 10⟩ } }
    else .next (t.toHold 0xFF 2 0 0 noStacks noPorts)

/-! ### Self-test -/

/-- A cluster's spare-map word from the physical positions that failed at a reset (Table 4.5, R81). DESIGN CHOICE (log
95): with two or more failed, where no tile is bypassed, FAILED_POS gives the lowest of them. -/
def spareWord (failed : List Nat) : W32 :=
  let n := failed.length
  let p := failed.headD 0x1F
  BitVec.ofNat 32 (min n 15 * 4096 + 256 * b2n (decide (2 ≤ n)) + 128 * b2n (n == 1 && p < 16) + (if n == 1 then p else
    if n == 0 then 0x1F else p))

/-- The positions of a cluster that failed. -/
def failedIn (tiles : List (Nat × Nat)) (c : Nat) : List Nat :=
  (List.range 17).filter (fun p => tiles.contains (c, p))

/-- A spare-map word after `n` tiles of its cluster failed a step that changes no mapping (R424): the count and
CLUSTER_FAIL follow the last self-test, SPARE_USED and FAILED_POS stay. -/
def countFailed (w : W32) (n : Nat) : W32 :=
  BitVec.ofNat 32 (min n 15 * 4096 + 256 * b2n (decide (2 ≤ n)) + w.toNat % 256)

/-- The spare-map words after a step that tests tiles (R84): step 2 of the reset set maps them, step 2 of RUN_SELFTEST counts
anew, and step 5 adds the tiles that its vectors fail. -/
def State.mapSpares (s : State) (t : SelfTest) (clusters : List Nat) (tiles : List (Nat × Nat)) : State :=
  let word := fun (c : Nat) (w : W32) =>
    let bad := failedIn tiles c
    if t.step == 2 && t.kind == 2 then spareWord bad
    else if t.step == 2 then countFailed w bad.length
    else countFailed w ((w.toNat / 4096) % 16 + bad.length)
  if t.step == 2 || t.step == 5 then
    { s with chip := { s.chip with spare := s.chip.spare.zipIdx.map (fun x =>
      if clusters.contains x.2 then word x.2 x.1 else x.1) } }
  else s

/-- Whether a step of a self-test fails (Table 17.8). In RUN_SELFTEST a tile that fails is a failure whatever it is, the bypassed
one of step 2 too (R424). -/
def stepFails (s : State) (t : SelfTest) (r : StepResult) : Bool :=
  match t.step with
  | 1 => (s.flash.profile? s.chip.profsel).isNone || r.otherFail
  | 2 => if t.kind == 2 then r.otherFail || (List.range 12).any (fun c => decide (2 ≤ (failedIn r.tiles c).length))
         else r.otherFail || !r.tiles.isEmpty
  | 3 => r.otherFail || !r.hstacks.isEmpty
  | 4 => r.otherFail || r.ports.any (fun p => t.ports.contains p)
  | 5 => r.otherFail || !r.tiles.isEmpty
  | _ => r.otherFail

/-- The step after one, by what is tested: a plot skips step 4 (R424). -/
def nextStep (t : SelfTest) : Nat := if t.scope != 0xFF && t.step == 3 then 5 else t.step + 1

/-- Clusters and stacks a self-test covers. -/
def State.testScope (s : State) (t : SelfTest) : List Nat × List Nat :=
  match s.plot? t.scope with
  | some p => if t.scope == 0xFF then (List.range 12, List.range 8) else (p.clusters, p.hstacks)
  | none => (List.range 12, List.range 8)

/-- Everything a commanded self-test overwrote, zeroed again with correct check bytes (R424). -/
def State.testZero (s : State) (t : SelfTest) : State :=
  let q := s.testScope t
  let s := s.zeroTiles (fun i => q.1.contains (i / 16))
  s.onMem (fun m => { m with hbm := q.2.foldl clearStack m.hbm })

/-- The chip enters READY: the flash port is brought up, FL_PERST_N goes high, refresh is the controller's (R421,
R439, R446, R93). -/
def State.toReady (s : State) : State :=
  let t := { s with chip := { s.chip with st := .ready, flPerst := false, fullNext := false } }
  let t := t.pinTo 2 s.chip.flPerst false
  let t := t.onHost (fun h => { h with flState := 1 })
  let t := t.rest (List.range 8)
  match t.flash.profile? t.chip.profsel with
  | some b => t.takeProfile t.chip.profsel b
  | none => t

/-- One byte a port for the report: tested ports failed or passed, the rest not tested. -/
def portsReport (t : SelfTest) (bad : List Nat) (done : Bool) : List Nat :=
  (List.range 10).map (fun p => if !done || t.scope != 0xFF || !(t.ports.contains p) then 2 else b2n (bad.contains p))

/-- The kind that the report gives: a reset that asked for the full self-test ran that one, not the power-on set (R385, R419). -/
def SelfTest.shown (t : SelfTest) : Nat := if t.kind == 2 && t.full then 1 else t.kind

/-- A self-test step ended (R422 to R424). -/
def State.stepEnd (s : State) (t : SelfTest) (r : StepResult) : State :=
  let ms := t.ms + r.ms
  let s := s.mapSpares t (s.testScope t).1 r.tiles
  let s := if t.step == 3 then { s with chip := { s.chip with trained := true } } else s
  let hstacks := (List.range 8).map (fun k => b2n (t.step == 3 && r.hstacks.contains k))
  let ports := portsReport t (if t.step == 4 then r.ports else []) (decide (4 ≤ t.step))
  let s := if t.step == 4 && t.scope == 0xFF then
      t.ports.foldl (fun s p => s.onPort p (fun q => { Port.reset with inSlice := q.inSlice })) s else s
  if t.dipped || stepFails s t r then
    if t.kind == 2 then s.toHold 0xFF t.shown t.step ms hstacks ports
    else
      let s := (s.testZero t).endOp 0x0201 stSelftestFail t.step 0
      if t.scope == 0xFF then s.toHold 0xFF t.kind t.step ms hstacks ports
      else
        let s := { s with chip := { s.chip with test := none, report := ⟨t.scope, t.kind, 1, t.step, ms, hstacks, ports⟩ } }
        s.onPlot t.scope (fun p => { p with bad := true })
        |>.notice 0x1C Site.none 8 t.scope
  else if t.step == 6 then
    let s := { s with chip := { s.chip with test := none, report := ⟨t.scope, t.shown, 0, 0, ms, noStacks, ports⟩ } }
    if t.kind == 2 then s.toReady else (s.testZero t).endOp 0x0201 stDone 0 ms
  else
    { s with chip := { s.chip with test := some { t with step := nextStep t, ms := ms, restarted := false } } }

/-- SELFTEST_STEP_END (R422). -/
def execSelftestStepEnd (r : StepResult) (s : State) : Out :=
  match s.chip.test with
  | none => .next s
  | some t => .next (s.stepEnd t r)

/-- RUN_SELFTEST (0x0201, R424): with byte 1 bit 0, every port that is not DOWN is taken DOWN first. -/
def execRunSelftest (c : Slot) (s : State) : Out :=
  aqvel 0x0201 noExt .either (fun s c =>
    (if c.target == 0xFF then allPlotsIn [.empty] s else plotIn [.empty] s c) && s.cool) (fun s c =>
    guarded c [(2, 30)] [(1, 1)] (fun _ =>
      if arg c 0 1 > 1 then .fail stBadParam 32
      else if arg c 1 1 == 1 && c.target != 0xFF then .fail stBadParam 33
      else
        let down := arg c 1 1 == 1
        let s1 := if down then s.onPorts (fun p => if p.st == 0 then p else { Port.reset with inSlice := p.inSlice })
          else s
        let ports := if down then List.range 10
          else (List.range 10).filter (fun p => (s.port p).st == 0 || (s.port p).st == 3)
        .accepted { s1 with chip := { s1.chip with
          test := some ⟨c.target.toNat, arg c 0 1, arg c 0 1 == 1, 2, false, false, 0, ports⟩ } })) c s

/-! ### Heat -/

/-- Warning and critical levels in 0.01 °C (Table 17.9). -/
def warnLevel (i : Nat) : Int := if i < 16 then 10000 else 8500
/-- Critical. -/
def critLevel (i : Nat) : Int := if i < 16 then 11000 else 9500

/-- A sensor's state after one more reading (R425): two readings in a row decide. One that leaves critical and still lies near its
warning level is in warning, without a second THERM_WARN (DESIGN CHOICE, log 53). -/
def sensorNext (i : Nat) (x : Sensor) (r : Int) : Nat :=
  let w := warnLevel i
  let c := critLevel i
  let above := fun (l : Int) => !x.fresh && decide (l ≤ x.last) && decide (l ≤ r)
  let under := fun (l : Int) => !x.fresh && decide (x.last ≤ l - 300) && decide (r ≤ l - 300)
  if x.st == 2 then (if under c then (if under w then 0 else 1) else 2)
  else if above c then 2
  else if x.st == 1 then (if under w then 0 else 1)
  else if above w then 1 else 0

/-- What a critical level does during an outing (R316). -/
def State.thermalLeave (s : State) : State :=
  let s := s.endHamper.haltTraining
  let s := (s.onPorts (fun p => if p.st == 0 then p else p.fail 0x0D)).linkTrainEnd
  let s := s.onTime (fun t => { t with valid := false })
  s.rest (List.range 8)

/-- What a critical level does (R316, R426). -/
def State.critical (s : State) (i : Nat) : State :=
  let out := s.outing
  let s := s.notice 0x15 ⟨6, i, 0, 0xFFFFFFFF, 0, none⟩ (if out then 4 else 9) 0xFF
  if s.chip.st == .hold || s.chip.st == .boot then s
  else if out then s.thermalLeave else s.haltServing

/-- One sensor read. A stack above 95 °C while a step runs is critical at once (R94). -/
def State.readSensor (s : State) (i : Nat) (r : Int) : State :=
  let x := nth s.power.sensors i Sensor.reset
  let st := if i ≥ 16 && decide (r > 9500) && s.train.run.isSome then 2 else sensorNext i x r
  let y : Sensor := ⟨r, if x.fresh then r else max x.peak r, st, r, false⟩
  let t := { s with power := { s.power with sensors := s.power.sensors.set i y } }
  let t := if i ≥ 16 then t.onStack (i - 16) (fun k => { k with hot := st != 0 }) else t
  if st == 2 && x.st != 2 then t.critical i
  else if st == 1 && x.st == 0 then t.notice 0x14 ⟨6, i, 0, 0xFFFFFFFF, 0, none⟩ 9 0xFF
  else t

/-- THERMAL_SAMPLE: the 24 sensors read in order (R425). -/
def execThermalSample (readings : List Int) (s : State) : Out :=
  .next ((List.range 24).foldl (fun s i => match readings[i]? with
    | some r => s.readSensor i r
    | none => s) s)

/-- POWER_SAMPLE: the 1 ms sample of the six rails (R411, R428). -/
def execPowerSample (mv ma : List Nat) (s : State) : Out :=
  let rails := s.power.rails.zipIdx.map (fun x =>
    let v := nth mv x.2 0
    let a := nth ma x.2 0
    { x.1 with mv := v, ma := a, mw := v * a / 1000, lowest := if s.power.sampled then min x.1.lowest v else v })
  .next { s with power := { s.power with
    rails := rails, energy := s.power.energy + (rails.map (·.mw)).sum, sampled := true } }

/-! ### Test access port -/

/-- TAP_INSTRUCTION (R447): EXTEST, SAMPLE and INTEST only while RESET_N is low; everything unknown is BYPASS. With
`trst` the TAP is in Test-Logic-Reset. -/
def execTapInstruction (i : TapInstr) (trst : Bool) (s : State) : Out :=
  let low := s.chip.held.pin
  let j : TapInstr := if trst then .idcode else match i with
    | .idcode => .idcode
    | .extest => if low then .extest else .bypass
    | .sample => if low then .sample else .bypass
    | .intest => if low then .intest else .bypass
    | _ => .bypass
  let o : Output := match j with
    | .idcode => .tap 1 0x15900B9F
    | .bypass => .tap 0 0
    | _ => .tap 2 0
  .next ({ s with tap := j }.emit o)

end Sys2Proof.Machine
end

