-- ==== Sys2Proof/Machine/Dips.lean ====
section
/-! DEFINITION. What a supply dip does where it begins (R314, R315, R413, R414), and slots whose opcode Table 15.8 does
not hold (R368). -/
namespace Sys2Proof.Machine

/-- The sections that rule the update phase of the run. -/
def State.updateSched (s : State) (r : Run) : Option Sched :=
  s.train.image.bind (fun i => i.schedFor s.train.variant r.armedForm 3)

/-- The update-phase descriptors of the run: head and operation. -/
def State.updateOps (s : State) (r : Run) : List (DHead × Op) :=
  match s.updateSched r with
  | none => []
  | some c => c.descs.flatMap (fun x => x.2.filterMap (fun b =>
      if (s.phases[(parseHead b).phase]?).any (fun p => p.kind == 3) then (parseOp b).map (fun o => (parseHead b, o))
      else none))

/-- Chunks whose ordinary PAIR_CHECK has not ended at a cycle of the run: (role, chunk) (R315). -/
def State.openChunks (s : State) (r : Run) (now : Nat) : List (Nat × Nat) :=
  (s.updateOps r).flatMap (fun x => match x.2 with
    | .pair o =>
      if !o.third && decide (now < x.1.start + x.1.duration) then (List.range o.rows).map (fun k => (o.role, o.first + k))
      else []
    | _ => [])

/-- An ordinary update computation, its pair digest, or its PAIR_CHECK. -/
def Op.ordinary : Op → Bool
  | .upd o => decide (o.role < 2)
  | .digest o => o.words
  | .pair o => !o.third
  | _ => false

/-- Whether an update-phase descriptor that is none of these is running at a cycle of the run. -/
def State.otherRunning (s : State) (r : Run) (now : Nat) : Bool :=
  !r.idle && s.phaseKind == some 3
    && (s.updateOps r).any (fun x => !x.2.ordinary && decide (x.1.start ≤ now) && decide (now < x.1.start + x.1.duration))

/-- A tile DMA that reads HBM. -/
def Op.readsIn : Op → Bool
  | .dmaIn _ => true
  | .perm o => !o.toHbm
  | .gather _ => true
  | _ => false

/-- The update descriptor that follows in a tile's list is a third-role one. -/
def thirdNext (l : List (DHead × Op)) : Bool := match l.find? (fun x => match x.2 with
    | .upd _ => true
    | _ => false) with
  | some (_, .upd o) => o.role == 2
  | _ => false

/-- The starts of the tiebreak groups in a tile's list: of the tile DMA in with which each begins (R202), the last one before its
third-role update (DEDUCED, log 17), and of that update itself. -/
def tiebreakStarts : List (DHead × Op) → List Nat
  | [] => []
  | x :: l =>
    let rest := tiebreakStarts l
    match x.2 with
    | .upd o => if o.role == 2 then x.1.start :: rest else rest
    | op => if op.readsIn && thirdNext l && !(l.takeWhile (fun y => match y.2 with
        | .upd _ => false
        | _ => true)).any (fun y => y.2.readsIn) then x.1.start :: rest else rest

/-- Whether the chip's first tiebreak group has started at a cycle of the run (R315). -/
def State.tiebreakBegun (s : State) (r : Run) (now : Nat) : Bool := match s.updateSched r with
  | none => false
  | some c => !r.idle && c.descs.any (fun x => (tiebreakStarts (x.2.filterMap (fun b =>
      if (s.phases[(parseHead b).phase]?).any (fun p => p.kind == 3) then (parseOp b).map (fun o => (parseHead b, o))
      else none))).any (fun t => decide (t ≤ now)))

/-- A dip after the chip's own vote word, or in the update phase (R315). -/
def State.lateDip (s : State) (r : Run) (w : Site) : State :=
  let now := s.fabricCycle - r.base * 1024
  let leave := fun (t : State) => (t.onRun (fun r => { r with faults := markLeft r.faults (t.faultRec 0x0E w false 0) })).declareSuspect w
  if s.isSpare then s
  else if s.modeOf 0 == 0 then leave s
  else
    let t := s.onHolds (fun h => { h with forced := h.forced ++ s.openChunks r now })
    if s.train.holds.tiebreak || s.tiebreakBegun r now || s.otherRunning r now then leave t else t

/-- A dip in a run of a step (R314). -/
def State.runDip (s : State) (r : Run) (w : Site) : State :=
  let t := s.failCheck 0x0E w false
  if s.voted then t.lateDip r w
  else (t.onRun (fun r => { r with suspectMark := true })).onTrain (fun t => { t with dipStep := true })

/-- A dip in SELFTEST (R414). -/
def SelfTest.dip (t : SelfTest) : SelfTest := if t.restarted then { t with dipped := true } else { t with restarted := true }

/-- The event of a dip with no failed check. -/
def State.dipEvent (s : State) (w : Site) : State := s.event 0x0E w.source.1 w.source.2 (w.params 1)

/-- A pass struck by a dip (R414). The dip's one record is written where the dip ends (R413). -/
def Plot.dip (p : Plot) : Plot := { p with pass := p.pass.map (fun x => { x with failed := true }) }

/-- SUPPLY_DIP_BEGIN: VSRAM or VCORE crosses its warning level while no dip is in progress. -/
def execSupplyDipBegin (vcore : Bool) (mv : Nat) (s : State) : Out :=
  if s.chip.held.power || s.chip.held.pin || s.chip.held.trip || s.power.dip.isSome then .next s
  else
    let rail := if vcore then 3 else 2
    let w : Site := ⟨5, rail, mv, 0xFFFFFFFF, 0, none⟩
    let begun := fun (t : State) (o : Option Nat) => { t with power := { t.power with
      dip := some ⟨rail, mv, t.time.cyc, o⟩
      rails := modifyAt t.power.rails rail (fun r => { r with dips := r.dips + 1, lowest := min r.lowest mv }) } }
    if s.chip.st != .ready then
      let t := begun (s.dipEvent w) (some 9)
      .next (if s.chip.st == .selftest then { t with chip := { t.chip with test := t.chip.test.map SelfTest.dip } } else t)
    else if s.chip.profile == 0 then
      match s.train.run with
      | none => .next (begun (s.dipEvent w) (some 9))
      | some r => .next (begun (s.runDip r w) none)
    else
      let hit := s.plots.any (fun p => p.pass.isSome)
      let t := begun (s.dipEvent w) (some (if hit then 6 else 9))
      .next { t with plots := t.plots.map Plot.dip }

/-- The opcodes of Table 15.8. -/
def tableOpcodes : List Nat :=
  [0x0101, 0x0102, 0x0103, 0x0201, 0x0202, 0x0203, 0x0301, 0x0302, 0x0303, 0x0304, 0x0305, 0x0306, 0x0401, 0x0402, 0x0403,
   0x0404, 0x0405, 0x0406, 0x0501, 0x0502, 0x0503, 0x0504, 0x0505, 0x0506, 0x0601, 0x0602, 0x0603, 0x0604, 0x0701, 0x0702,
   0x0703, 0x0704, 0x0801, 0x0802, 0x0803, 0x0804, 0x0901, 0x0902, 0x0A01, 0x0A02, 0x0B01]

/-- BAD_OPCODE: a slot whose opcode is not in Table 15.8, or that fails its CRC, completed and journaled (R368). A sound
slot of the table's is none, and nothing happens. -/
def execBadOpcode (opcode : W16) (c : Slot) (s : State) : Out :=
  if tableOpcodes.contains opcode.toNat && crcOk c opcode.toNat then .next s else badOpcodeSlot opcode.toNat c s

end Sys2Proof.Machine
end

