-- ==== Sys2Proof/Machine/Info.lean ====
section
/-! DEFINITION. The Aqvel commands that report and record: groups 0x01, 0x08 and 0x0A, and READ_SELFTEST
(Table 15.8; R382 to R387, R428, R429, R467). -/
namespace Sys2Proof.Machine

/-- A 32-bit word. -/
def word32 (n : Nat) : List Byte := leBytes 4 n

/-! ### GET_INFO, GET_STATE -/

/-- The inactive firmware bank. -/
def Flash.inactive (f : Flash) : FwBank := nth f.banks (1 - f.active) ⟨false, 0, 0⟩

/-- The active firmware bank. -/
def Flash.bank (f : Flash) : FwBank := nth f.banks f.active ⟨false, 0, 0⟩

/-- The information block (Table 15.9). -/
def infoBlock (s : State) : List Byte :=
  ascii 16 "MBF-SX9-384" ++ ascii 2 "A1" ++ zeros 2 ++ serialBytes ++ word32 s.flash.bank.version.toNat
    ++ word32 (if s.flash.inactive.valid then s.flash.inactive.version.toNat else 0)
    ++ leBytes 1 s.flash.active ++ leBytes 1 1 ++ leBytes 1 2 ++ zeros 1 ++ word32 s.chip.ucode.toNat
    ++ leBytes 1 (s.chip.slotId % 64) ++ zeros 3 ++ leBytes 8 388061200384 ++ zeros 192

/-- GET_INFO (0x0101, R382). -/
def execGetInfo (c : Slot) (s : State) : Out :=
  aqvel 0x0101 (extAtLeast 256) .chip anyState (fun s c =>
    guarded c [(0, 32)] [] (fun _ => writesExt s c (infoBlock s) (fun t => .done 0 0 t))) c s

/-- The state block (Table 15.10). -/
def stateBlock (s : State) : List Byte :=
  leBytes 8 s.train.committed ++ leBytes 1 s.train.variant
    ++ leBytes 1 (match s.train.image with
      | some i => i.mode
      | none => 0)
    ++ leBytes 2 s.train.absentLast
    ++ leBytes 1 (b2n s.train.carry + 2 * b2n s.train.satAccept + 4 * b2n s.train.carryPending)
    ++ leBytes 1 (match s.snap.hamper with
      | none => 0
      | some h => if h.draining then 2 else 1)
    ++ zeros 2 ++ (s.place.map.map (fun b => BitVec.ofNat 8 b)) ++ zeros 31

/-- GET_STATE (0x0102, R383): all ones as the result in profiles 1 to 3. -/
def execGetState (c : Slot) (s : State) : Out :=
  aqvel 0x0102 (fun s c => c.extLen == 0 || extAtLeast 64 s c) .chip anyState (fun s c =>
    guarded c [(0, 32)] [] (fun _ =>
      let r := if s.chip.profile == 0 then s.train.committed else ones64
      if c.extLen == 0 then .done s.stateDetail r s
      else writesExt s c (slice (stateBlock s) 0 64) (fun t => .done s.stateDetail r t))) c s

/-! ### READ_COUNTERS -/

/-- Set 0 (Table 15.11). -/
def counterSet0 (s : State) : List Byte :=
  (s.mem.tiles.map (fun t => word32 t.zeroed ++ word32 t.clamped ++ word32 t.wrapped ++ word32 t.rejected
    ++ word32 t.corrected ++ zeros 12)).flatten

/-- Set 1. -/
def counterSet1 (s : State) : List Byte :=
  (s.mem.hstacks.map (fun k => word32 k.corrected ++ word32 k.uncorrectable ++ zeros 8)).flatten

/-- Set 2. -/
def counterSet2 (s : State) : List Byte := (s.mem.residual.map word32).flatten

/-- A counter set. -/
def counterSet (s : State) (n : Nat) : List Byte :=
  if n == 0 then counterSet0 s else if n == 1 then counterSet1 s else counterSet2 s

/-- The size of a set. -/
def counterBytes (n : Nat) : Nat := if n == 0 then 6144 else if n == 1 then 128 else 4096

/-- A set zeroed (R384). -/
def State.zeroCounters (s : State) (n : Nat) : State :=
  s.onMem (fun m =>
    if n == 0 then { m with tiles := m.tiles.map (fun t =>
      { t with zeroed := 0, clamped := 0, wrapped := 0, rejected := 0, corrected := 0 }) }
    else if n == 1 then { m with hstacks := m.hstacks.map (fun k => { k with corrected := 0, uncorrectable := 0 }) }
    else { m with residual := m.residual.map (fun _ => 0) })

/-- READ_COUNTERS (0x0103, R384). -/
def execReadCounters (c : Slot) (s : State) : Out :=
  aqvel 0x0103 (fun s c => arg c 0 1 > 2 || extAtLeast (counterBytes (arg c 0 1)) s c) .chip anyState (fun s c =>
    guarded c [(2, 30)] [(1, 1)] (fun _ =>
      let n := arg c 0 1
      if n > 2 then .fail stBadParam 32
      else writesExt s c (counterSet s n) (fun t =>
        .done 0 (counterBytes n / 4) (if bit (arg c 1 1) 0 then t.zeroCounters n else t)))) c s

/-! ### READ_SELFTEST -/

/-- The self-test report (Table 15.12). -/
def reportBytes (s : State) : List Byte :=
  let r := s.chip.report
  leBytes 1 r.scope ++ leBytes 1 r.kind ++ leBytes 1 r.outcome ++ leBytes 1 r.step ++ leBytes 4 r.ms ++ zeros 56
    ++ (s.chip.spare.map (fun w => word32 w.toNat)).flatten
    ++ r.hstacks.map (fun b => BitVec.ofNat 8 b) ++ r.ports.map (fun b => BitVec.ofNat 8 b) ++ zeros 126

/-- READ_SELFTEST (0x0202, R385). -/
def execReadSelftest (c : Slot) (s : State) : Out :=
  aqvel 0x0202 (extAtLeast 256) .chip anyState (fun s c =>
    guarded c [(0, 32)] [] (fun _ => writesExt s c (slice (reportBytes s) 0 256) (fun t => .done 0 0 t))) c s

/-! ### Events, error records, journal -/

/-- The records from `first` on (0: the oldest), at most as many as both limits allow (R467). -/
def pickRecords (l : List (Nat × List Byte)) (first most : Nat) : List (Nat × List Byte) :=
  (l.filter (fun r => decide (first ≤ r.1))).take most

/-- Records written and counted: result the first one's sequence, detail their number. DESIGN CHOICE (log 13): result 0 when there is
none to write. -/
def recordsReply (s : State) (c : Slot) (size : Nat) (l : List (Nat × List Byte)) (first count : Nat) : Reply :=
  let r := pickRecords l first (min count (c.extLen.toNat / size))
  writesExt s c (r.map (·.2)).flatten (fun t => .done r.length (match r with
    | x :: _ => x.1
    | [] => 0) t)

/-- READ_EVENTS (0x0801, R386). -/
def execReadEvents (c : Slot) (s : State) : Out :=
  aqvel 0x0801 (extRecords 64) .chip anyState (fun s c =>
    guarded c [(12, 20)] [] (fun _ =>
      recordsReply s c 64 (s.aq.events.map (fun e => (e.seq, e.bytes))) (arg c 0 8) (arg c 8 4))) c s

/-- READ_CPER (0x0802, R324). -/
def execReadCper (c : Slot) (s : State) : Out :=
  aqvel 0x0802 (extRecords 328) .chip anyState (fun s c =>
    guarded c [(9, 3), (16, 16)] [(8, 1)] (fun _ =>
      recordsReply s c 328 (if bit (arg c 8 1) 0 then s.flash.cper else s.aq.cper) (arg c 0 8) (arg c 12 4))) c s

/-- CLEAR_SUSPECT (0x0803, R313). -/
def execClearSuspect (c : Slot) (s : State) : Out :=
  aqvel 0x0803 noExt .chip (fun s _ => s.chip.profile != 0 || s.plot0.st == .empty) (fun s c =>
    guarded c [(0, 32)] [] (fun _ =>
      .done 0 0 ((s.withFaultN (fun s => { s with flash := { s.flash with suspect := false } })).onTrain (fun t =>
        { t with suspectSince := none })))) c s

/-- READ_JOURNAL (0x0804, R387). -/
def execReadJournal (c : Slot) (s : State) : Out :=
  aqvel 0x0804 (extRecords 64) .chip anyState (fun s c =>
    guarded c [(12, 20)] [] (fun _ => recordsReply s c 64 s.aq.journal (arg c 0 8) (arg c 8 4))) c s

/-! ### Power and heat -/

/-- One rail of the power record. -/
def railBytes (r : Rail) : List Byte :=
  leBytes 2 r.mv ++ leBytes 2 r.lowest ++ leBytes 4 r.ma ++ leBytes 4 r.mw ++ leBytes 2 (min r.dips 65535) ++ zeros 2

/-- The power record (Table 17.10). -/
def powerRecord (s : State) : List Byte :=
  leBytes 2 1 ++ leBytes 2 6 ++ leBytes 2 s.chip.setpoint ++ zeros 10 ++ (s.power.rails.map railBytes).flatten
    ++ leBytes 8 (s.power.energy / 1000) ++ zeros 8

/-- READ_POWER (0x0A01, R428). -/
def execReadPower (c : Slot) (s : State) : Out :=
  aqvel 0x0A01 (extAtLeast 128) .chip anyState (fun s c =>
    guarded c [(0, 32)] [] (fun _ => writesExt s c (powerRecord s) (fun t =>
      .done 0 (s.power.rails.map (·.mw)).sum
        { t with power := { t.power with
            rails := t.power.rails.map (fun r => { r with lowest := r.mv, dips := 0 }), sampled := false } }))) c s

/-- One sensor of the thermal record. -/
def sensorBytes (x : Sensor) : List Byte :=
  leBytes 2 (twos 16 x.value) ++ leBytes 2 (twos 16 x.peak) ++ leBytes 1 x.st ++ zeros 3

/-- The thermal record (Table 17.11). -/
def thermalRecord (s : State) : List Byte :=
  leBytes 2 1 ++ leBytes 2 24 ++ zeros 4 ++ (s.power.sensors.map sensorBytes).flatten

/-- The highest current reading. -/
def hottest (l : List Sensor) : Int := match l with
  | [] => 0
  | x :: l => l.foldl (fun m y => max m y.value) x.value

/-- READ_THERMAL (0x0A02, R429). -/
def execReadThermal (c : Slot) (s : State) : Out :=
  aqvel 0x0A02 (extAtLeast 200) .chip anyState (fun s c =>
    guarded c [(0, 32)] [] (fun _ => writesExt s c (thermalRecord s) (fun t =>
      .done 0 (twos 64 (hottest s.power.sensors))
        { t with power := { t.power with sensors := t.power.sensors.map (fun x => { x with peak := x.value }) } }))) c s

end Sys2Proof.Machine
end

