-- ==== Sys2Proof/Machine/Firmware.lean ====
section
/-! DEFINITION. Firmware staging and activation (R389 to R391). -/
namespace Sys2Proof.Machine

/-- What is wrong with a staged firmware image: 1 header or length, 2 signature, 3 part or stepping (R390); none when
it is valid. -/
def fwBad (length : Nat) (d : List Byte) : Option Nat :=
  if d.length != length || length < 256 || slice d 0 4 != ascii 4 "AQFW" || fieldAt d 4 2 != 1 || !zeroAt d 6 2
      || !zeroAt d 40 88 || !zeroAt d 224 32 || fieldAt d 36 4 + 256 != length then some 1
  else if !Config.fwSignatureGood d then some 2
  else if slice d 8 16 != ascii 16 "MBF-SX9-384" || !bit (fieldAt d 24 4) 0 then some 3
  else none

/-- The largest firmware bank (R389). -/
def bankBytes : Nat := 24 * 2 ^ 20

/-- The inactive bank replaced. -/
def Flash.setInactive (f : Flash) (b : FwBank) : Flash := { f with banks := f.banks.set (1 - f.active) b }

/-- FW_STAGE (0x0901, R390). -/
def execFwStage (c : Slot) (s : State) : Out :=
  aqvel 0x0901 (fun _ c => c.extLen != 0) .chip anyState (fun s c =>
    guarded c [(17, 15)] [(16, 3)] (fun _ =>
      let off := arg c 0 8
      let len := arg c 8 8
      let first := bit (arg c 16 1) 0
      let last := bit (arg c 16 1) 1
      let have_ := match s.flash.staging with
        | some g => g.data
        | none => []
      if len > bankBytes then .fail stBadParam 40
      else if first && off != 0 then .fail stBadParam 32
      else if !first && (s.flash.staging.isNone || off != have_.length) then .fail stBadParam 32
      else readsExt s c (fun b =>
        let d := (if first then [] else have_) ++ b
        let f := if first then s.flash.setInactive ⟨false, 0, 0⟩ else s.flash
        let f := { f with staging := some ⟨len, d⟩, activateNext := f.activateNext && !first }
        let t := { s with flash := f }
        if last then .accepted t else .done 0 0 t))) c s

/-- FW_STAGE_END: the header and the signature of the whole image are checked (R390). -/
def execFwStageEnd (s : State) : Out :=
  match s.job? 0x0901 with
  | none => .next s
  | some j =>
    let g := s.flash.staging.getD ⟨0, []⟩
    let f := { s.flash with staging := none }
    match fwBad g.length g.data with
    | some d => .next ({ s with flash := f.setInactive ⟨false, 0, 0⟩ }.endJob j stBadParam d 0)
    | none =>
      let v := fieldAt g.data 28 4
      .next ({ s with flash := f.setInactive ⟨true, BitVec.ofNat 32 v, BitVec.ofNat 32 (fieldAt g.data 32 4)⟩ }.endJob j
        stDone 0 v)

/-- FW_ACTIVATE (0x0902, R391). -/
def execFwActivate (c : Slot) (s : State) : Out :=
  aqvel 0x0902 noExt .chip anyState (fun s c =>
    guarded c [(1, 31)] [] (fun _ =>
      let m := arg c 0 1
      if m > 1 then .fail stBadParam 32
      else if !s.flash.inactive.valid then .fail stBadState (s.badStateDetail c)
      else if m == 1 then .done 0 0 { s with flash := { s.flash with activateNext := true } }
      else if s.snap.hamper.any (·.draining) then .fail stBusy 0x0601
      else .accepted { s with chip := { s.chip with restart := some (1 - s.flash.active, true) } })) c s

/-- CONTROLLER_RESTART_END: the controller runs again; one restarted for FW_ACTIVATE runs from the new bank and posts
DONE (R391). Its microprograms wait for the next chip reset. -/
def execControllerRestartEnd (s : State) : Out :=
  match s.chip.restart with
  | none => .next s
  | some (b, fw) =>
    let t := { s with chip := { s.chip with restart := none }, flash := { s.flash with active := b } }
    .next (if fw then t.endOp 0x0902 stDone 0 0 else t)

/-- FW_REVERT_TIMEOUT: no DONE within 2 s, so the previous bank restarts, posts HW_FAULT and raises FW_REVERTED
(R391). -/
def execFwRevertTimeout (s : State) : Out :=
  match s.chip.restart with
  | some (b, true) =>
    let v := (nth s.flash.banks b ⟨false, 0, 0⟩).version
    let t := { s with chip := { s.chip with restart := none } }
    .next ((t.event 0x2A 0 0 (leBytes 4 v.toNat)).endOp 0x0902 stHwFault 0 0)
  | _ => .next s

end Sys2Proof.Machine
end

