-- ==== Sys2Proof/Machine/HostRegs.lean ====
section
/-! DEFINITION. Host registers and rings: queue pairs (R359 to R363), BAR0 writes (R432), the latches (R33, R433),
posts (R403), MSI-X masks (R438), the sideband buffer and endpoint (R364, R365), and resets of the host link (R431). -/
namespace Sys2Proof.Machine

/-! ### Queue pairs -/

/-- A legal ring size: a power of two from 64 to 4,096. -/
def ringSizeOk (n : Nat) : Bool := [64, 128, 256, 512, 1024, 2048, 4096].contains n

/-- Whether a pair's sizes and bases are valid (R360). -/
def Pair.valid (p : Pair) : Bool :=
  ringSizeOk p.sqSize.toNat && ringSizeOk p.cqSize.toNat && p.sqBase.toNat % 64 == 0 && p.cqBase.toNat % 64 == 0
    && p.cqWb.toNat % 64 == 0

/-- Whether a pair exists (R359): pairs 4 to 7 only while the profile gives their VF a plot. -/
def State.pairExists (s : State) (n : Nat) : Bool :=
  n ≤ 3 || (n < 8 && s.chip.profile != 0 && s.plots.any (fun p => p.fn == n - 3))

/-- ENABLE written 1 (R360). -/
def State.pairEnable (s : State) (n : Nat) : State :=
  let p := s.pair n
  if p.running || !s.pairExists n then s
  else if !p.valid then s.onPair n (fun p => { p with configErr := true })
  else (s.onPair n (fun p => { p with
      sqHead := 0, sqTail := 0, cqHead := 0, cqTail := 0, running := true, gen := p.gen + 1
      waiting := [], visible := [] })).onAq (fun a => { a with
        memory := a.memory.filter (fun r => !(r.src == Source.pair n)) })

/-- ENABLE written 0 (R363). -/
def State.pairDisable (s : State) (n : Nat) : State := if (s.pair n).running then s.onPair n Pair.stop else s

/-- A ring fault stops the pair (Table 15.3, R363). -/
def State.pairFault (s : State) (n : Nat) : State := s.onPair n (fun p => { p.stop with ringFault := true })

/-- MGT_SQTAIL written (R361): ignored while stopped, and when it would move past SQHEAD. -/
def State.sqDoorbell (s : State) (n : Nat) (v : W32) : State :=
  let p := s.pair n
  let size := p.sqSize.toNat
  let more := (v.toNat + size - p.sqTail.toNat) % (max size 1)
  if p.running && decide (v.toNat < size) && decide (p.visible.length + more ≤ size - 1) then
    s.onPair n (fun p => { p with sqTail := v, visible := p.visible ++ List.replicate more s.time.cyc })
  else s

/-- MGT_CQHEAD written (R361): ignored while stopped, and when it would move past CQTAIL. -/
def State.cqHeadTo (s : State) (n : Nat) (v : W32) : State :=
  let p := s.pair n
  let size := p.cqSize.toNat
  let d := fun (x : Nat) => (x + size - p.cqHead.toNat) % (max size 1)
  if p.running && decide (v.toNat < size) && decide (d v.toNat ≤ d p.cqTail.toNat) then
    s.onPair n (fun p => { p with cqHead := v })
  else s

/-- MGT_QUEUE_ENABLE. -/
def execMgtQueueEnable (pair : Nat) (s : State) : Out :=
  if pair > 7 then .fault (.noSuchUnit "queue pair") else .next (s.pairEnable pair)

/-- MGT_QUEUE_DISABLE. -/
def execMgtQueueDisable (pair : Nat) (s : State) : Out :=
  if pair > 7 then .fault (.noSuchUnit "queue pair") else .next (s.pairDisable pair)

/-- MGT_SQTAIL_DOORBELL; `readable` false: a slot it covers cannot be read over PCIe (Table 15.3). -/
def execMgtSqtailDoorbell (pair : Nat) (value : W32) (readable : Bool) (s : State) : Out :=
  if pair > 7 then .fault (.noSuchUnit "queue pair")
  else if (s.pair pair).running && !readable then .next (s.pairFault pair)
  else .next (s.sqDoorbell pair value)

/-- MGT_CQHEAD_WRITE. -/
def execMgtCqheadWrite (pair : Nat) (value : W32) (s : State) : Out :=
  if pair > 7 then .fault (.noSuchUnit "queue pair") else .next (s.cqHeadTo pair value)

/-- Free entries of the completion ring (R361). -/
def Pair.ringFree (p : Pair) : Nat :=
  p.cqSize.toNat - 1 - (p.cqTail.toNat + p.cqSize.toNat - p.cqHead.toNat) % (max p.cqSize.toNat 1)

/-- CQ_WAIT: a completion waits for room (Table 15.3). -/
def Pair.cqWait (p : Pair) : Bool := !p.waiting.isEmpty && p.ringFree == 0

/-- COMPLETION_WRITE (R362): the oldest waiting entry is written where CQTAIL points, then the write-back word, then
the vector is signalled; with `ok` false PCIe refused the write and the pair stops. -/
def execCompletionWrite (pair : Nat) (ok : Bool) (s : State) : Out :=
  if pair > 7 then .fault (.noSuchUnit "queue pair")
  else
    let p := s.pair pair
    match p.waiting with
    | [] => .next s
    | w :: rest =>
      if !p.running || p.ringFree == 0 then .next s
      else if !ok then .next (s.pairFault pair)
      else
        let fn := srcFn (.pair pair)
        let next := (p.cqTail.toNat + 1) % (max p.cqSize.toNat 1)
        let t := s.emit (.hostWrite fn (p.cqBase.toNat + 32 * p.cqTail.toNat) w.entry.bytes)
        let t := t.onPair pair (fun p => { p with cqTail := BitVec.ofNat 32 next, waiting := rest })
        let t := t.emit (.hostWrite fn p.cqWb.toNat (leBytes 4 next ++ zeros 4))
        .next (if w.signal then t.signal fn (pairVec pair) else t)

/-! ### Latched reads -/

/-- TIM_NOW_LO read (R33): latches TIM_NOW_HI and TIM_CYCLE. While VALID is clear the manual gives all ones for TIM_NOW_LO and
TIM_NOW_HI and nothing for TIM_CYCLE, which latches 0, its reset value (DESIGN CHOICE, log 92). -/
def execTimNowLoRead (fn : Nat) (s : State) : Out :=
  if fn > 4 then .fault (.noSuchUnit "function")
  else
    let n := s.fabric
    let t := s.onTime (fun t => { t with
      latchHi := BitVec.ofNat 32 (n / 2 ^ 32), latchCycle := if t.valid then t.cycle else 0 })
    .next (t.emit (.regRead fn 0x30000 (n % 2 ^ 32)))

/-- Sequence of the newest event, 0 when none (Table 18.3). -/
def State.eventSeq (s : State) : Nat := s.aq.enext - 1
/-- Sequence of the newest journal record. -/
def State.journalSeq (s : State) : Nat := s.aq.jnext - 1

/-- HST_EVENT_SEQ_LO read (R433). -/
def execHstEventSeqLoRead (fn : Nat) (s : State) : Out :=
  if fn > 4 then .fault (.noSuchUnit "function")
  else
    let n := s.eventSeq
    .next ((s.onHost (fun h => { h with eventHi := BitVec.ofNat 32 (n / 2 ^ 32) })).emit (.regRead fn 0x10 (n % 2 ^ 32)))

/-- HST_JOURNAL_SEQ_LO read (R433). -/
def execHstJournalSeqLoRead (fn : Nat) (s : State) : Out :=
  if fn > 4 then .fault (.noSuchUnit "function")
  else
    let n := s.journalSeq
    .next ((s.onHost (fun h => { h with journalHi := BitVec.ofNat 32 (n / 2 ^ 32) })).emit
      (.regRead fn 0x18 (n % 2 ^ 32)))

/-! ### Posts -/

/-- The serving plot of a function. -/
def State.plotOfFn (s : State) (fn : Nat) : Option Nat := if fn == 0 then none else s.spaceOf fn

/-- HST_PASS_POST written (R403, Table 16.5). -/
def State.passPost (s : State) (fn count : Nat) : State :=
  match s.plotOfFn fn with
  | none => s
  | some n => s.onPlot n (fun p =>
      if p.st == .running && decide (p.pending + count ≤ 65535) then
        { p with pending := p.pending + count, posts := p.posts ++ List.replicate count (p.time / 1024) }
      else { p with refused := true })

/-- HST_PASS_POST. -/
def execHstPassPost (fn count : Nat) (s : State) : Out :=
  if fn > 4 then .fault (.noSuchUnit "function") else .next (s.passPost fn (count % 65536))

/-! ### BAR0 writes -/

/-- The low or high half of a 64-bit register written. -/
def setHalf (r : W64) (hi : Bool) (v : W32) : W64 :=
  if hi then BitVec.ofNat 64 (v.toNat * 2 ^ 32 + r.toNat % 2 ^ 32)
  else BitVec.ofNat 64 (r.toNat / 2 ^ 32 * 2 ^ 32 + v.toNat)

/-- A queue-pair register written (Tables 15.1 to 15.3). -/
def State.writePair (s : State) (n off : Nat) (v : W32) : State :=
  let p := s.pair n
  let set := fun (f : Pair → Pair) => if p.running then s else s.onPair n f
  if !s.pairExists n then s
  else match off with
  | 0x00 => set (fun p => { p with sqBase := setHalf p.sqBase false v })
  | 0x04 => set (fun p => { p with sqBase := setHalf p.sqBase true v })
  | 0x08 => set (fun p => { p with sqSize := v })
  | 0x0C => s.sqDoorbell n v
  | 0x14 => set (fun p => { p with cqBase := setHalf p.cqBase false v })
  | 0x18 => set (fun p => { p with cqBase := setHalf p.cqBase true v })
  | 0x1C => set (fun p => { p with cqSize := v })
  | 0x20 => s.cqHeadTo n v
  | 0x28 => set (fun p => { p with cqWb := setHalf p.cqWb false v })
  | 0x2C => set (fun p => { p with cqWb := setHalf p.cqWb true v })
  | 0x30 => if v.getLsbD 0 then s.pairEnable n else s.pairDisable n
  | 0x34 => s.onPair n (fun p => { p with
      configErr := p.configErr && !v.getLsbD 3, ringFault := p.ringFault && !v.getLsbD 2 })
  | _ => s

/-- A copy or send queue register written (Tables 7.8 to 7.10). An abort of a copy through the register finds the
engine at the bytes moved so far. A STOPPED queue heeds ENABLE alone; ENABLE written 0 to one that runs, without DRAIN, stops it
as ABORT does (R431; log 91). -/
def State.writeQueue (s : State) (q off : Nat) (v : W32) (abort : State → State) : State :=
  let d := s.dmaQ q
  let set := fun (f : DmaQueue → DmaQueue) => if d.st == 0 then s.onQ q f else s
  match off with
  | 0x00 => set (fun d => { d with base := setHalf d.base false v })
  | 0x04 => set (fun d => { d with base := setHalf d.base true v })
  | 0x08 => set (fun d => { d with size := v })
  | 0x0C => s.onQ q (fun d => d.doorbell v)
  | 0x14 => set (fun d => { d with cBase := setHalf d.cBase false v })
  | 0x18 => set (fun d => { d with cBase := setHalf d.cBase true v })
  | 0x20 =>
      if d.st == 0 then (if v.getLsbD 0 then s.onQ q DmaQueue.enable else s)
      else if v.getLsbD 2 then abort s
      else if v.getLsbD 1 then s.queueDrain q
      else if v.getLsbD 0 then s else abort s
  | 0x24 => s.onQ q (fun d => { d with ringFault := d.ringFault && !v.getLsbD 2 })
  | _ => s

/-- An MSI-X table entry's dword written: unmasking a vector with its pending bit set sends its one message (R438). -/
def State.writeMsix (s : State) (fn vec dw : Nat) (v : W32) : State :=
  match (nth s.host.msix fn [])[vec]? with
  | none => s
  | some (a, d, masked, pend) =>
    let e : Nat × Nat × Bool × Bool := match dw with
      | 0 => (a / 2 ^ 32 * 2 ^ 32 + v.toNat, d, masked, pend)
      | 1 => (v.toNat * 2 ^ 32 + a % 2 ^ 32, d, masked, pend)
      | 2 => (a, v.toNat, masked, pend)
      | _ => (a, d, v.getLsbD 0, pend && v.getLsbD 0)
    let t := s.onHost (fun h => { h with msix := modifyAt h.msix fn (fun l => l.set vec e) })
    if dw == 3 && pend && !v.getLsbD 0 then t.emit (.msix fn vec) else t

/-- One aligned 32-bit write into BAR0 of a function (Table 18.2). `sendAbort` is ABORT of the send queue. -/
def State.writeReg (s : State) (fn off : Nat) (v : W32) (sendAbort : State → State) : State :=
  let blk := off / 0x10000
  let o := off % 0x10000
  match blk with
  | 0 =>
    if o == 0x200 then s.passPost fn (v.toNat % 65536)
    else if o == 0x20C then match s.plotOfFn fn with
      | some n => s.onPlot n (fun p => { p with
          refused := p.refused && !v.getLsbD 3, sat := p.sat && !v.getLsbD 2, fault := p.fault && !v.getLsbD 1 })
      | none => s
    else s
  | 1 =>
    if fn == 0 then (if o < 0x100 then s.writePair (o / 0x40) (o % 0x40) v else s)
    else if o < 0x40 then s.writePair (3 + fn) o v else s
  | 2 =>
    if o / 0x40 == fn && (fn == 0 || (s.spaceOf fn).isSome) then
      s.writeQueue fn (o % 0x40) v (fun s => s.queueAbort fn 0)
    else s
  | 3 =>
    if o == 0x00C then s.onTime (fun t => { t with
      beaconFail := t.beaconFail && !v.getLsbD 6, checkFail := t.checkFail && !v.getLsbD 5
      refLost := t.refLost && !v.getLsbD 4 })
    else s
  | 4 =>
    if fn == 0 && o < 0x280 && o % 0x40 == 0 then
      s.onPort (o / 0x40) (fun p => { p with fault := p.fault && !v.getLsbD 12 })
    else s
  | 5 => if fn == 0 && 0x100 ≤ o && o < 0x140 then s.writeQueue 5 (o - 0x100) v sendAbort else s
  | 7 =>
    if o == 0 then s.onHost (fun h => { h with apbase := modifyAt h.apbase fn (fun b =>
      setHalf b false (v &&& 0xFFE00000)) })
    else if o == 4 then s.onHost (fun h => { h with apbase := modifyAt h.apbase fn (fun b =>
      setHalf b true (v &&& 0xFFFF)) })
    else s
  | 15 => if o < 0x8000 then s.writeMsix fn (o / 16) (o % 16 / 4) v else s
  | _ => s

/-- A host copy, post or register write of a chip that is not in reset. -/
def State.writeAccess (s : State) (fn off width : Nat) (value : W64) (sendAbort : State → State) : State :=
  if width == 4 && off % 4 == 0 then s.writeReg fn off (value.setWidth 32) sendAbort
  else if width == 8 && off % 8 == 0 then
    (s.writeReg fn off (value.setWidth 32) sendAbort).writeReg fn (off + 4) ((value >>> 32).setWidth 32) sendAbort
  else s

/-! ### Sideband -/

/-- The 7-bit SMBus address at which the SX9 answers (R364). -/
def State.smbusAddress (s : State) : Nat := 0x10 + s.chip.slotId % 64

/-- The MCTP message that an output of the sideband stands for (R364): message type 0x7E with the integrity-check bit clear, the
PCI vendor ID with its high byte first, the kind byte, a reserved byte, the body. Its packets on the wire and their SMBus binding
are those of the published standards (log 8). -/
def mctpMessage (kind : Nat) (body : List Byte) : List Byte :=
  [0x7E, 0x1F, 0x5C] ++ leBytes 1 kind ++ zeros 1 ++ body

/-- The kind and body of a message that has come in, when its header is that of an Aqvel message (R364). -/
def mctpParse (m : List Byte) : Option (Nat × List Byte) :=
  if m.take 3 == [0x7E, 0x1F, 0x5C] && decide (5 ≤ m.length) then some (fieldAt m 3 1, m.drop 5) else none

/-- SET_ENDPOINT_ID (R364, R370): the bus owner's assignment; a new ID forgets what the endpoints' sequences were. -/
def execSetEndpointId (eid : Byte) (s : State) : Out :=
  let t := s.onAq (fun a => { a with
    eid := some eid
    memory := if a.eid == some eid then a.memory else a.memory.filter (fun r => match r.src with
      | .endpoint _ => false
      | .pair _ => true) })
  .next (t.emit (.mctpAssigned eid))

/-- The first eight bytes of a buffer message (Table 15.4). -/
def bufHead (off n : Nat) : List Byte := leBytes 4 off ++ leBytes 2 n ++ zeros 2

/-- Whether a buffer access is in range: 1 to 1,024 bytes within 64 KiB. -/
def bufRange (off n : Nat) : Bool := decide (1 ≤ n) && decide (n ≤ 1024) && decide (off + n ≤ 65536)

/-- BUF_WRITE (R365), answered by BUF_ACK. -/
def execBufWrite (eid : Byte) (off : Nat) (data : List Byte) (s : State) : Out :=
  if s.aq.eid.isNone then .next s
  else
    let ok := bufRange off data.length
    let t := if ok then s.onAq (fun a => { a with buf := bufPut a.buf off data }) else s
    .next (t.emit (.sideband eid 6 (bufHead off data.length ++ [if ok then 0 else 1])))

/-- BUF_READ (R365): BUF_DATA, or BUF_ACK with 1 when out of range. -/
def execBufRead (eid : Byte) (off n : Nat) (s : State) : Out :=
  if s.aq.eid.isNone then .next s
  else if bufRange off n then
    .next (s.emit (.sideband eid 5 (bufHead off n ++ (List.range n).map (fun i => (cellGet s.aq.buf (off + i)).getD 0))))
  else .next (s.emit (.sideband eid 6 (bufHead off n ++ [1])))

/-! ### Resets of the host link -/

/-- HOST_LINK_RESET: a controller reset (R431, R419). -/
def execHostLinkReset (s : State) : Out := .next s.controllerReset

/-- VF_FLR (R431): the VF's queue pair and copy queue stop as by their ENABLE bits. -/
def execVfFlr (vf : Nat) (s : State) : Out :=
  if vf == 0 || vf > 4 then .fault (.noSuchUnit "virtual function")
  else .next ((s.pairDisable (3 + vf)).queueAbort vf 0)

end Sys2Proof.Machine
end

