-- ==== Sys2Proof/Machine/Time.lean ====
section
/-! DEFINITION. Fabric time (R24 to R33, R41, R42, R416, R417): arming, the epoch edge and its check, loss of the
reference, and the passing of one core cycle. Place: SET_COORD and SET_ROUTE_EPOCH (R379, R261). -/
namespace Sys2Proof.Machine

/-! ### Place -/

/-- The first offending inline offset of SET_COORD's parameters (R379, R11). -/
def coordBad (c : Slot) : Option Nat :=
  let v := fun i => arg c i 1
  let most := [8, 16, 16, 17]
  let shapeMost := [8, 16, 16, 16]
  let bad := fun (i : Nat) => 32 + i
  match (List.range 4).find? (fun i => decide (v (4 + i) ≤ v i)) with
  | some i => some (bad i)
  | none => match (List.range 4).find? (fun i => v (4 + i) == 0 || decide (nth most i 0 < v (4 + i))) with
    | some i => some (bad (4 + i))
    | none => if v 12 > 1 then some (bad 12) else match (List.range 4).find? (fun i => v (8 + i) == 0 || decide (nth shapeMost i 0 < v (8 + i))
          || decide (v (4 + i) < v (8 + i) + (if i == 3 then v 12 else 0))) with
      | some i => some (bad (8 + i))
      | none => ((List.range 3).find? (fun i => decide (v (8 + i) ≤ v (13 + i)))).map (fun i => bad (13 + i))

/-- SET_COORD (0x0503). -/
def execSetCoord (c : Slot) (s : State) : Out :=
  aqvel 0x0503 noExt .chip (fun s _ => trainIn [.empty, .loaded] s && s.ports.all (fun p => p.st == 0 || p.st == 3))
    (fun s c => guarded c [(16, 16)] [] (fun _ => match coordBad c with
      | some o => .fail stBadParam o
      | none =>
        let v := fun i => arg c i 1
        .done 0 0 { s with place := { s.place with
          coord := some ⟨v 0, v 1, v 2, v 3, [v 4, v 5, v 6, v 7], [v 8, v 9, v 10, v 11], v 12,
            [v 13, v 14, v 15]⟩ } })) c s

/-- SET_ROUTE_EPOCH (0x0504): R261 applies at once. -/
def execSetRouteEpoch (c : Slot) (s : State) : Out :=
  aqvel 0x0504 noExt .chip (fun s _ => trainIn [.empty, .loaded] s) (fun s c =>
    guarded c [(1, 31)] [] (fun _ => .done 0 0 (s.newEpoch (arg c 0 1)))) c s

/-! ### Arming -/

/-- Ports as a mask. -/
def portMask (l : List Nat) : Nat := (l.map (fun p => 2 ^ p)).sum

/-- TIME_ARM (0x0506, R29). -/
def execTimeArm (c : Slot) (s : State) : Out :=
  aqvel 0x0506 noExt .chip (fun s _ => trainIn [.empty, .loaded] s) (fun s c =>
    guarded c [(10, 22)] [(9, 3)] (fun _ =>
      let w := arg c 0 4
      if w > 60000 then .fail stBadParam 32
      else
        let mask := arg c 8 2
        let ports := (List.range 10).filter (fun p => if mask == 0 then (s.port p).st == 2 else bit mask p)
        let wait := (if w == 0 then 1000 else w) * Config.cyclesPerMs
        let t := s.onTime (fun t => { t with
          valid := false, armed := true, syncSeen := false, slips := 0
          arming := some ⟨arg c 4 4, ports, [], s.time.cyc + wait, false, false⟩ })
        .accepted (t.onPorts (fun p => { p with minMargin := 0x7FF })))) c s

/-- FTSYNC_RISING_EDGE (R29, R32): the epoch edge of an armed chip, or a check of the grid. -/
def execFtsyncRisingEdge (s : State) : Out :=
  if !s.time.locked then .next s
  else if s.time.armed then
    let t := s.onTime (fun t => { t with
      armed := false, valid := true, syncSeen := true, tick := 0, cycle := 0
      arming := t.arming.map (fun a => { a with edge := true }) })
    let t := t.onPorts (fun p => { p with seqTx := 0, seqRx := 0 })
    .next { t with checks := t.checks.map (fun k => { k with digTx := 0, digRx := 0 }) }
  else if s.time.valid then
    if s.time.cycle == 0 then .next s
    else .next ((s.onTime (fun t => { t with slips := min (t.slips + 1) 255 })).event 0x20 0 0 (leBytes 2 s.time.cycle))
  else .next s

/-- TIME_ARM_WAIT_EXPIRY (R29). -/
def execTimeArmWaitExpiry (s : State) : Out :=
  match s.time.arming, s.job? 0x0506 with
  | some a, some j =>
    if !a.edge && decide (a.deadline ≤ s.time.cyc) then
      .next ((s.onTime (fun t => { t with armed := false, arming := none })).endJob j stDeadline 0 0)
    else .next s
  | _, _ => .next s

/-- A link-control cell (Table 10.15). -/
def ctlCell (subtype : Nat) (payload : List Byte) : List Byte :=
  let b := leBytes 1 3 ++ leBytes 1 subtype ++ zeros 6 ++ slice payload 0 240 ++ zeros 4
  b ++ leBytes 4 (crc32c b).toNat

/-- The payload of an EPOCH_CHECK (Table 10.16). -/
def epochPayload (token tick port : Nat) : List Byte := leBytes 4 token ++ zeros 4 ++ leBytes 8 tick ++ leBytes 1 port

/-- EPOCH_CHECK_SEND (R30, R237): at (8, 0), a cell for slot 0 of tick 8 on every ACTIVE port of the mask. -/
def execEpochCheckSend (s : State) : Out :=
  match s.time.arming with
  | some a =>
    if a.edge && !a.sent && s.time.valid && s.time.tick == 8 && s.time.cycle == 0 then
      let t := a.mask.foldl (fun s p =>
        if (s.port p).st == 2 then
          s.onPort p (fun q => { q with ctl := q.ctl ++ [⟨ctlCell 4 (epochPayload a.token 8 p), s.time.cyc, none⟩] })
        else s) s
      .next (t.onTime (fun t => { t with arming := some { a with sent := true } }))
    else .next s
  | none => .next s

/-- A port passes when exactly one epoch-check cell came, with this chip's token and time (R30). -/
def Arming.passed (a : Arming) (p : Nat) : Bool := a.seen.filter (fun x => x.1 == p) == [(p, true)]

/-- EPOCH_CHECK_WINDOW_CLOSE (R30): at (16, 0), DONE or ABORTED. -/
def execEpochCheckWindowClose (s : State) : Out :=
  match s.time.arming, s.job? 0x0506 with
  | some a, some j =>
    if a.edge && s.time.valid && decide (16 ≤ s.time.tick) then
      let bad := a.mask.filter (fun p => !a.passed p)
      let t := s.onTime (fun t => { t with arming := none })
      if bad.isEmpty then .next (t.endJob j stDone 0 0)
      else .next ((t.onTime (fun t => { t with valid := false, checkFail := true })).endJob j stAborted (portMask bad) 0)
    else .next s
  | _, _ => .next s

/-! ### The reference -/

/-- A TIME_ARM in progress ended by the loss of the reference (R41). -/
def State.armLost (s : State) : State :=
  match s.time.arming, s.job? 0x0506 with
  | some a, some j =>
    let bad := if a.edge then a.mask.filter (fun p => !a.passed p) else a.mask
    (s.onTime (fun t => { t with armed := false, arming := none, checkFail := true })).endJob j stAborted (portMask bad) 0
  | _, _ => s

/-- REF_LOST (R41, R177, R333, R417). -/
def execRefLost (s : State) : Out :=
  if !s.time.locked && !s.time.ftref then .next s
  else
    let out := s.outing
    let t := s.endHamper.haltTraining.haltServing
    let t := t.onTime (fun t => { t with
      pll := .holdover, locked := false, ftref := false, valid := false, refLost := true })
    let t := t.armLost
    let t := (t.onPorts (fun p => if p.st == 0 then p else p.fail 0x0B)).linkTrainEnd
    let t := (List.range 5).foldl (fun t q => t.queueAbort q 0) t
    let t := t.abortWork (fun j => j.opcode == 0x0203)
    let t := if t.chip.trained then t.refreshBy (List.range 8) .selfRefresh else t
    .next (t.notice 0x18 Site.none (if out then 4 else 9) 0xFF)

/-- The core PLL leaves holdover for PCIE_REFCLK: the controller takes the trained stacks out of self-refresh, except in HOLD,
and the reads that waited for them are answered (R41, R42, R93, R416). -/
def State.leaveHoldover (s : State) : State :=
  if s.time.pll == .holdover then
    let t := s.onTime (fun t => { t with pll := .pcie })
    (if t.chip.trained then t.rest (List.range 8) else t).releaseReads
  else s

/-- Whether any plot runs (R416). -/
def State.anyRunning (s : State) : Bool := s.plots.any (fun p => p.st == .running || p.st == .draining)

/-- CORE_PLL_LOCK (R27, R416): FTREF meets R24; the PLL moves to it and LOCKED is set, unless a plot is RUNNING. A PLL still in
holdover moves by way of PCIE_REFCLK (log 82). -/
def execCorePllLock (s : State) : Out :=
  let t := s.onTime (fun t => { t with ftref := true })
  if s.anyRunning && s.time.pll != .ftref then .next t
  else .next (t.leaveHoldover.onTime (fun t => { t with pll := .ftref, locked := true }))

/-- PLL_REFERENCE_SWITCH (R416, R41, R93): out of holdover to PCIE_REFCLK. -/
def execPllReferenceSwitch (s : State) : Out := .next s.leaveHoldover

/-! ### One core cycle (log 2) -/

/-- Plot time of a serving plot: it counts while the plot is RUNNING or DRAINING (R401). -/
def Plot.tickOn (p : Plot) : Plot :=
  if p.st == .running || p.st == .draining then { p with time := p.time + 1 } else p

/-- The time block one cycle later. -/
def TimeBlock.next (t : TimeBlock) : TimeBlock :=
  let t := { t with cyc := t.cyc + 1 }
  if t.valid then
    if t.cycle + 1 == 1024 then { t with cycle := 0, tick := t.tick + 1 } else { t with cycle := t.cycle + 1 }
  else t

/-- One core cycle passes: the free-running counter, fabric time while VALID, plot time of running serving plots, and the final
vote word whose cycle has come (R293). -/
def State.cycle (s : State) : State :=
  ({ s with
    time := s.time.next
    plots := if s.chip.profile == 0 then s.plots else s.plots.map Plot.tickOn } : State).writeDue

end Sys2Proof.Machine
end

