-- ==== Sys2Proof/Machine/Links.lean ====
section
/-! DEFINITION. Links: training and calibration (R214 to R216, R34, R35), slot departure (R222, R223), link-control
and idle cells (R218, R236, R237), Linby groups (R213), link faults of the lanes (R233), failed cells (R219), and the beacon's deadline (R38). -/
namespace Sys2Proof.Machine

/-! ### LINK_TRAIN -/

/-- The most lanes of a port (Table 10.1). -/
def maxLanes (p : Nat) : Nat := if p < 4 then 16 else if p < 8 then 12 else 8

/-- A port that starts training: its counters zeroed (R217). -/
def Port.startTraining (p : Port) (lanes pinned : Nat) : Port :=
  { Port.reset with
    st := 1, reason := p.reason, fault := p.fault || p.st == 2, lanes := lanes, inSlice := p.inSlice, pinned := pinned
    minMargin := p.minMargin, seqTx := p.seqTx, seqRx := p.seqRx
    train := some ⟨1, lanes, pinned, false, false, false, 0, 0, []⟩ }

/-- LINK_TRAIN (0x0501, R215): refused before SET_COORD (R216). -/
def execLinkTrain (c : Slot) (s : State) : Out :=
  aqvel 0x0501 noExt .chip (fun s _ => trainIn [.empty, .loaded, .parked] s) (fun s c =>
    guarded c [(3, 1), (8, 24)] [(1, 3)] (fun _ =>
      let n := arg c 2 1
      let pin := if arg c 4 2 == 0 then 160 else arg c 4 2
      let m := trainMask c
      if s.place.coord.isNone then .fail stBadState (s.badStateDetail c)
      else if !([8, 12, 16].contains n) || m.any (fun p => decide (maxLanes p < n)) then .fail stBadParam 34
      else if pin < 96 || 2047 < pin then .fail stBadParam 36
      else if 10000 < arg c 6 2 then .fail stBadParam 38
      else
        let t := m.foldl (fun s p => (s.onPort p (fun q => q.startTraining n pin)).onCheck p (fun k =>
          { PortCheck.reset with digTx := k.digTx, digRx := k.digRx })) s
        .acceptedThen t State.linkTrainEnd)) c s

/-- A training port that fails. -/
def State.trainFail (s : State) (p reason : Nat) : State := (s.onPort p (fun q => q.fail reason)).linkTrainEnd

/-- The training of a port changed. -/
def State.onTraining (s : State) (p : Nat) (f : Training → Training) : State :=
  s.onPort p (fun q => { q with train := q.train.map f })

/-- PMD_TRAINING_END: on to codeword lock, or FAILED with PMD_TRAIN (R215). -/
def execPmdTrainingEnd (port : Nat) (ok : Bool) (s : State) : Out :=
  if port > 9 then .fault (.noSuchUnit "port")
  else match (s.port port).train with
    | some t =>
      if t.stage != 1 then .next s
      else if ok then .next (s.onTraining port (fun t => { t with stage := 2 }))
      else .next (s.trainFail port 0x02)
    | none => .next s

/-- LINK_TRAIN_PORT_ACTIVE: a port past its last stage becomes ACTIVE (R215). -/
def execLinkTrainPortActive (port : Nat) (s : State) : Out :=
  if port > 9 then .fault (.noSuchUnit "port")
  else match (s.port port).train with
    | some t =>
      if t.stage == 5 then .next (s.onPort port (fun q => { q with st := 2, train := none })).linkTrainEnd
      else .next s
    | none => .next s

/-- The wait limit of LINK_TRAIN in milliseconds. -/
def trainWait (c : Slot) : Nat := if arg c 6 2 == 0 then 2000 else arg c 6 2

/-- LINK_TRAIN_WAIT_EXPIRY: every port of the mask that is not yet ACTIVE fails with TIMEOUT (R215). -/
def execLinkTrainWaitExpiry (s : State) : Out :=
  match s.job? 0x0501 with
  | none => .next s
  | some j =>
    if decide (j.began + trainWait j.slot * Config.cyclesPerMs ≤ s.time.cyc) then
      .next ((trainMask j.slot).foldl (fun s p => s.onPort p (fun q => if q.st == 1 then q.fail 0x0C else q)) s).linkTrainEnd
    else .next s

/-- The LINK_STATE result (Table 10.5). -/
def linkResult (p : Port) : Nat :=
  p.st + p.lanes * 2 ^ 3 + p.pinned * 2 ^ 8 + p.measured * 2 ^ 19 + p.reason * 2 ^ 30 + p.minMargin * 2 ^ 38

/-- The LINK_STATE detail. -/
def linkDetail (p : Port) : Nat := match p.neigh with
  | some n => coordNat n.t n.e n.p n.d + n.port * 2 ^ 20
  | none => 0

/-- LINK_STATE (0x0502). -/
def execLinkState (c : Slot) (s : State) : Out :=
  aqvel 0x0502 noExt .chip anyState (fun s c =>
    guarded c [(1, 31)] [] (fun _ =>
      let p := arg c 0 1
      if p > 9 then .fail stBadParam 32 else .done (linkDetail (s.port p)) (linkResult (s.port p)) s)) c s

/-! ### Identity and calibration -/

/-- The payload of an IDENTITY (Table 10.16). -/
def State.identity (s : State) (p : Nat) (t : Training) (seen : Bool) : List Byte :=
  leBytes 3 s.selfChip ++ leBytes 1 p ++ leBytes 1 (s.chip.slotId % 64) ++ leBytes 1 t.lanes ++ leBytes 2 t.pinned
    ++ (match s.place.coord with
      | some c => c.ext.map (fun e => BitVec.ofNat 8 e)
      | none => zeros 4) ++ serialBytes ++ leBytes 1 (b2n seen)

/-- The coordinate that a port expects to reach (R207, R216). -/
def expectCoord (c : Coord) (p : Nat) : Nat :=
  let up := fun (x n k : Nat) => (x + k) % max n 1
  let go := fun (x a k : Nat) => if p % 2 == 0 then up x (nth c.ext a 1) k
    else up x (nth c.ext a 1) (2 * max (nth c.ext a 1) 1 - k)
  match p / 2 with
  | 0 => coordNat (go c.t 0 1) c.e c.p c.d
  | 1 => coordNat c.t (go c.e 1 1) c.p c.d
  | 2 => coordNat c.t c.e (go c.p 2 1) c.d
  | 3 => coordNat c.t c.e c.p (go c.d 3 1)
  | _ => coordNat c.t c.e c.p (go c.d 3 2)

/-- The port at the far end: X+ meets X−. -/
def farPort (p : Nat) : Nat := if p % 2 == 0 then p + 1 else p - 1

/-- What is wrong with an IDENTITY (R216): the reason, or none. -/
def State.identityBad (s : State) (p : Nat) (t : Training) (b : List Byte) : Option Nat :=
  match s.place.coord with
  | none => some 0x04
  | some c =>
    if fieldAt b 0 3 != expectCoord c p || fieldAt b 3 1 != farPort p then some 0x04
    else if fieldAt b 5 1 != t.lanes || fieldAt b 6 2 != t.pinned || (slice b 8 4).map (·.toNat) != c.ext then some 0x05
    else none

/-- An IDENTITY received. -/
def State.takeIdentity (s : State) (p : Nat) (b : List Byte) : State :=
  match (s.port p).train with
  | none => s
  | some t =>
    let n := fieldAt b 0 3
    let s := s.onPort p (fun q => { q with
      neigh := some ⟨n / 32768 % 32, n / 1024 % 32, n / 32 % 32, n % 32, fieldAt b 3 1⟩ })
    match s.identityBad p t b with
    | some r => s.trainFail p r
    | none => s.onTraining p (fun t => { t with good := true, seenRx := t.seenRx || bit (fieldAt b 28 1) 0 })

/-- The measured latency from the exchanges: the largest one-way value, rounded up (R34). -/
def measuredOf (trips : List (Nat × Int)) : Int := trips.foldl (fun m x => max m ((x.2 + 1) / 2)) 0

/-- A CAL_RESP received at core cycle t4; the 64th decides (R34, R35). A latency beyond the 11 bits of the MEASURED field is
kept as 0x7FF, the code for none (DESIGN CHOICE, log 83). -/
def State.takeCalResp (s : State) (p : Nat) (b : List Byte) : State :=
  match (s.port p).train with
  | none => s
  | some t =>
    let i := fieldAt b 0 2
    if t.stage != 4 || 64 ≤ i || t.trips.any (fun x => x.1 == i) then s
    else
      let trip : Int := (s.time.cyc : Int) - fieldAt b 8 8 - ((fieldAt b 24 8 : Int) - fieldAt b 16 8)
      let trips := (i, trip) :: t.trips
      let s := s.onTraining p (fun t => { t with trips := trips })
      if trips.length < 64 then s
      else
        let m := measuredOf trips
        let s := s.onPort p (fun q => { q with measured := min m.toNat 0x7FF })
        if (t.pinned : Int) - 8 < m then s.trainFail p 0x06
        else if 1024 < (t.pinned : Int) - m then s.trainFail p 0x07
        else s.onTraining p (fun t => { t with stage := 5 })

/-- A CAL_REQ received: answered in the first unreserved slot at least 64 cycles later (R237). -/
def State.takeCalReq (s : State) (p : Nat) (b : List Byte) : State :=
  let body := slice b 0 2 ++ zeros 6 ++ slice b 8 8 ++ leBytes 8 s.time.cyc
  s.onPort p (fun q => { q with ctl := q.ctl ++ [⟨ctlCell 3 body, s.time.cyc + 64, some 32⟩] })

/-- An EPOCH_CHECK released (R30): in an epoch this chip armed, on a port of its mask, within the window. -/
def State.takeEpochCheck (s : State) (p : Nat) (b : List Byte) : State :=
  match s.time.arming with
  | some a =>
    if a.edge && s.time.valid && decide (s.time.tick < 16) && a.mask.contains p then
      let ok := fieldAt b 0 4 == a.token && fieldAt b 8 8 == 8 && s.fabricCycle == 8 * 1024 + (s.port p).pinned
      s.onTime (fun t => { t with arming := some { a with seen := a.seen ++ [(p, ok)] } })
    else s.onPort p (fun q => { q with cellErr := sat32 (q.cellErr + 1) })
  | none => s.onPort p (fun q => { q with cellErr := sat32 (q.cellErr + 1) })

/-! ### Failed cells -/

/-- A failed cell in a reserved ingress slot, or a scheduled cell in a slot that is not reserved (R219): counted, and
a CELL_FAULT in the run and phase of its slot. -/
def State.cellFault (s : State) (p slot phase : Nat) (r : Run) : State :=
  (s.onPort p (fun q => { q with cellErr := sat32 (q.cellErr + 1) })).faultOf r phase 0x05 (Site.port p slot)

/-- What follows for a reserved ingress slot of a run whose cell failed (R219, R226, R293): a beacon slot serves the beacon;
a forwarded cell leaves void; a vote word due is replaced. -/
def State.cellFailed (s : State) (p slot k : Nat) (ph : PhaseEntry) (r : Run) (e : SlotEntry) (voteDue : Bool) : State :=
  if e.isBeacon ph then
    (s.onPort p (fun q => { q with cellErr := sat32 (q.cellErr + 1) })).onCheck p (fun c => { c with digRx := 0 })
  else
    let t := s.cellFault p slot k r
    if e.kind == 2 then
      t.onPort (t.physPort e.out) (fun q => { q with
        fwd := q.fwd ++ [⟨k, e.tag, schedCell 4 k e.tag 0 s.place.epoch 0 [] 0⟩] })
    else if e.kind == 4 && s.isNow r then t.voteArrive p s.fabricCycle none voteDue false
    else t

/-- IDLE_CELL_RECEIVE: discarded (R218). -/
def execIdleCellReceive (port : Nat) (_cell : List Byte) (s : State) : Out :=
  if port > 9 then .fault (.noSuchUnit "port") else .next s

/-! ### Lanes -/

/-- More than 8 uncorrectable codewords on a port within 1,024 ticks (R233). -/
def uncorrWindow (l : List Nat) (now n : Nat) : List Nat := l.filter (fun t => now < t + 1024) ++ List.replicate n now

/-- A lane's group checked: descrambled, marker, info check, port, lane and index (R213). -/
def groupCheck (port lane : Nat) (rx : LaneRx) (g : BitVec 25700) : Bool × LaneRx :=
  let marker := g.toNat % 2 ^ 64
  let r := ((List.range 25636).map (fun i => g.getLsbD (64 + i))).foldl descrambleBit ([], rx.reg)
  let body := bytesOf (r.1.reverse.take 64)
  let info := slice body 0 6
  let idx := fieldAt info 1 1 % 8
  let ok := marker == groupMarker && fieldAt body 6 2 == (crc16 info).toNat && fieldAt info 0 1 == farPort port + 16 * lane
    && decide (idx < 5) && (match rx.next with
      | some n => idx == n
      | none => true)
  let next := if ok then some ((idx + 1) % 5) else rx.next.map (fun n => (n + 1) % 5)
  (ok, ⟨if ok then 0 else rx.bad + 1, r.2, rx.locked || ok, next⟩)

/-- What a lost lock does: a link fault, or the end of the training (R213, R233). -/
def State.lockLost (s : State) (p : Nat) : State :=
  if (s.port p).st == 2 then s.linkFault p 0x03 else if (s.port p).st == 1 then s.trainFail p 0x03 else s

/-- LINBY_GROUP_RECEIVE (R210, R211, R213, R233). -/
def execLinbyGroupReceive (g : GroupRx) (s : State) : Out :=
  if g.port > 9 then .fault (.noSuchUnit "port")
  else
    let q := s.port g.port
    let stage := match q.train with
      | some t => t.stage
      | none => 0
    if !(q.st == 2 || (q.st == 1 && 2 ≤ stage)) || q.lanes ≤ g.lane then .next s
    else
      let r := groupCheck g.port g.lane (nth (s.check g.port).lanes g.lane LaneRx.reset) g.group
      let win := uncorrWindow (s.check g.port).uncorr s.ownTick g.uncorrectable
      let t := s.onPort g.port (fun q => { q with
        fecCorr := sat32 (q.fecCorr + g.corrected), fecUncorr := sat32 (q.fecUncorr + g.uncorrectable) })
      let t := t.onCheck g.port (fun k => { k with lanes := k.lanes.set g.lane r.2, uncorr := win })
      let t := if (r.2.locked && 3 ≤ r.2.bad) || !g.skewOk then t.lockLost g.port else t
      let t := if q.st == 2 && 8 < win.length then t.linkFault g.port 0x0A else t
      if stage == 2 && (t.port g.port).st == 1
          && (List.range q.lanes).all (fun l => (nth (t.check g.port).lanes l LaneRx.reset).locked) then
        .next (t.onTraining g.port (fun t => { t with stage := 3 }))
      else .next t

/-- LANE_SIGNAL_LOSS: NO_SIGNAL on a trained lane (R233). -/
def execLaneSignalLoss (port lane : Nat) (s : State) : Out :=
  if port > 9 then .fault (.noSuchUnit "port")
  else
    let q := s.port port
    if q.lanes ≤ lane then .next s
    else if q.st == 2 then .next (s.linkFault port 0x01)
    else if q.st == 1 then .next (s.trainFail port 0x01)
    else .next s

/-! ### Slot departure -/

/-- What leaves in slot 0 of a tick on a training port (R237), with the state after it. -/
def State.trainingCell (s : State) (p : Nat) (t : Training) : Option (List Byte) × State :=
  if t.stage == 3 then
    let seen := t.good
    let both := t.seenTx && t.seenRx
    let s := s.onTraining p (fun t => { t with
      seenTx := t.seenTx || seen, extra := if both then t.extra + 1 else t.extra
      stage := if both && t.extra + 1 == 16 then 4 else 3 })
    (some (ctlCell 1 (s.identity p t seen)), s)
  else if t.stage == 4 && t.reqs < 64 then
    (some (ctlCell 2 (leBytes 2 t.reqs ++ zeros 6 ++ leBytes 8 s.time.cyc)),
      s.onTraining p (fun t => { t with reqs := t.reqs + 1 }))
  else (none, s)

/-- A waiting link-control cell with the cycle counter put where its payload holds t3. -/
def CtlCell.stamped (c : CtlCell) (now : Nat) : List Byte :=
  match c.stampAt with
  | some at_ => withCheck (slice c.bytes 0 at_ ++ leBytes 8 now ++ slice c.bytes (at_ + 8) (252 - (at_ + 8)))
  | none => c.bytes

/-- The link-control cell that may leave now, taken from its port. -/
def State.takeCtl (s : State) (p : Nat) : Option (List Byte) × State :=
  match (s.port p).ctl.find? (fun c => decide (c.notBefore ≤ s.time.cyc)) with
  | some c => (some (c.stamped s.time.cyc), s.onPort p (fun q => { q with ctl := q.ctl.erase c }))
  | none => (none, s)

/-- A slot that no entry reserves: link control, then a background packet while the plane is enabled, then idle (R223, R236,
R238). -/
def State.unreserved (s : State) (p slot : Nat) : State :=
  let c := s.takeCtl p
  match c.1 with
  | some b => c.2.passSlot p slot (some b)
  | none =>
    match if s.planeOn then (s.port p).bg.find? (fun x => x.1 == slot) else none with
    | some x => (s.onPort p (fun q => { q with bg := q.bg.erase x })).passSlot p slot (some (x.2.departed s.time.cyc))
    | none => s.passSlot p slot (some idleCell)

/-- The beacon's payload (Table 2.7). -/
def State.beaconPayload (s : State) (p phase : Nat) : List Byte :=
  let clean := match s.train.run with
    | some r => r.failed == 0
    | none => true
  leBytes 8 s.stepNow ++ leBytes 2 phase ++ leBytes 1 s.place.epoch ++ leBytes 1 (b2n clean) ++ zeros 4
    ++ leBytes 8 (s.check p).digTx ++ leBytes 8 s.time.tick

/-- The tile of a slot's entry has abandoned its list (R66). -/
def State.voidFor (s : State) (e : SlotEntry) : Bool := e.tile != 0xFF && (s.tile e.tile).abandoned

/-- What leaves in a slot that an entry reserves for egress (R223, R226, R52, R66). -/
def State.reserved (s : State) (p slot : Nat) (e : SlotEntry) : State :=
  let now := s.fabricCycle
  match e.kind with
  | 0 =>
    if e.tile == 0xFF then
      match (s.port p).fwd.find? (fun c => c.phase == e.phase && c.tag == e.tag) with
      | some c => (s.onPort p (fun q => { q with fwd := q.fwd.erase c })).sendScheduled p slot (fieldAt c.bytes 0 1) e.phase
          e.tag (fieldAt c.bytes 4 2) (slice c.bytes 8 240) false
      | none => s.passSlot p slot none
    else match (s.port p).egress.find? (fun c => c.phase == e.phase && c.tag == e.tag) with
      | some c => (s.onPort p (fun q => { q with egress := q.egress.erase c })).sendScheduled p slot
          (4 * b2n c.void + 8 * b2n c.poison) e.phase e.tag c.index (if c.void then [] else c.payload) false
      | none => if s.voidFor e then s.sendScheduled p slot 4 e.phase e.tag 0 [] false else s.passSlot p slot none
  | 3 =>
    let beacon := match s.phaseAt s.time.tick with
      | some (_, ph) => e.isBeacon ph
      | none => false
    if beacon then
      (s.onPort p (fun q => { q with beaconDue := false })).sendScheduled p slot 0 e.phase e.tag 0
        (s.beaconPayload p e.phase) true
    else s.sendScheduled p slot 4 e.phase e.tag 0 [] false
  | _ =>
    let v := s.voteDepart p now
    match v.1 with
    | some b => v.2.sendScheduled p slot 0 e.phase e.tag 0 b false
    | none => s.sendScheduled p slot 4 e.phase e.tag 0 [] false

/-- SLOT_DEPARTURE (R222, R223): at the slot's cycle of the tick. At any other cycle, nothing departs. A port
that is not training or ACTIVE takes what its reserved entries would send, and drops it (R234). -/
def execSlotDeparture (port slot : Nat) (s : State) : Out :=
  if port > 9 then .fault (.noSuchUnit "port")
  else
    let q := s.port port
    let idle := !(q.st == 1 || q.st == 2)
    if q.slots ≤ slot || s.slotCycle != q.departs slot then .next s
    else match q.train with
      | some t =>
        if t.stage < 2 || idle then .next s
        else
          let c := if slot == 0 then s.trainingCell port t else (none, s)
          match c.1 with
          | some b => .next (c.2.passSlot port slot (some b))
          | none =>
            let c := s.takeCtl port
            .next (c.2.passSlot port slot c.1)
      | none =>
        match if s.time.valid then s.egressEntry port s.time.tick slot else none with
        | some e => .next (s.reserved port slot e)
        | none => if idle then .next s else .next (s.unreserved port slot)

/-! ### The beacon's deadline -/

/-- Cycle at which a port's beacon of a phase is expected (R38). -/
def State.beaconExpected (s : State) (p : Nat) (r : Run) (ph : PhaseEntry) : Nat :=
  r.phaseStart ph + (s.port p).departs ph.beacon + (s.port p).pinned

/-- Whether a beacon's deadline has come: the end of the tick that holds its expected cycle. -/
def BeaconDue.past (b : BeaconDue) (now : Nat) : Bool := decide ((b.expected / 1024 + 1) * 1024 ≤ now + 1)

/-- The run of a beacon's phase: the one in progress, or the one before. -/
def State.beaconRun (s : State) (b : BeaconDue) : Option Run :=
  match s.train.run.filter (fun r => r.base == b.base) with
  | some r => some r
  | none => (s.train.past.filter (fun x => x.run.base == b.base)).map (·.run)

/-- BEACON_DEADLINE: at the end of the tick of the expected cycle, a port's oldest beacon that waits is judged once (R38 to
R40), in the phase and run it belongs to. -/
def execBeaconDeadline (port : Nat) (s : State) : Out :=
  if port > 9 then .fault (.noSuchUnit "port")
  else match (s.check port).beacons with
    | [] => .next s
    | b :: bs =>
      if !b.past s.fabricCycle then .next s
      else
        let t := s.onCheck port (fun k => { k with beacons := bs })
        if b.got == some true then .next t
        else match s.beaconRun b with
          | none => .next t
          | some r =>
            .next ((t.onTime (fun x => { x with beaconFail := true })).faultOf r b.phase 0x06 (Site.port port b.slot))

end Sys2Proof.Machine
end

