-- ==== Sys2Proof/Machine/Bgp.lean ====
section
/-! DEFINITION. The background plane's ground: when it runs (R238), packets (R239, R240), distances and productive ports
(R243), quotas (R242), send streams (R252, R257 to R259), and acknowledgements (R256). -/
namespace Sys2Proof.Machine

/-! ### Where the plane runs -/

/-- A usable port (R238): ACTIVE, declared used, and in the slice. -/
def State.usable (s : State) (p : Nat) : Bool := (s.port p).st == 2 && s.imageUses p && s.belongs p

/-! ### Distances (R243) -/

/-- The t, e, p or d of a 20-bit chip number. -/
def chipAxis (c a : Nat) : Nat := c / 2 ^ (15 - 5 * a) % 32

/-- A chip's position along T, E or P relative to the slice's origin, when it lies in the slice. -/
def State.relPos (s : State) (c a : Nat) : Option Nat := match s.place.coord with
  | none => none
  | some k =>
    let n := nth k.ext a 1
    let own := match a with
      | 0 => k.t
      | 1 => k.e
      | _ => k.p
    let x := (chipAxis c a + 2 * n - own + nth k.member a 0) % max n 1
    if chipAxis c a < n && x < nth k.shape a 1 then some x else none

/-- The distance along T, E or P between two positions. -/
def State.axisDist (s : State) (a x y : Nat) : Nat :=
  let n := s.extent a
  if s.isRing a then
    let f := (y + n - x) % max n 1
    min f (n - f)
  else if x ≤ y then y - x else x - y

/-- One round of the D distance table: the planes that D and C cables join. -/
def relaxD (n : Nat) (live : Nat → Bool) (d : List (Option Nat)) : List (Option Nat) :=
  (List.range n).map (fun x =>
    let near := [(x + 1) % n, (x + n - 1) % n, (x + 2) % n, (x + 2 * n - 2) % n].filterMap (fun y =>
      if y != x && live y then nth d y none else none)
    if !live x then none
    else match nth d x none, near with
      | some a, l => some (l.foldl (fun m b => min m (b + 1)) a)
      | none, b :: l => some (l.foldl (fun m c => min m (c + 1)) (b + 1))
      | none, [] => none)

/-- Rounds of the table. -/
def relaxDs (n : Nat) (live : Nat → Bool) : Nat → List (Option Nat) → List (Option Nat)
  | 0, d => d
  | k + 1, d => relaxDs n live k (relaxD n live d)

/-- The other planes' distances to plane `dst` over planes that are neither skipped nor absent. A path from here leaves this
chip's own plane once and for all, so that plane is no relay: whether its own cables are usable decides the first hop alone. -/
def State.dTable (s : State) (dst : Nat) : List (Option Nat) :=
  let n := max s.planes 1
  let live := fun x => s.mark x != 0xFF && s.mark x != 0xFD && s.plane != some x
  relaxDs n live n ((List.range n).map (fun x => if x == dst && live x then some 0 else none))

/-- The least of a list of distances. -/
def leastOf (l : List Nat) : Option Nat := match l with
  | [] => none
  | a :: l => some (l.foldl min a)

/-- This chip's distance along D: its own cables count only while usable. -/
def State.ownD (s : State) (dst : Nat) : Option Nat :=
  if s.plane == some dst then some 0
  else leastOf ([6, 7, 8, 9].filterMap (fun p => if s.usable p then (nth (s.dTable dst) (s.planeAt p) none).map (· + 1) else none))

/-- The distances along T, E and P from a shift of this chip by one hop (axis and direction), or from itself. -/
def State.teDist (s : State) (c : Nat) (hop : Option (Nat × Bool)) : Option Nat :=
  (List.range 3).foldl (fun (r : Option Nat) a => match r, s.relPos c a with
    | some r, some y =>
      let x := s.axisIndex a
      let n := max (s.extent a) 1
      let x := match hop with
        | some (b, plus) => if b == a then (if plus then (x + 1) % n else (x + n - 1) % n) else x
        | none => x
      some (r + s.axisDist a x y)
    | _, _ => none) (some 0)

/-- This chip's distance to a chip. -/
def State.dist (s : State) (c : Nat) : Option Nat := match s.teDist c none, s.ownD (chipAxis c 3) with
  | some a, some b => some (a + b)
  | _, _ => none

/-- The distance to a chip from the chip that a port reaches. -/
def State.distVia (s : State) (c p : Nat) : Option Nat :=
  if p < 6 then match s.teDist c (some (p / 2, p % 2 == 0)), s.ownD (chipAxis c 3) with
    | some a, some b => some (a + b)
    | _, _ => none
  else match s.teDist c none, nth (s.dTable (chipAxis c 3)) (s.planeAt p) none with
    | some a, some b => some (a + b)
    | _, _ => none

/-- The productive ports for a chip. -/
def State.productive (s : State) (c : Nat) : List Nat := match s.dist c with
  | none => []
  | some d => (List.range 10).filter (fun p => s.usable p && (s.distVia c p).map (· + 1) == some d)

/-- A destination that no usable port leads to (R241 rule 4, R243). -/
def State.unroutable (s : State) (c : Nat) : Bool := c != s.selfChip && (s.productive c).isEmpty

/-! ### Quotas (R242) -/

/-- The unreserved egress slots of a port in the current tick. -/
def State.freeEgress (s : State) (p : Nat) : List Nat :=
  (List.range (s.port p).slots).filter (fun k => (s.egressEntry p s.time.tick k).isNone)

/-- The quota slots: the first Q(n) unreserved egress slots. -/
def State.quotaSlots (s : State) (p : Nat) : List Nat :=
  let e := s.freeEgress p
  let i := (List.range (s.port p).slots).filter (fun k => (s.ingressEntry p s.time.tick k).isNone)
  e.take (min e.length i.length)

/-- A slot that may carry a packet: its departure in core cycles, its port, its number. -/
structure Slot1 where
  at_ : Nat
  port : Nat
  slot : Nat
  deriving DecidableEq, Repr, Inhabited

/-- The quota slots of the usable ports of the current tick that have not been given away and have not passed. -/
def State.openSlots (s : State) : List Slot1 :=
  let base := s.time.cyc - s.time.cycle
  ((List.range 10).map (fun p => if s.usable p then
      ((s.quotaSlots p).filter (fun k => !(s.port p).bg.any (fun b => b.1 == k) && decide (s.time.cycle ≤ (s.port p).departs k))).map
        (fun k => (⟨base + (s.port p).departs k, p, k⟩ : Slot1))
    else [])).flatten

/-- The earlier of two slots, the lower port among equals. -/
def Slot1.before (a b : Slot1) : Bool := a.at_ < b.at_ || (a.at_ == b.at_ && decide (a.port ≤ b.port))

/-- The earliest slot of a list. -/
def earliest : List Slot1 → Option Slot1
  | [] => none
  | a :: l => match earliest l with
    | none => some a
    | some b => some (if a.before b then a else b)

/-- A packet given a slot. -/
def State.giveSlot (s : State) (x : Slot1) (b : Packet) : State :=
  s.onPort x.port (fun q => { q with bg := q.bg ++ [(x.slot, b)] })

/-! ### Streams -/

/-- Whether a stream ID may be used now towards a chip (R252): none of this chip's streams has it, none that ended within
32,768 ticks had it, and no stream from there uses it here. -/
def State.idFree (s : State) (c i : Nat) : Bool :=
  !(s.bgp.streams.any (fun x => x.chip == c && x.id == i) || s.bgp.fetches.any (fun f => f.chip == c && f.stream == i)
    || s.bgp.tracker.any (fun t => t.chip == c && t.stream == i)
    || s.bgp.ended.any (fun e => e.1 == c && e.2.1 == i && decide (s.ownTick < e.2.2 + 32768)))

/-- The first of `k` stream IDs in a row that the SX9 chooses: any that may be used (log 4). -/
def State.pickIds (s : State) (c k : Nat) : Nat × State :=
  let d := s.draw
  (((List.range 65536).find? (fun j => (List.range k).all (fun i => d.2.idFree c ((d.1 + j + i) % 65536)))).elim 0
    (fun j => (d.1 + j) % 65536), d.2)

/-- One stream ID that the SX9 chooses. -/
def State.pickId (s : State) (c : Nat) : Nat × State := s.pickIds c 1

/-- A send stream opened, of which nothing has been sent. -/
def State.openStream (s : State) (x : Stream) : State := s.onBgp (fun b => { b with streams := b.streams ++ [x] })

/-- A fresh stream. -/
def freshStream (chip id cls flags total src bytes dst : Nat) (u : Purpose) : Stream :=
  ⟨chip, id, cls, flags, total, src, bytes, dst, u, 0, 0, 0, 0, [], 0, []⟩

/-- A stream taken out; its ID rests (R252). -/
def State.dropStream (s : State) (x : Stream) : State :=
  s.onBgp (fun b => { b with
    streams := b.streams.filter (fun y => !(y.chip == x.chip && y.id == x.id))
    ended := (x.chip, x.id, s.ownTick) :: b.ended.filter (fun e => decide (s.ownTick < e.2.2 + 32768)) })

/-- A stream changed. -/
def State.onStream (s : State) (chip id : Nat) (f : Stream → Stream) : State :=
  s.onBgp (fun b => { b with streams := b.streams.map (fun x => if x.chip == chip && x.id == id then f x else x) })

/-- The stream towards a chip of an ID. -/
def State.stream? (s : State) (chip id : Nat) : Option Stream :=
  s.bgp.streams.find? (fun x => x.chip == chip && x.id == id)

/-- The tracker entry of a source chip and stream ID. -/
def State.track? (s : State) (chip stream : Nat) : Option Track :=
  s.bgp.tracker.find? (fun t => t.chip == chip && t.stream == stream)

/-- A tracker entry changed. -/
def State.onTrack (s : State) (chip stream : Nat) (f : Track → Track) : State :=
  s.onBgp (fun b => { b with tracker := b.tracker.map (fun t => if t.chip == chip && t.stream == stream then f t else t) })

/-- A request-table entry freed (R258). -/
def State.dropRequest (s : State) (chip stream : Nat) : State :=
  s.onBgp (fun b => { b with requests := b.requests.filter (fun r => !(r.1 == chip && r.2 == stream)) })

/-! ### Acknowledgements and refusals -/

/-- A packet that waits for injection with a class order of R250. -/
def State.toInject (s : State) (order : Nat) (b : List Byte) : State :=
  s.onBgp (fun x => { x with ready := x.ready ++ [(order, b)] })

/-- A control packet of total 1 from this chip, its one packet the last (R239); an ACK has total 0. -/
def State.control (s : State) (dst cls stream flags len : Nat) (payload : List Byte) : List Byte :=
  packet { poison := false, dst := dst, src := s.selfChip, cls := cls, stream := stream, seq := 0, index := 0,
           total := if cls == 0 then 0 else 1, addr := 0, len := len, flags := flags + (if cls == 0 then 0 else fLast), age := 0, hops := 0, epoch := s.place.epoch }
    payload

/-- The window as 32 bytes. -/
def windowBytes (w : BitVec 256) : List Byte := leBytes 32 w.toNat

/-- The payload of an ACK (Table 11.6). -/
def Track.ackPayload (t : Track) : List Byte :=
  leBytes 3 t.h ++ leBytes 1 (t.st - 1) ++ leBytes 3 t.count ++ zeros 1 ++ windowBytes t.window

/-- An ACK sent for a tracker entry (R256). -/
def State.sendAck (s : State) (chip stream : Nat) : State := match s.track? chip stream with
  | none => s
  | some t => (s.toInject 0 (s.control chip 0 stream 0 40 t.ackPayload)).onTrack chip stream (fun t => { t with ackFrom := none })

/-- A REFUSE sent (R258, R348). -/
def State.sendRefuse (s : State) (chip cls stream reason : Nat) (rest : List Byte) : State :=
  (s.toInject 0 (s.control chip cls stream (fReply + fRefuse) (max 1 (1 + rest.length)) (leBytes 1 reason ++ rest))).countBgp 11

/-! ### What a stream reads -/

/-- Whether a range touches a persistent or partner region of the training plot. -/
def State.committedRange (s : State) (a n : Nat) : Bool :=
  (s.regions 0).any (fun r => (r.kind == 1 || r.kind == 2) && decide (a < r.base + r.bytes) && decide (r.base < a + n))

/-- A step has committed: streams that read the committed view end (R259). -/
def State.endViews (s : State) : State :=
  (s.bgp.streams.filter (fun x => s.committedRange x.src x.bytes)).foldl (fun s x => match x.purpose with
    | .host i => (s.dropStream x).sendDone i stAborted 4 x.ackedBytes
    | .reply r => ((s.dropStream x).dropRequest r x.id).sendRefuse r 2 x.id 4 []
    | _ => s) s

end Sys2Proof.Machine
end

