-- ==== Sys2Proof/Machine/Image.lean ====
section
/-! DEFINITION. A member image or serving program taken apart (R44 to R54, R92, R151, R268, R399): directory entries,
the rows of each section, and the loaded image. The checks stand in Validate.lean. -/
namespace Sys2Proof.Machine

/-- A directory entry (Table 3.2). -/
structure DirEntry where
  ty : Nat
  var : Nat
  kind : Nat
  scope : Nat
  off : Nat
  len : Nat
  count : Nat
  esize : Nat
  deriving DecidableEq, Repr, Inhabited

/-- Byte offset of directory entry `i`. -/
def dirAt (i : Nat) : Nat := 128 + 32 * i

/-- Directory entry `i` of an image. -/
def dirEntry (b : List Byte) (i : Nat) : DirEntry :=
  let e := slice b (dirAt i) 32
  ⟨fieldAt e 0 2, fieldAt e 2 1, fieldAt e 3 1, fieldAt e 4 2, fieldAt e 8 8, fieldAt e 16 8, fieldAt e 24 4, fieldAt e 28 2⟩

/-- The directory of an image. -/
def directory (b : List Byte) : List DirEntry := (List.range (fieldAt b 24 2)).map (dirEntry b)

/-- Byte offset of row `k` of a section. -/
def DirEntry.rowAt (d : DirEntry) (k : Nat) : Nat := d.off + 32 + d.esize * k

/-- The rows of a section. -/
def DirEntry.rows (d : DirEntry) (b : List Byte) : List (List Byte) :=
  (List.range d.count).map (fun k => slice b (d.rowAt k) d.esize)

/-- The index of the section of a type, variant and scope. -/
def findSection (ds : List DirEntry) (ty var scope : Nat) : Option Nat :=
  (ds.zipIdx.find? (fun x => x.1.ty == ty && x.1.var == var && x.1.scope == scope)).map (·.2)

/-- The rows of the section of a type, variant and scope; none when there is no such section. -/
def sectionRows (b : List Byte) (ds : List DirEntry) (ty var scope : Nat) : List (List Byte) :=
  match ds.find? (fun d => d.ty == ty && d.var == var && d.scope == scope) with
  | some d => d.rows b
  | none => []

/-- Table 3.5. -/
def portEntryOf (r : List Byte) : PortEntry := ⟨fieldAt r 1 1 == 1, fieldAt r 2 1, fieldAt r 4 2⟩

/-- Table 3.6. -/
def phaseEntryOf (r : List Byte) : PhaseEntry :=
  ⟨fieldAt r 2 1, fieldAt r 8 8, fieldAt r 16 4, fieldAt r 20 2, fieldAt r 22 2⟩

/-- Table 3.9. -/
def slotEntryOf (r : List Byte) : SlotEntry :=
  ⟨fieldAt r 0 4, fieldAt r 4 2, fieldAt r 6 2, fieldAt r 8 2, fieldAt r 10 1, fieldAt r 11 1, fieldAt r 12 1⟩

/-- Table 7.1; `first` is the page of the base. -/
def regionOf (r : List Byte) : Region :=
  ⟨fieldAt r 0 8 / Config.pageBytes, fieldAt r 8 4, fieldAt r 12 1, fieldAt r 13 1, fieldAt r 14 1⟩

/-- Table 12.2. -/
def collEntryOf (r : List Byte) : CollEntry :=
  ⟨fieldAt r 0 1, fieldAt r 1 1, fieldAt r 2 1, fieldAt r 3 1, fieldAt r 4 2, fieldAt r 6 1, fieldAt r 7 1, fieldAt r 8 8,
    fieldAt r 16 2, fieldAt r 18 2, fieldAt r 20 2, fieldAt r 22 2, fieldAt r 24 8, fieldAt r 32 2, fieldAt r 34 2⟩

/-- Table 4.8. -/
def refEntryOf (r : List Byte) : RefEntry := ⟨fieldAt r 0 4, fieldAt r 4 2, fieldAt r 8 4⟩

/-- Table 3.10. -/
def varEntryOf (r : List Byte) : VarEntry :=
  ⟨fieldAt r 0 1, fieldAt r 1 1, fieldAt r 2 1, bit (fieldAt r 3 1) 0, fieldAt r 8 8, fieldAt r 16 8⟩

/-- The sections of one variant key. -/
def schedOf (b : List Byte) (ds : List DirEntry) (v : Nat) : Sched :=
  let of := fun (ty : Nat) => ds.filter (fun d => d.ty == ty && d.var == v)
  { var := v
    phases := (sectionRows b ds 2 v 0).map phaseEntryOf
    descs := (of 3).map (fun d => (d.scope, d.rows b))
    slots := (of 4).map (fun d => (d.scope, (d.rows b).map slotEntryOf))
    colls := (sectionRows b ds 7 v 0).map collEntryOf
    refresh := (of 8).map (fun d => (d.scope, (d.rows b).map refEntryOf)) }

/-- The variant keys that sections carry. -/
def sectionKeys (ds : List DirEntry) : List Nat :=
  [0, 1, 2, 3, 4, 0x83, 0x84].filter (fun v => ds.any (fun d => d.var == v))

/-- An image's bytes taken apart. -/
def parseImage (b : List Byte) : Image :=
  let ds := directory b
  let u := fun (o n : Nat) => fieldAt b o n
  let ports := sectionRows b ds 1 0xFF 0
  { id := u 8 8
    length := u 16 8
    program := slice b 0 4 == ascii 4 "NSP1"
    shape := [u 28 1, u 29 1, u 30 1, u 31 1]
    spare := u 32 1
    member := [u 33 1, u 34 1, u 35 1]
    delta := u 36 1
    mode := u 37 1
    carry := u 38 1 == 1
    satAccept := u 39 1 == 1
    seed := BitVec.ofNat 64 (u 40 8)
    stepping := u 48 4
    ports := (List.range 10).map (fun p => match ports.find? (fun r => fieldAt r 0 1 == p) with
      | some r => portEntryOf r
      | none => ⟨false, 0, 0⟩)
    regions := (sectionRows b ds 5 0xFF 0).map regionOf
    records := sectionRows b ds 6 0xFF 0
    variants := (sectionRows b ds 9 0xFF 0).map varEntryOf
    map := (sectionRows b ds 10 0xFF 0).map leNat
    scheds := (sectionKeys ds).map (schedOf b ds)
    portDir := (findSection ds 1 0xFF 0).getD 0xFFFF
    portAt := (List.range 10).map (fun p =>
      (((findSection ds 1 0xFF 0).bind (fun k => ds[k]?)).map (fun d =>
        d.rowAt (ports.findIdx (fun r => fieldAt r 0 1 == p)))).getD 0) }

/-! ### Sizes -/

/-- Whole pages of the image or program area (R58). -/
def Image.areaPages (i : Image) : Nat := ceilDiv i.length Config.pageBytes

/-- Length of a phase table. -/
def periodOf (ps : List PhaseEntry) : Nat := ps.foldl (fun a p => a + p.length) 0

/-- The rules of R54 for a map under a ring of `ring` planes with `k` active replicas. -/
def mapOk (m : List Nat) (k ring : Nat) : Bool :=
  m.length == 17 && (m.filter (fun v => decide (v ≤ 0x0F))) == List.range k
    && m.zipIdx.all (fun x => if x.2 < ring then x.1 ≤ 0x0F || x.1 == 0xFE || x.1 == 0xFF else x.1 == 0xFD)
    && (List.range ring).all (fun p => ring ≤ 1 || !(decide (0xFE ≤ nth m p 0) && decide (0xFE ≤ nth m ((p + 1) % ring) 0)))

/-- Whether a map bypasses a plane. -/
def mapBypasses (m : List Nat) : Bool := m.any (fun v => v == 0xFE || v == 0xFF)

end Sys2Proof.Machine
end

