-- ==== Sys2Proof/Machine/Validate.lean ====
section
/-! DEFINITION. Validation of a member image or serving program (R57, R59, R60, R399): header, length, hash, directory,
each section in directory order, the rules across sections, and the fit to this chip. The order of the rules within
one stage is this model's (log 25). -/
namespace Sys2Proof.Machine

/-- A broken rule: its reason code, the directory index of its section or 0xFFFF, and the byte offset of the field. -/
structure Breach where
  code : Nat
  dir : Nat
  off : Nat
  deriving DecidableEq, Repr, Inhabited

/-- A rule and what breaking it reports. -/
def chk (ok : Bool) (code dir off : Nat) : Option Breach := if ok then none else some ⟨code, dir, off⟩

/-- The first nonzero byte of a range. -/
def firstNonzero (b : List Byte) (off n : Nat) : Option Nat := ((slice b off n).findIdx? (fun x => x != 0)).map (off + ·)

/-- A reserved field that must be zero (0x0005): its first byte is reported. -/
def zerosAt (b : List Byte) (dir off n : Nat) : Option Breach := (firstNonzero b off n).map (fun _ => ⟨5, dir, off⟩)

/-- Padding that must be zero (0x0005): the first byte that is not is reported. -/
def padAt (b : List Byte) (dir off n : Nat) : Option Breach := (firstNonzero b off n).map (fun o => ⟨5, dir, o⟩)

/-- What an image is validated for: the training member, or a serving plot of a profile with its clusters and
stacks. -/
structure Target where
  program : Bool
  profile : Nat
  clusters : Nat
  hstacks : Nat
  deriving DecidableEq, Repr, Inhabited

/-- HBM data bytes of the target (Table 16.3). -/
def Target.hbm (t : Target) : Nat := t.hstacks * Config.groupsPerStack * 1024
/-- Whole pages. -/
def Target.pages (t : Target) : Nat := t.hbm / Config.pageBytes

/-! ### Header, length, hash -/

/-- The header's rules (Table 3.1, R11, R399). -/
def headerBad (t : Target) (b : List Byte) : Option Breach :=
  let u := fieldAt b
  let at_ := fun (ok : Bool) (code off : Nat) => chk ok code 0xFFFF off
  let inR := fun (o lo hi : Nat) => decide (lo ≤ u o 1) && decide (u o 1 ≤ hi)
  let d := u 31 1
  firstBad
    [at_ (slice b 0 4 == ascii 4 (if t.program then "NSP1" else "NSI1")) 1 0, at_ (u 4 2 == 1) 2 4,
     at_ (decide (u 6 2 ≤ 2)) 2 6, at_ (decide (1 ≤ u 24 2) && decide (u 24 2 ≤ 4096)) 6 24, at_ (inR 26 1 5) 6 26,
     at_ (u 27 1 == t.profile) 6 27, at_ (inR 28 1 (if t.program then 1 else 8)) 7 28,
     at_ (inR 29 1 (if t.program then 1 else 16)) 7 29, at_ (inR 30 1 (if t.program then 1 else 16)) 7 30,
     at_ (inR 31 1 (if t.program then 1 else 16)) 7 31, at_ (decide (u 32 1 ≤ if t.program then 0 else 1)) 7 32,
     at_ (decide (u 33 1 < u 28 1)) 7 33, at_ (decide (u 34 1 < u 29 1)) 7 34, at_ (decide (u 35 1 < u 30 1)) 7 35,
     at_ (if u 37 1 == 0 then u 36 1 == 0 else 2 < u 37 1 || (decide (1 ≤ u 36 1) && decide (u 36 1 + 1 ≤ d))) 8 36,
     at_ (decide (u 37 1 ≤ if t.program then 0 else 2)) 8 37, at_ (decide (u 38 1 ≤ 1)) 8 38, at_ (decide (u 39 1 ≤ 1)) 8 39,
     at_ (u 48 4 % 2 == u 48 4) 5 48, zerosAt b 0xFFFF 52 12, zerosAt b 0xFFFF 96 32]

/-- The length and the trailer (R44, R57). -/
def lengthBad (t : Target) (b : List Byte) : Option Breach :=
  let most := if t.program then 64 * 2 ^ 20 else 8 * 2 ^ 30
  firstBad
    [chk (fieldAt b 16 8 == b.length && decide (b.length ≤ most) && decide (160 ≤ b.length)) 3 0xFFFF 16,
     chk (sha256 (b.take (b.length - 32)) == b.drop (b.length - 32)) 4 0xFFFF (b.length - 32)]

/-! ### Directory -/

/-- Entry size, scope kind, and whether the section is shared, by type (Table 3.3). -/
def typeInfo (ty : Nat) : Option (Nat × Nat × Bool) :=
  [(1, 16, 0, true), (2, 32, 0, false), (3, 64, 2, false), (4, 16, 1, false), (5, 32, 0, true), (6, 64, 0, true),
   (7, 64, 0, false), (8, 16, 3, false), (9, 32, 0, true), (10, 1, 0, true)].findSome? (fun x =>
    if x.1 == ty then some x.2 else none)

/-- Types a serving program may hold (R399). -/
def programTypes : List Nat := [1, 2, 3, 5, 6, 8, 9]

/-- One past the highest scope index of a scope kind (R46, R399). -/
def scopeLimit (t : Target) (kind : Nat) : Nat :=
  if kind == 0 then 1 else if kind == 1 then 10 else if kind == 2 then 16 * t.clusters else t.hstacks

/-- The rules of one directory entry (R46, R47). -/
def dirRowBad (t : Target) (b : List Byte) (ds : List DirEntry) (i : Nat) : Option Breach :=
  let d := nth ds i default
  let a := dirAt i
  let inf := typeInfo d.ty
  let shared := match inf with
    | some x => x.2.2
    | none => false
  let earlier := ds.take i
  firstBad
    [zerosAt b i (a + 6) 2, zerosAt b i (a + 30) 2,
     chk (inf.isSome && (!t.program || programTypes.contains d.ty)) 0xA i a,
     chk (match inf with
       | some x => x.1 == d.esize
       | none => false) 0xA i (a + 28),
     chk (if shared then d.var == 0xFF else if t.program then d.var == 0 else [0, 1, 3, 4, 0x83, 0x84].contains d.var)
       0xA i (a + 2),
     chk (match inf with
       | some x => x.2.1 == d.kind
       | none => false) 0xA i (a + 3),
     chk (decide (d.scope < scopeLimit t d.kind)) 9 i (a + 4),
     chk (!earlier.any (fun e => e.ty == d.ty && e.var == d.var && e.scope == d.scope)) 0xA i a,
     chk (d.off % 64 == 0 && decide (dirAt ds.length ≤ d.off) && decide (d.off + d.len + 32 ≤ b.length)) 9 i (a + 8),
     chk (d.len == 32 + d.count * d.esize) 9 i (a + 16),
     chk (slice b d.off 32 == slice b a 32) 9 i d.off,
     chk (!earlier.any (fun e => decide (e.off < d.off + d.len) && decide (d.off < e.off + e.len))) 9 i (a + 8)]

/-- Padding: from the directory's end and from each section's end, zeros up to the next section or the trailer. -/
def paddingBad (b : List Byte) (ds : List DirEntry) : Option Breach :=
  let top := b.length - 32
  let next := fun (p : Nat) => (ds.filter (fun d => decide (p ≤ d.off))).foldl (fun a d => min a d.off) top
  (dirAt ds.length :: ds.map (fun d => d.off + d.len)).findSome? (fun p => padAt b 0xFFFF p (next p - p))

/-- The directory's rules, entry by entry, then the padding. -/
def directoryBad (t : Target) (b : List Byte) (ds : List DirEntry) : Option Breach :=
  match chk (decide (dirAt ds.length + 32 ≤ b.length)) 9 0xFFFF 24 with
  | some x => some x
  | none => match (List.range ds.length).findSome? (dirRowBad t b ds) with
    | some x => some x
    | none => paddingBad b ds

/-! ### Sections, one by one -/

/-- Reserved bits of an entry by section type: (byte, bits). -/
def rowReserved (ty : Nat) : List (Nat × Nat) :=
  let full := fun (a n : Nat) => (List.range n).map (fun i => (a + i, 255))
  match ty with
  | 1 => (3, 255) :: full 6 10
  | 2 => full 3 5 ++ full 24 8
  | 4 => full 13 3
  | 5 => (13, 0xF8) :: full 15 17
  | 6 => [(16, 0xF0), (21, 0xFE), (23, 0xFC), (25, 0xFC)] ++ full 26 2 ++ full 48 16
  | 7 => (3, 0xF8) :: full 36 28
  | 8 => full 6 2 ++ full 12 4
  | 9 => (3, 0xFE) :: full 4 4 ++ full 24 8
  | _ => []

/-- Reserved bits of a row. -/
def rowBad (ty i at_ : Nat) (r : List Byte) : Option Breach :=
  let l := rowReserved ty
  (l.find? (fun x => fieldAt r x.1 1 &&& x.2 != 0)).map (fun x =>
    ⟨5, i, at_ + runStart ((l.filter (fun y => y.2 == 255)).map (·.1)) x.1⟩)

/-- The most lanes of a port (Table 10.1). -/
def mostLanes (p : Nat) : Nat := if p < 4 then 16 else if p < 8 then 12 else 8

/-- A port-table entry (R49, Table 3.5, R34, R208); `earlier` are the rows before it. -/
def portBad (t : Target) (i at_ : Nat) (earlier : List (List Byte)) (r : List Byte) : Option Breach :=
  let p := fieldAt r 0 1
  let n := fieldAt r 2 1
  let l := fieldAt r 4 2
  firstBad [chk (decide (p ≤ 9) && !earlier.any (fun e => fieldAt e 0 1 == p)) 0xE i at_,
    chk (decide (fieldAt r 1 1 ≤ 1)) 0xE i (at_ + 1), chk (!t.program || fieldAt r 1 1 == 0) 0xA i (at_ + 1),
    if fieldAt r 1 1 == 1 then firstBad [chk ([8, 12, 16].contains n && decide (n ≤ mostLanes p)) 0xE i (at_ + 2),
      chk (decide (96 ≤ l) && decide (l ≤ 2047)) 0xE i (at_ + 4)]
    else firstBad [chk (n == 0) 0xE i (at_ + 2), chk (l == 0) 0xE i (at_ + 4)]]

/-- A phase-table entry; `k` its place and `start` where it must begin (R50). -/
def phaseBad (t : Target) (i at_ k start : Nat) (r : List Byte) : Option Breach :=
  let p := phaseEntryOf r
  firstBad [chk (fieldAt r 0 2 == k) 0xF i at_, chk (decide (p.kind ≤ 3)) 0xF i (at_ + 2), chk (p.start == start) 0xF i (at_ + 8),
    chk (decide (1 ≤ p.length)) 0xF i (at_ + 16), chk (decide (p.spill ≤ 32760) && p.spill % 8 == 0) 0xF i (at_ + 20),
    chk (!t.program || (k == 0 && p.kind == 0 && decide (p.length ≤ 65536))) 0xA i (at_ + 2)]

/-- The phases of a training step: kinds 0 and 1, then one vote, then one update (R50). -/
def kindsOk (ks : List Nat) : Bool :=
  decide (2 ≤ ks.length) && ks.drop (ks.length - 2) == [2, 3] && (ks.take (ks.length - 2)).all (fun k => decide (k ≤ 1))

/-- A phase table. -/
def phasesBad (t : Target) (i : Nat) (d : DirEntry) (rows : List (List Byte)) : Option Breach :=
  let ps := rows.map phaseEntryOf
  match rows.zipIdx.findSome? (fun x => phaseBad t i (d.rowAt x.2) x.2 (periodOf (ps.take x.2)) x.1) with
  | some e => some e
  | none =>
    if t.program then chk (rows.length == 1) 0xA i d.off
    else chk (kindsOk (ps.map (·.kind))) 0xF i d.off

/-- Whether a region entry's flags and shadow are what its kind allows (R152, Table 7.2, R399). -/
def regionBad (t : Target) (area i at_ : Nat) (all : List Region) (k : Nat) (r : List Byte) : Option Breach :=
  let g := regionOf r
  let top := if t.program then t.pages - 1 - area else t.pages
  firstBad [chk (decide (g.kind ≤ 3)) 0x18 i (at_ + 12), chk (decide (1 ≤ g.pages)) 0x18 i (at_ + 8),
    chk (fieldAt r 0 8 % Config.pageBytes == 0 && decide (g.first + g.pages ≤ top)) 0x18 i at_,
    chk (!(all.take k).any (fun e => decide (e.first < g.first + g.pages) && decide (g.first < e.first + e.pages))) 0x18 i at_,
    chk (!t.program || g.kind == 0) 0x19 i (at_ + 12),
    chk ((g.kind == 0 || !(g.eject || g.hostWrite)) && (decide (g.kind ≤ 1) || !g.fetch)
      && (!t.program || !(g.eject || g.fetch))) 0x19 i (at_ + 13),
    chk (g.shadow == 0xFF || ((g.kind == 1 || g.kind == 2) && match all[g.shadow]? with
      | some e => e.kind == 3
      | none => false)) 0x19 i (at_ + 14)]

/-- Where a descriptor's bytes hold a value that the typed operands cannot hold. -/
def parseOff (b : List Byte) : Nat := match fieldAt b 12 1 with
  | 0x02 => if fieldAt b 44 4 != 1 then 44 else 36
  | 0x06 => 35
  | 0x08 => 55
  | 0x11 => 24
  | 0x12 => if 5 ≤ fieldAt b 24 1 then 24 else 26
  | _ => 12

/-- The context of a descriptor of an image: its target, variant key and whether its phase is an update phase. -/
def Image.ctx (i : Image) (t : Target) (v : Nat) (update : Bool) : Ctx :=
  { hbm := t.hbm, regions := i.regions, records := i.records.length, mode := i.mode, update := update,
    colls := match i.sched? v with
      | some c => c.colls
      | none => [],
    axisPorts := axisImagePorts }

/-- Whether a phase index names an update phase of a variant key. -/
def Image.isUpdate (i : Image) (v phase : Nat) : Bool := match i.sched? v with
  | some c => match c.phases[phase]? with
    | some p => p.kind == 3
    | none => false
  | none => false

/-- A descriptor's own rules with code 0x0015 and its reserved bits. -/
def descBad (t : Target) (img : Image) (v i at_ tile : Nat) (r : List Byte) : Option Breach :=
  match descReserved r with
  | some o => some ⟨5, i, at_ + o⟩
  | none => match parseOp r with
    | none => some ⟨0x15, i, at_ + parseOff r⟩
    | some op =>
      let h := parseHead r
      let gone := t.program && match op with
        | .egress _ => true
        | .ingress _ => true
        | .coll _ _ => true
        | .handoff _ => tile + 1 == 16 * t.clusters
        | _ => false
      let engine := match op with
        | .copy o => decide (o.engine < 2 * t.hstacks)
        | .wait u => decide (u < 16 + 2 * t.hstacks)
        | _ => true
      if gone then some ⟨0x15, i, at_ + 12⟩
      else if !engine then some ⟨0x15, i, at_ + 24⟩
      else match opBadAt (img.ctx t v (img.isUpdate v h.phase)) h op with
        | some (0x15, o) => some ⟨0x15, i, at_ + o⟩
        | _ => none

/-- The rules of one section by itself. -/
def sectionBad (t : Target) (b : List Byte) (img : Image) (ds : List DirEntry) (i : Nat) : Option Breach :=
  let d := nth ds i default
  let rows := d.rows b
  let each := fun (f : Nat → Nat → List Byte → Option Breach) => rows.zipIdx.findSome? (fun x => f x.2 (d.rowAt x.2) x.1)
  let resv := fun (f : Nat → Nat → List Byte → Option Breach) => match each (fun _ a r => rowBad d.ty i a r) with
    | some e => some e
    | none => each f
  match d.ty with
  | 1 => match resv (fun k a r => portBad t i a (rows.take k) r) with
    | some e => some e
    | none => chk (rows.length == 10) 0xE i (dirAt i + 24)
  | 2 => match each (fun _ a r => rowBad 2 i a r) with
    | some e => some e
    | none => phasesBad t i d rows
  | 3 => each (fun _ a r => descBad t img d.var i a d.scope r)
  | 5 => match chk (decide (rows.length ≤ 64)) 0x18 i (dirAt i + 24) with
    | some e => some e
    | none => resv (fun k a r => regionBad t img.areaPages i a img.regions k r)
  | 6 => match chk (decide (rows.length ≤ 16384 * t.clusters / 12)) 0x1C i (dirAt i + 24) with
    | some e => some e
    | none => resv (fun _ a r => chk (decide (1 ≤ fieldAt r 18 1) && decide (fieldAt r 18 1 ≤ 16)) 0x1C i (a + 18))
  | 7 => resv (fun _ a r =>
      let c := collEntryOf r
      firstBad [chk (decide (c.kind ≤ 7)) 0x1D i a, chk (decide (c.axis ≤ 3)) 0x1D i (a + 1),
        chk (decide (c.payload ≤ 3)) 0x1D i (a + 2), chk (decide (1 ≤ c.n) && decide (c.n ≤ 16)) 0x1D i (a + 4)])
  | 8 => resv (fun _ a r =>
      firstBad [chk (decide (1 ≤ fieldAt r 4 2) && decide (fieldAt r 4 2 ≤ 3)) 0x1B i (a + 4),
        chk (decide (1 ≤ fieldAt r 8 4)) 0x1B i (a + 8)])
  | _ => resv (fun _ _ _ => none)

/-! ### Across sections: sections, variants, map, ports -/

/-- Variant keys that carry sections: variants but 2, and the armed forms that the table declares (R53). -/
def Image.keys (i : Image) : List Nat :=
  ((i.variants.map (·.id)).filter (fun v => v != 2 && decide (v ≤ 4)))
    ++ (i.variants.filter (fun e => e.armed && (e.id == 3 || e.id == 4))).map (fun e => 0x80 + e.id)

/-- The key whose sections run before an armed form's update phase (R53). -/
def baseKey (v : Nat) : Nat := if v == 1 then 0 else if v == 0x83 then 3 else if v == 0x84 then 4 else v

/-- Whether a key is an armed form. -/
def isArmedKey (v : Nat) : Bool := v == 1 || v == 0x83 || v == 0x84

/-- The used ports of an image. -/
def Image.used (i : Image) : List Nat := (List.range 10).filter (fun p => (nth i.ports p ⟨false, 0, 0⟩).used)

/-- The phases of a key. -/
def Image.keyPhases (i : Image) (v : Nat) : List PhaseEntry := match i.sched? v with
  | some c => c.phases
  | none => []

/-- Every descriptor of an image: directory index, key, tile, place in its list, byte offset, bytes. -/
structure DescAt where
  dir : Nat
  key : Nat
  tile : Nat
  k : Nat
  off : Nat
  row : List Byte
  deriving DecidableEq, Repr, Inhabited

/-- Every descriptor of an image. -/
def allDescs (b : List Byte) (ds : List DirEntry) : List DescAt :=
  (ds.zipIdx.map (fun x => if x.1.ty == 3 then
    (x.1.rows b).zipIdx.map (fun r => (⟨x.2, x.1.var, x.1.scope, r.2, x.1.rowAt r.2, r.1⟩ : DescAt)) else [])).flatten

/-- Required sections (Table 3.3, R47, R399). -/
def missingBad (t : Target) (img : Image) (ds : List DirEntry) (descs : List DescAt) : Option Breach :=
  let has := fun (ty v sc : Nat) => (findSection ds ty v sc).isSome
  let shared := if t.program then [1, 5, 6, 9] else [1, 5, 6, 9, 10]
  let keys := if t.program then [0] else img.keys
  firstBad [chk (shared.all (fun ty => has ty 0xFF 0)) 0xB 0xFFFF 0,
    chk (!img.regions.isEmpty) 0xB ((findSection ds 5 0xFF 0).getD 0xFFFF) (dirAt ((findSection ds 5 0xFF 0).getD 0) + 24),
    chk (keys.all (fun v => has 2 v 0)) 0xB 0xFFFF 0,
    chk (keys.all (fun v => img.used.all (fun p => has 4 v p))) 0xB 0xFFFF 0,
    chk (keys.all (fun v => (List.range t.hstacks).all (fun k => has 8 v k))) 0xB 0xFFFF 0,
    chk (descs.all (fun d => fieldAt d.row 12 1 != 0x12 || has 7 d.key 0)) 0xB 0xFFFF 0]

/-- The variant table (R53, Table 3.10, R399). -/
def variantsBad (t : Target) (b : List Byte) (img : Image) (ds : List DirEntry) : Option Breach :=
  let i := (findSection ds 9 0xFF 0).getD 0xFFFF
  let sec := nth ds i default
  let ids := img.variants.map (·.id)
  let d := nth img.shape 3 1
  if t.program then chk (ids == [0]) 0xA i sec.off
  else match firstBad [chk (img.variants.length == fieldAt b 26 1) 0xC i (dirAt i + 24), chk (ids.contains 0) 0xC i sec.off] with
    | some e => some e
    | none => img.variants.zipIdx.findSome? (fun x =>
      let e := x.1
      let a := sec.rowAt x.2
      let active := if e.id == 3 then d - 1 else if e.id == 4 then d - 2 else d
      firstBad [chk (decide (e.id ≤ 4) && !(ids.take x.2).contains e.id && (e.id != 2 || decide (1 ≤ img.spare))) 0xC i a,
        chk (e.kind == min e.id 3) 0xC i (a + 1), chk (e.active == active && decide (1 ≤ e.active)) 0xC i (a + 2),
        chk (!e.armed || e.kind == 3) 0xC i (a + 3),
        chk (e.period == periodOf (img.keyPhases (baseVar e.id))) 0xC i (a + 8),
        chk (e.armedPeriod == if e.armed then periodOf (img.keyPhases (0x80 + e.id)) else 0) 0xC i (a + 16)])

/-- Sections of variants that the table does not hold (R47), and entries of an armed form outside its update phase
(R53). -/
def keysBad (img : Image) (b : List Byte) (ds : List DirEntry) : Option Breach :=
  match ds.zipIdx.findSome? (fun x => chk (x.1.var == 0xFF || img.keys.contains x.1.var) 0xA x.2 (dirAt x.2 + 2)) with
  | some e => some e
  | none => ds.zipIdx.findSome? (fun x =>
    if isArmedKey x.1.var && (x.1.ty == 3 || x.1.ty == 4) then
      (x.1.rows b).zipIdx.findSome? (fun r =>
        let o := if x.1.ty == 3 then 14 else 4
        chk (img.isUpdate x.1.var (fieldAt r.1 o 2)) 0xC x.2 (x.1.rowAt r.2 + o))
    else none)

/-- The first entry of a map that cannot stand where it does, or 0. -/
def mapOffset (m : List Nat) (ring : Nat) : Nat :=
  ((List.range 17).find? (fun p =>
    let v := nth m p 0
    if v ≤ 0x0F then v != ((m.take p).filter (fun w => decide (w ≤ 0x0F))).length || decide (ring ≤ p)
    else if p < ring then !(v == 0xFE || v == 0xFF) || (decide (0 < p) && decide (0xFE ≤ nth m (p - 1) 0))
    else v != 0xFD)).getD 0

/-- The base plane map (R54). -/
def planeMapBad (img : Image) (ds : List DirEntry) : Option Breach :=
  let i := (findSection ds 10 0xFF 0).getD 0xFFFF
  let ring := nth img.shape 3 1 + img.spare
  chk (mapOk img.map (nth img.shape 3 1) ring) 0xD i ((nth ds i default).off + 32 + mapOffset img.map ring)

/-- D and culvert ports (R49, R230). -/
def culvertsBad (img : Image) : Option Breach :=
  let ids := img.variants.map (·.id)
  let ps := [6, 7, 8, 9].map (fun p => nth img.ports p ⟨false, 0, 0⟩)
  chk (!(mapBypasses img.map || ids.contains 2 || ids.contains 3 || ids.contains 4)
    || (ps.all (fun p => p.used && p.lanes == 8 && p.pinned == (nth ps 0 ⟨false, 0, 0⟩).pinned)))
    0xE img.portDir (nth img.portAt 6 0)

/-! ### Slot maps -/

/-- A beacon in every phase of every used port (R37, R50); an armed form holds its update phase only. -/
def beaconsBad (img : Image) (ds : List DirEntry) : Option Breach :=
  img.keys.findSome? (fun v => img.used.findSome? (fun p =>
    let i := (findSection ds 4 v p).getD 0xFFFF
    let es := match img.sched? v with
      | some c => c.slotMap p
      | none => []
    (img.keyPhases v).zipIdx.findSome? (fun ph =>
      chk ((isArmedKey v && ph.1.kind != 3) || es.any (fun e => e.phase == ph.2 && e.isBeacon ph.1)) 0x10 i
        (nth ds i default).off)))

/-- An entry by itself (R52, R231). -/
def slotBad (img : Image) (v p i a : Nat) (e : SlotEntry) : Option Breach :=
  let pe := nth img.ports p ⟨false, 0, 0⟩
  let ph := (img.keyPhases v)[e.phase]?
  firstBad [chk (decide (e.kind ≤ 4) && (p < 8 || decide (3 ≤ e.kind))) 0x11 i (a + 10),
    chk (pe.used && decide (e.slot < 60 * pe.lanes)) 0x11 i (a + 6),
    chk ph.isSome 0x11 i (a + 4),
    chk (match ph with
      | some x => decide (e.tick < x.length)
      | none => false) 0x11 i a,
    chk (e.tile == 0xFF || (e.kind ≤ 1 && e.tile < 192)) 0x11 i (a + 11),
    chk (if e.kind == 2 then img.used.contains e.out else e.out == 0) 0x11 i (a + 12)]

/-- Whether an entry reserves its slot for egress, and for ingress (R52). -/
def SlotEntry.dirs (e : SlotEntry) : Bool × Bool := (e.kind == 0 || decide (3 ≤ e.kind), decide (1 ≤ e.kind))

/-- Whether two entries reserve one slot in one direction. -/
def sameSlot (x y : SlotEntry) : Bool :=
  x.phase == y.phase && x.tick == y.tick && x.slot == y.slot
    && ((x.dirs.1 && y.dirs.1) || (x.dirs.2 && y.dirs.2))

/-- Slots reserved in the tick of an entry, the larger of the two directions. -/
def reservedIn (es : List SlotEntry) (e : SlotEntry) : Nat :=
  let l := es.filter (fun x => x.phase == e.phase && x.tick == e.tick)
  max (l.filter (fun x => x.dirs.1)).length (l.filter (fun x => x.dirs.2)).length

/-- The cycle from the step's start at which an entry's slot departs. -/
def Image.departAt (i : Image) (v p : Nat) (e : SlotEntry) : Nat :=
  let start := (nth (i.keyPhases v) e.phase default).start
  (start + e.tick) * 1024 + e.slot * 1024 / max (60 * (nth i.ports p ⟨false, 0, 0⟩).lanes) 1

/-- The cycle at which the cell of an ingress entry is released. -/
def Image.releaseAt (i : Image) (v p : Nat) (e : SlotEntry) : Nat :=
  i.departAt v p e + (nth i.ports p ⟨false, 0, 0⟩).pinned

/-- Whether a forwarded entry has its egress entry (R226). -/
def Image.forwards (i : Image) (v p : Nat) (e : SlotEntry) : Bool :=
  match i.sched? v with
  | none => false
  | some c => (c.slotMap e.out).any (fun g => g.kind == 0 && g.tile == 0xFF && g.tag == e.tag && g.phase == e.phase
      && decide (i.releaseAt v p e + 14 ≤ i.departAt v e.out g) && decide (i.departAt v e.out g ≤ i.releaseAt v p e + 1024))

/-- The most slots of a port that a tick may reserve: 7/8 of them, and on D+ and D- the culvert's 420 at most (R49, R52). -/
def slotLimit (p lanes : Nat) : Nat := if p == 6 || p == 7 then min 420 (7 * 60 * lanes / 8) else 7 * 60 * lanes / 8

/-- The rules of the slot maps, in ascending code. DESIGN CHOICE (log 94): no code is named for the order of the entries (R52), and a
map out of order is accepted; a tick of D+ or D- beyond the culvert's limit is 0x13. -/
def slotMapsBad (img : Image) (ds : List DirEntry) : Option Breach :=
  let maps := (ds.zipIdx.filter (fun x => x.1.ty == 4)).map (fun x => (x.2, x.1, match img.sched? x.1.var with
    | some c => c.slotMap x.1.scope
    | none => []))
  let each := fun (f : Nat → DirEntry → List SlotEntry → Nat → SlotEntry → Option Breach) =>
    maps.findSome? (fun m => m.2.2.zipIdx.findSome? (fun e => f m.1 m.2.1 m.2.2 e.2 e.1))
  firstBad
    [each (fun i d _ k e => slotBad img d.var d.scope i (d.rowAt k) e),
     each (fun i d es k e => chk (!(es.take k).any (sameSlot e)) 0x12 i (d.rowAt k)),
     each (fun i d es k e => chk (decide (reservedIn es e ≤ slotLimit d.scope (nth img.ports d.scope ⟨false, 0, 0⟩).lanes)) 0x13 i
       (d.rowAt k)),
     each (fun i d _ k e => chk (e.kind != 2 || img.forwards d.var d.scope e) 0x14 i (d.rowAt k))]

/-! ### Descriptors against their phases, slots and each other -/

/-- The times of a descriptor's cells: departures of kind 0, releases of kind 1; none when an entry is missing (R224). -/
def Image.cellTimes (i : Image) (v phase tile p first n kind : Nat) : Option (List Nat) :=
  match i.sched? v with
  | none => none
  | some c =>
    let es := (c.slotMap p).filter (fun e => e.phase == phase && e.kind == kind && e.tile == tile)
    let l := (List.range n).filterMap (fun j => (es.find? (fun e => e.tag == (first + j) % 65536)).map (fun e =>
      if kind == 0 then i.departAt v p e else i.releaseAt v p e))
    if l.length == n && 1 ≤ n then some l else none

/-- Whether times ascend. -/
def ascends : List Nat → Bool
  | [] => true
  | [_] => true
  | a :: b :: l => decide (a < b) && ascends (b :: l)

/-- A ROUND's duration when its cells and its start keep R271. -/
def Image.roundTime (i : Image) (v tile : Nat) (h : DHead) (o : CollOps) : Option Nat :=
  let n := o.c + o.h
  let side := fun (p : Option Nat) (first kind : Nat) => match p with
    | none => some []
    | some p => i.cellTimes v h.phase tile p first n kind
  match side o.ingress o.inTag 1, side o.egress o.egTag 0, side o.egress2 o.eg2Tag 0 with
  | some r, some e, some e2 =>
    let out := e ++ e2
    if r.isEmpty && out.isEmpty then none
    else
      let first := out.foldl min (out.headD 0)
      let last := out.foldl max 0
      let start := if r.isEmpty then first - 10 else r.headD 0
      let gaps := [e, e2].all (fun l => r.isEmpty || (r.zip l).all (fun x => decide (x.1 + 26 ≤ x.2)))
      if h.start == start && (r.isEmpty → 10 ≤ first) && ascends e && ascends e2 && gaps then
        some (max (if r.isEmpty then 0 else r.getLastD 0 + 16) (if out.isEmpty then 0 else last + 2) - start)
      else none
  | _, _, _ => none

/-- The duration that the timing rules give a descriptor (R61, R224, R271); none when its cells break them. -/
def Image.timeOf (i : Image) (v tile : Nat) (h : DHead) (o : Op) : Option Nat :=
  match o with
  | .egress c => match i.cellTimes v h.phase tile c.port c.tag c.c 0 with
    | some l => if ascends l && l.headD 0 == h.start + 10 then some (10 + (l.getLastD 0 - l.headD 0) + 2) else none
    | none => none
  | .ingress c => match i.cellTimes v h.phase tile c.port c.tag c.c 1 with
    | some l => if l.headD 0 == h.start then some (l.getLastD 0 - l.headD 0 + 12) else none
    | none => none
  | .coll 1 c => i.roundTime v tile h c
  | .coll _ c => o.duration h.duration (match i.sched? v with
    | some x => x.colls[c.coll]?
    | none => none)
  | _ => o.duration h.duration none

/-- A descriptor with what the rules across descriptors read of it. -/
structure DescTime where
  at_ : DescAt
  h : DHead
  op : Op
  units : List Nat
  spill : Nat
  deriving DecidableEq, Repr

/-- The units a descriptor occupies. -/
def Op.units (o : Op) : List Nat := match o with
  | .coll _ _ => [1, 3]
  | _ => [o.unit]

/-- Every descriptor that parses, with its times. -/
def descTimes (img : Image) (l : List DescAt) : List DescTime :=
  l.filterMap (fun d => (parseOp d.row).map (fun o =>
    let h := parseHead d.row
    ⟨d, h, o, o.units, (nth (img.keyPhases d.key) h.phase default).spill⟩))

/-- Two descriptors of one key share a unit: of the same tile, or a copy engine. -/
def shareUnit (x y : DescTime) : Bool :=
  x.at_.key == y.at_.key && x.units.any (fun u => y.units.contains u && (decide (16 ≤ u) || x.at_.tile == y.at_.tile))

/-- Whether descriptor `x` comes too early after `y` on a unit they share (R51, R55). -/
def tooClose (x y : DescTime) : Bool :=
  shareUnit x y && !(x.at_.dir == y.at_.dir && x.at_.k == y.at_.k) &&
    ((decide (y.h.start < x.h.start) || (y.h.start == x.h.start && (decide (y.at_.dir < x.at_.dir)
      || (y.at_.dir == x.at_.dir && decide (y.at_.k < x.at_.k))))) && (decide (x.h.start < y.h.start + y.h.duration)
      || (x.h.anchored && decide (x.h.start < y.h.start + y.h.duration + x.spill))))

/-- A descriptor within its phase, with the spillway (R50, R63). -/
def inPhase (img : Image) (x : DescTime) : Bool := match (img.keyPhases x.at_.key)[x.h.phase]? with
  | none => false
  | some p => decide (p.start * 1024 ≤ x.h.start)
      && decide (x.h.start + x.h.duration + p.spill ≤ (p.start + p.length) * 1024)

/-- The chunk key of an update descriptor: key, phase, role, role of a third computation, chunk (R190). -/
def chunkKey (all : List DescAt) (x : DescTime) : Option (List Nat) := match x.op with
  | .upd o =>
    let l := (all.filter (fun d => d.dir == x.at_.dir)).map (·.row)
    some [x.at_.key, x.h.phase, o.role, if o.role == 2 then thirdRole l x.at_.k o.chunk else 0, o.chunk]
  | _ => none

/-! ### Copy windows (R65, R330) -/

/-- The HBM range a descriptor writes. -/
def Op.writes (o : Op) : Option (Nat × Nat) := match o with
  | .dmaOut o => spanAt o.hbm (strideSpan o.ext (dmaStrides o) o.esize)
  | .perm o => if o.toHbm then spanAt o.hbm (permSpan o) else none
  | .scatter o => spanAt o.table (gatherSpan o)
  | .copy o => some (o.dst, copyDstSpan o)
  | _ => none

/-- The protected pages of a range: those of persistent and partner regions that name a shadow (R329). -/
def protectedIn (rs : List Region) (a n : Nat) : List Nat :=
  match regionAt rs a n with
  | some (_, r) =>
    if (r.kind == 1 || r.kind == 2) && r.shadowed && n != 0 then
      (List.range ((a + n - 1) / Config.pageBytes - a / Config.pageBytes + 1)).map (fun i => a / Config.pageBytes + i)
    else []
  | none => []

/-- Without repeats, first occurrences kept. -/
def dedup : List Nat → List Nat
  | [] => []
  | a :: l => a :: (dedup l).filter (· != a)

/-- Cycles of a copy window. -/
def windowCycles : Nat := 4160

/-- A copy window: a wait of 4,160 cycles on a copy engine (R65; log 26). -/
def DescTime.isWindow (x : DescTime) : Bool := match x.op with
  | .wait u => decide (16 ≤ u) && x.h.duration == windowCycles
  | _ => false

/-- Protected pages that the descriptors of a key write at or before a cycle. -/
def pagesWritten (img : Image) (l : List DescTime) (key upTo : Nat) : List Nat :=
  dedup ((l.filter (fun x => x.at_.key == key && decide (x.h.start ≤ upTo))).map (fun x => match x.op.writes with
    | some w => protectedIn img.regions w.1 w.2
    | none => [])).flatten

/-- Before each write of an armed form there are as many windows ended as protected pages touched. -/
def windowsBad (img : Image) (l : List DescTime) : Option Breach :=
  l.findSome? (fun x =>
    if isArmedKey x.at_.key && (match x.op.writes with
        | some w => !(protectedIn img.regions w.1 w.2).isEmpty
        | none => false) then
      let done := (l.filter (fun y => y.at_.key == x.at_.key && y.isWindow
        && decide (y.h.start + windowCycles ≤ x.h.start))).length
      chk (decide ((pagesWritten img l x.at_.key x.h.start).length ≤ done)) 0x19 x.at_.dir x.at_.off
    else none)

/-! ### Refresh windows and collectives -/

/-- The windows of runs, up to a period. -/
def windowTicks (rs : List RefEntry) (period : Nat) : List Nat :=
  (rs.map (fun r => (List.range (min r.count (period + 1))).map (fun j => r.first + j * r.period))).flatten

/-- Whether windows keep the rules of R92 over a period. DESIGN CHOICE (log 94): a window at or past the end of the step, of which
the three rules do not speak, breaks them. -/
def spacedOk (ws : List Nat) (period : Nat) : Bool :=
  ws.contains 0 && ws.all (fun w => decide (w < period))
    && ws.all (fun w => decide (period ≤ w + 3) || ws.any (fun x => decide (w < x) && decide (x ≤ w + 3)))

/-- The refresh windows of a stack under a key, merged with the base's before the update phase. -/
def Image.windows (i : Image) (v k : Nat) : List Nat :=
  let runs := fun (v : Nat) => match i.sched? v with
    | some c => match c.refresh.find? (fun x => x.1 == k) with
      | some x => x.2
      | none => []
    | none => []
  let period := periodOf (i.keyPhases v)
  let start := match (i.keyPhases v).find? (fun p => p.kind == 3) with
    | some p => p.start
    | none => 0
  if isArmedKey v then (windowTicks (runs (baseKey v)) period).filter (fun w => decide (w < start)) ++ windowTicks (runs v) period
  else windowTicks (runs v) period

/-- The refresh rules of every key and stack (R92). -/
def refreshBad (t : Target) (img : Image) (ds : List DirEntry) (keys : List Nat) : Option Breach :=
  keys.findSome? (fun (v : Nat) => (List.range t.hstacks).findSome? (fun k =>
    let i := (findSection ds 8 v k).getD 0xFFFF
    let period := periodOf (img.keyPhases v)
    let start := match (img.keyPhases v).find? (fun p => p.kind == 3) with
      | some p => p.start
      | none => 0
    let own : List Nat := match img.sched? v with
      | some c => match c.refresh.find? (fun x => x.1 == k) with
        | some x => windowTicks x.2 period
        | none => []
      | none => []
    chk (spacedOk (img.windows v k) period && (!isArmedKey v || own.all (fun (w : Nat) => decide (start ≤ w)))) 0x1B i
      ((nth ds i default).off + 32)))

/-- Active replicas under a key. -/
def Image.activeOf (i : Image) (v : Nat) : Nat := match i.variant? (baseKey v) with
  | some e => e.active
  | none => nth i.shape 3 1

/-- Whether a carry area lies in a persistent region with room (R269, R288). -/
def carryFits (rs : List Region) (e : CollEntry) : Bool := match regionAt rs e.carry (wideBytes e.size) with
  | some (_, r) => r.kind == 1
  | none => false

/-- A collective entry (R268, R269): the offset of the first field that breaks a rule. -/
def collBad (img : Image) (v : Nat) (e : CollEntry) : Option Nat :=
  let extent := if e.axis == 3 then img.activeOf v else nth img.shape e.axis 1
  let f := fun (ok : Bool) (o : Nat) => if ok then none else some o
  firstBad [f (e.n == extent) 4,
    f (!bit e.flags 0 || (e.kind == 1 && e.axis == 3 && img.mode == 1)) 3,
    f (!bit e.flags 1 || ((e.kind == 1 || e.kind == 6) && e.axis == 3)) 3,
    f (bit e.flags 2 || !(decide (2 ≤ e.kind) || (e.kind == 0 && e.payload != 0))) 3,
    f (match e.kind with
      | 0 => decide (e.payload ≤ 1)
      | 1 => e.payload == 0
      | 6 => e.payload == 2
      | _ => true) 2,
    f (match e.kind with
      | 3 => decide (e.root < e.n)
      | 7 => decide (2 ≤ e.root) && decide (e.root ≤ 4)
      | _ => e.root == 0) 6,
    f (match e.kind with
      | 4 => decide (1 ≤ e.mode) && decide (e.mode ≤ 8)
      | 5 => decide (1 ≤ e.mode) && decide (e.mode ≤ 8)
      | 7 => decide (e.mode ≤ 1)
      | _ => e.mode == 0) 7,
    f (!(e.kind == 4 || e.kind == 5) || e.cs != 0) 18,
    f (!(e.kind == 4 || e.kind == 5) || (e.experts != 0 && decide (e.n * e.experts ≤ 1024))) 20,
    f (e.kind != 6 || (decide (1 ≤ e.recCount) && decide (e.recCount ≤ 16384)
      && decide (e.firstRec + e.recCount ≤ img.records.length))) 34,
    f (if e.carry == 0 then !(bit e.flags 1 && img.carry) else bit e.flags 1 && carryFits img.regions e) 24]

/-- The collective tables. -/
def collsBad (img : Image) (ds : List DirEntry) : Option Breach :=
  ds.zipIdx.findSome? (fun x =>
    if x.1.ty == 7 then match img.sched? x.1.var with
      | some c => c.colls.zipIdx.findSome? (fun e => (collBad img x.1.var e.1).map (fun o =>
          (⟨0x1D, x.2, x.1.rowAt e.2 + o⟩ : Breach)))
      | none => none
    else none)

/-- The rules across sections. -/
def crossBad (t : Target) (b : List Byte) (img : Image) (ds : List DirEntry) : Option Breach :=
  let descs := allDescs b ds
  let l := descTimes img descs
  let keys := if t.program then [0] else img.keys
  let each := fun (f : DescTime → Option Breach) => l.findSome? f
  let own := fun (code : Nat) => each (fun x =>
    match opBadAt (img.ctx t x.at_.key (img.isUpdate x.at_.key x.h.phase)) x.h x.op with
    | some e => if e.1 == code then some ⟨code, x.at_.dir, x.at_.off + e.2⟩ else none
    | none => none)
  let chunkOf := chunkKey descs
  let first := firstBad [missingBad t img ds descs, variantsBad t b img ds,
    if t.program then none else firstBad [keysBad img b ds, planeMapBad img ds, culvertsBad img, beaconsBad img ds,
      slotMapsBad img ds]]
  match first with
  | some e => some e
  | none =>
    firstBad
      [each (fun x => match chunkOf x with
         | some q => chk (!l.any (fun y => chunkOf y == some q && (y.at_.dir < x.at_.dir
             || (y.at_.dir == x.at_.dir && y.at_.k < x.at_.k)))) 0x15 x.at_.dir (x.at_.off + 52)
         | none => none),
       each (fun x => chk (img.timeOf x.at_.key x.at_.tile x.h x.op == some x.h.duration || (match x.op with
         | .coll _ o => ((img.ctx t x.at_.key false).colls[o.coll]?).isNone
         | _ => false)) 0x16 x.at_.dir (x.at_.off + 8)),
       each (fun x => firstBad [
         chk ((img.keyPhases x.at_.key)[x.h.phase]?).isSome 0x17 x.at_.dir (x.at_.off + 14),
         chk (inPhase img x && !l.any (tooClose x)) 0x17 x.at_.dir x.at_.off]),
       own 0x19, windowsBad img l, own 0x1A, refreshBad t img ds keys, own 0x1C, collsBad img ds, own 0x1D]

/-- What R59 finds wrong with the bytes of an image or program. -/
def imageBad (t : Target) (b : List Byte) : Option Breach :=
  let ds := directory b
  match firstBad [headerBad t b, lengthBad t b] with
  | some e => some e
  | none => match directoryBad t b ds with
    | some e => some e
    | none =>
      let img := parseImage b
      match (List.range ds.length).findSome? (sectionBad t b img ds) with
      | some e => some e
      | none => crossBad t b img ds

/-! ### Fit (R60, R267) -/

/-- The training member's target: the whole chip. -/
def trainTarget : Target := ⟨false, 0, 12, 8⟩

/-- The first rule of Table 3.15 that the image breaks on this chip. -/
def State.fitBad (s : State) (i : Image) : Option Breach :=
  let used := i.used
  let on := fun (code off : Nat) (f : Nat → Bool) =>
    (used.find? (fun p => !f p)).map (fun p => (⟨code, i.portDir, nth i.portAt p 0 + off⟩ : Breach))
  let d := nth i.shape 3 1
  match chk (bit i.stepping 0) 0x101 0xFFFF 48 with
  | some e => some e
  | none => match s.place.coord with
    | none => some ⟨0x102, 0xFFFF, 33⟩
    | some c =>
      firstBad [chk (c.member == i.member) 0x102 0xFFFF 33, chk (c.shape == i.shape && c.spare == i.spare) 0x103 0xFFFF 28,
        chk (!(i.mode == 1 || i.spare != 0) || d + i.spare == nth c.ext 3 0) 0x103 0xFFFF 31,
        on 0x104 0 (fun p => (s.port p).st == 2),
        on 0x105 2 (fun p => (s.port p).lanes == (nth i.ports p ⟨false, 0, 0⟩).lanes),
        on 0x106 4 (fun p => (s.port p).pinned == (nth i.ports p ⟨false, 0, 0⟩).pinned),
        chk (decide (i.areaPages + (i.regions.map (·.pages)).foldl (· + ·) 0 ≤ trainTarget.pages)) 0x107 0xFFFF 16]

end Sys2Proof.Machine
end

