-- ==== Sys2Proof/Machine/Hampers.lean ====
section
/-! DEFINITION. Hampers (R325 to R339): their layout and digests, arming, copy windows, the drain to flash, staging and
partner memory, the flash port's commands (R439 to R441), and the hamper commands. -/
namespace Sys2Proof.Machine

/-! ### Layout (R326) -/

/-- Where the parts of a hamper lie. -/
structure HamperAt where
  records : Nat
  cursor : Nat
  pages : Nat
  length : Nat
  deriving DecidableEq, Repr, Inhabited

/-- The layout of a hamper of `p` pages, `r` records and a cursor of `c` bytes. -/
def hamperAt (p r c : Nat) : HamperAt :=
  let rec_ := roundUp (256 + 32 * p) 64
  let cur := roundUp (rec_ + 64 * r) 64
  let pg := roundUp (cur + c) 4096
  ⟨rec_, cur, pg, pg + p * Config.pageBytes⟩

/-- The layout of a hamper in hand. -/
def Hamper.layout (h : Hamper) : HamperAt := hamperAt h.pages.length (h.records.length / 64) h.cursor.length

/-- Σ (i + 1) × w_i mod p over the words of a byte string, zero-padded (R327). -/
def sealSum (bs : List Byte) (i : Nat) : Nat :=
  ((wordsOf 8 bs).zipIdx.foldl (fun a w => (a + (i + w.2 + 1) * w.1) % Config.digestP) 0)

/-- The sealing digest of the four parts (R327). -/
def sealDigest (head dir records cursor : List Byte) : Nat := sealSum (slice head 0 128 ++ dir ++ records ++ cursor) 0

/-- The page directory, in ascending address, of the pages drained so far. -/
def Hamper.dirBytes (h : Hamper) : List Byte :=
  (h.pages.map (fun p => match h.dir.find? (fun e => e.1 == p.1) with
    | some e => e.2
    | none => zeros 32)).flatten

/-- A byte string padded to an offset. -/
def padded (b : List Byte) (n : Nat) : List Byte := slice b 0 n

/-- Everything before the pages, the header with its sealing digest. -/
def Hamper.front (h : Hamper) : List Byte :=
  let l := h.layout
  let dir := h.dirBytes
  let head := putAt h.header 128 (leBytes 8 (sealDigest h.header dir h.records h.cursor))
  padded (padded (padded (head ++ dir) l.records ++ h.records) l.cursor ++ h.cursor) l.pages

/-! ### What a hamper holds (R325) -/

/-- Regions in ascending address. -/
def insertRegion (x : Nat × Region) : List (Nat × Region) → List (Nat × Region)
  | [] => [x]
  | y :: l => if x.2.first ≤ y.2.first then x :: y :: l else y :: insertRegion x l

/-- The regions of an image with their numbers, in ascending address. -/
def sortedRegions (rs : List Region) : List (Nat × Region) := rs.zipIdx.foldr (fun r l => insertRegion (r.2, r.1) l) []

/-- The pages of the persistent regions in ascending address, with their regions. -/
def persistentPages (rs : List Region) : List (Nat × Nat) :=
  ((sortedRegions rs).map (fun x => if x.2.kind == 1 then (List.range x.2.pages).map (fun i => (x.2.first + i, x.1)) else [])).flatten

/-- The pages that an arming protects (R329). -/
def protectedPages (rs : List Region) : List Nat :=
  (rs.map (fun r => if r.kind == 1 || (r.kind == 2 && r.shadowed) then (List.range r.pages).map (fun i => r.first + i) else [])).flatten

/-- The header of a hamper of the committed step (Table 14.1), its digest zero: `t` is the job as that step left it, before the
changes of the next step (log 88). -/
def State.hamperHeader (s : State) (t : Train) (tick pages records cursor : Nat) : List Byte :=
  let i := s.train.image.getD (parseImage [])
  let l := hamperAt pages records cursor
  ascii 4 "HMP1" ++ leBytes 2 1 ++ zeros 2 ++ leBytes 8 t.committed ++ leBytes 8 i.id ++ (i.member.map (leBytes 1)).flatten
    ++ leBytes 1 (s.replica.getD 0xFF) ++ leBytes 1 t.variant ++ leBytes 1 s.place.epoch ++ leBytes 1 i.mode
    ++ leBytes 1 i.delta ++ (s.place.map.map (leBytes 1)).flatten
    ++ leBytes 1 (b2n t.carryPending + 2 * b2n t.carry + 4 * b2n t.satAccept)
    ++ leBytes 2 t.absentLast ++ leBytes 8 i.seed.toNat ++ zeros 4 ++ leBytes 4 pages ++ leBytes 4 records
    ++ leBytes 4 cursor ++ zeros 4 ++ leBytes 8 256 ++ leBytes 8 l.records ++ leBytes 8 l.cursor ++ leBytes 8 l.pages
    ++ leBytes 8 l.length ++ leBytes 8 tick ++ leBytes 8 0 ++ serialBytes ++ zeros 104

/-- The cursor blob copied from its area (R334); a length beyond 65,536 is taken as 65,536. -/
def State.cursorBlob (s : State) : List Byte × State :=
  if s.snap.cursor == 0 then ([], s)
  else
    let n := s.copyRead 0 s.snap.cursor 4
    let k := min (leNat (n.1.map (·.1))) 65536
    let b := n.2.copyRead 0 (s.snap.cursor + 4) k
    (b.1.map (·.1), b.2)

/-- The scale-record block: committed fields, working fields zero. -/
def State.recordBlock (s : State) : List Byte := (s.train.records.map (fun r => r.fresh.bytes)).flatten

/-- The greatest length a hamper of this job can have. -/
def State.hamperMost (s : State) : Nat :=
  (hamperAt (persistentPages (s.regions 0)).length s.train.records.length (if s.snap.cursor == 0 then 0 else 65536)).length

/-! ### Flash commands (R439 to R441) -/

/-- The ring that SET_MIRROR named. -/
def State.ring? (s : State) : Option Ring := s.snap.rings.find? (fun r => r.ns == s.snap.ns && s.snap.ns != 0)

/-- The ring in a namespace. -/
def State.ringIn (s : State) (ns : Nat) : Option Ring := s.snap.rings.find? (fun r => r.ns == ns)

/-- A slot of the ring in a namespace changed. -/
def State.onSlotIn (s : State) (ns j : Nat) (f : RingSlot → RingSlot) : State :=
  s.onSnap (fun n => { n with rings := n.rings.map (fun r =>
    if r.ns == ns then { r with slots := modifyAt r.slots j f } else r) })

/-- A slot of the ring that SET_MIRROR named changed. -/
def State.onSlot (s : State) (j : Nat) (f : RingSlot → RingSlot) : State := s.onSlotIn s.snap.ns j f

/-- First LBA of a slot (R336). -/
def Ring.lbaOf (r : Ring) (j : Nat) : Nat := 16 + j * r.lbas

/-- An NVMe command issued: it leaves on the flash port and waits for its completion. -/
def State.nvmeIssue (s : State) (c : Nvme) : State :=
  (s.emit (.nvme c.op c.ns c.lba c.blocks c.data)).onHost (fun h => { h with nvme := h.nvme ++ [c] })

/-- An NVMe write at a byte offset of a slot, a multiple of 4,096; the data are padded to whole LBAs. -/
def State.slotWrite (s : State) (ns j off : Nat) (data : List Byte) (use page : Nat) : State :=
  match s.ringIn ns with
  | none => s
  | some r =>
    let n := ceilDiv data.length 4096
    (s.onSlotIn ns j (fun x => { x with data := slice x.data 0 off ++ slice data 0 (4096 * n) ++ x.data.drop (off + 4096 * n) })).nvmeIssue
      ⟨1, r.lbaOf j + off / 4096, n, slice data 0 (4096 * n), false, r.ns, use, page⟩

/-- An NVMe Flush. -/
def State.nvmeFlush (s : State) (ns use : Nat) : State := s.nvmeIssue ⟨0, 0, 0, [], false, ns, use, 0⟩

/-- Detail of every hamper operation on flash that has failed (R439). -/
def flashDead : Nat := 0xF000

/-- Local flash has failed. -/
def State.flashFailed (s : State) : Bool := s.host.flState == 3

/-- The slot that holds the newest sealed hamper. -/
def Ring.newest (r : Ring) : Option Nat :=
  r.slots.zipIdx.foldl (fun (b : Option Nat) x => if x.1.st == 1 then match b with
      | some j => if (nth r.slots j default).step ≤ x.1.step then some x.2 else b
      | none => some x.2
    else b) none

/-- The slot that a hamper is written into: an empty slot, an unsealed one, or else the one with the oldest step, never
the newest sealed one (R336). -/
def Ring.choose (r : Ring) : Option Nat :=
  match r.slots.findIdx? (fun x => x.st == 0), r.slots.findIdx? (fun x => x.st == 2) with
  | some j, _ => some j
  | none, some j => some j
  | none, none =>
    r.slots.zipIdx.foldl (fun (b : Option Nat) x => if some x.2 == r.newest then b else match b with
      | some j => if x.1.step < (nth r.slots j default).step then some x.2 else b
      | none => some x.2) none

/-! ### Partner memory (R335) -/

/-- The first partner region. -/
def State.partnerRegion (s : State) : Option Region := (s.regions 0).find? (fun r => r.kind == 2)

/-- Partner hampers of a length that the partner region holds. -/
def State.partnerPlaces (s : State) (len : Nat) : Nat := match s.partnerRegion with
  | some r => r.bytes / max len 1
  | none => 0

/-- The chip of a logical replica with this chip's t, e and p. -/
def State.chipOfReplica (s : State) (m : List Nat) (x : Nat) : Option Nat := match s.place.coord with
  | none => none
  | some c => (m.findIdx? (· == x)).map (fun d => coordNat c.t c.e c.p d)

/-- The logical replica that holds this chip's partner hamper. -/
def State.partnerReplica (s : State) : Nat := match s.train.image, s.replica with
  | some i, some d => (d + i.delta) % max s.replicas 1
  | _, _ => 0

/-- The most packets of a stream (Table 11.1). -/
def streamPackets : Nat := 2 ^ 24 - 1

/-- Bytes of all but the last of a hamper's streams. -/
def partBytes : Nat := 224 * streamPackets

/-- Streams that a hamper is sent in: as few as hold its packets (R335, log 88). -/
def Hamper.parts (h : Hamper) : Nat := ceilDiv h.layout.length partBytes

/-- Bytes of the stream being sent. -/
def Hamper.partLen (h : Hamper) : Nat := min partBytes (h.layout.length - h.part * partBytes)

/-- The packet index at which the stream that holds the header begins: the first packet of page bytes alone. -/
def Hamper.firstIndex (h : Hamper) : Nat := if h.part == 0 then ceilDiv h.layout.pages 224 else 0

/-- Packets of the stream being sent. -/
def Hamper.packets (h : Hamper) : Nat := ceilDiv h.partLen 224

/-- The packet index of a sequence number of the stream being sent: pages first, then what lies before them, the header last
(R332; log 30). -/
def Hamper.indexOf (h : Hamper) (seq : Nat) : Nat :=
  let i := h.firstIndex
  let t := h.packets
  if seq < t - i then i + seq else if i == 0 then seq else if seq + 1 < t then seq - (t - i) + 1 else 0

/-- Whether packet `g` of the whole hamper has been received, with `ackH` packets of the stream being sent received in order. -/
def Hamper.received (h : Hamper) (ackH g : Nat) : Bool :=
  decide (h.part < g / streamPackets)
    || (h.part == g / streamPackets && decide (h.firstIndex ≤ g % streamPackets) && decide (g % streamPackets - h.firstIndex < ackH))

/-- The partner drain taken further: the next of the hamper's streams opened, when none is being sent and this chip has a send
stream left (R252, R335). -/
def State.partnerPass (s : State) : State :=
  match s.snap.hamper with
  | none => s
  | some h =>
    if !h.draining || !h.partner || h.partnerDone || s.bgp.streams.any (fun x => x.purpose == Purpose.hamper)
        || decide (4096 ≤ s.bgp.streams.length) then s
    else match s.chipOfReplica s.place.map s.partnerReplica with
      | some c =>
        let d := s.pickId c
        d.2.openStream (freshStream c d.1 3 0 h.packets 0 h.partLen (h.place + h.part * partBytes) .hamper)
      | none => s

/-! ### The drain (R331 to R333) -/

/-- The hamper in hand changed. -/
def State.onHamper (s : State) (f : Hamper → Hamper) : State := s.onSnap (fun n => { n with hamper := n.hamper.map f })

/-- Every destination is sealed: the hamper ends, and its command completes. -/
def State.hamperEnds (s : State) : State :=
  match s.snap.hamper with
  | none => s
  | some h =>
    if h.draining && h.dir.length == h.pages.length && (h.flashSlot.isNone || h.stage == 7)
        && (h.staging.isNone || h.stagingDone) && (!h.partner || h.partnerDone) then
      let s := s.dropHamper
      match h.job with
      | some op => s.endOp op (if h.poison then stPoisoned else stDone) (h.flashSlot.getD 0xFFFF)
          (if op == 0x0701 then s.train.committed else h.layout.length)
      | none => s
    else s

/-- Whether a page of the hamper has reached every destination. -/
def State.pageReached (s : State) (h : Hamper) (k page : Nat) : Bool :=
  let first := (h.layout.pages + k * Config.pageBytes) / 224
  let last := (h.layout.pages + (k + 1) * Config.pageBytes - 1) / 224
  h.dir.any (fun e => e.1 == page) && !s.host.nvme.any (fun c => c.use_ == 0 && c.page == page)
    && (!h.partner || h.partnerDone || match s.bgp.streams.find? (fun x => x.purpose == Purpose.hamper) with
      | some x => h.received x.ackH first && h.received x.ackH last
          && (first / streamPackets == last / streamPackets || h.received x.ackH (last / streamPackets * streamPackets - 1))
      | none => false)

/-- SNAP and COPIED cleared, and the shadow page freed, for pages that have reached every destination (R331). -/
def State.settlePages (s : State) : State :=
  match s.snap.hamper with
  | none => s
  | some h =>
    let gone := (h.pages.zipIdx.filter (fun p => s.pageReached h p.2 p.1.1)).map (·.1.1)
    s.onSnap (fun n => { n with
      snap := n.snap.filter (fun p => !gone.contains p), copied := n.copied.filter (fun c => !gone.contains c.1) })

/-- The next stage of a flash slot begun, when the one before it is complete (R332, R336). -/
def State.flashNext (s : State) : State :=
  match s.snap.hamper with
  | none => s
  | some h => match h.flashSlot with
    | none => s
    | some j =>
      if s.host.nvme.any (fun c => decide (c.use_ ≤ 1)) then s
      else
        let toStage := fun (n : Nat) => s.onHamper (fun h => { h with stage := n })
        match h.stage with
        | 0 => (toStage 1).nvmeFlush h.ns 1
        | 1 => toStage 2
        | 2 => if h.dir.length == h.pages.length then (toStage 3).slotWrite h.ns j 0 (zeros 256 ++ h.front.drop 256) 1 0 else s
        | 3 => (toStage 4).nvmeFlush h.ns 1
        | 4 => (toStage 5).slotWrite h.ns j 0 (slice h.front 0 4096) 1 0
        | 5 => (toStage 6).nvmeFlush h.ns 1
        | 6 => (toStage 7).onSlotIn h.ns j (fun x => { x with st := 1, step := h.step, image := fieldAt h.header 16 8 })
        | _ => s

/-- The staging area's part before the pages written, the header with it. -/
def State.stageFront (s : State) : State :=
  match s.snap.hamper with
  | none => s
  | some h => match h.staging with
    | some a =>
      if h.dir.length == h.pages.length && !h.stagingDone then
        (s.hbmWrite 0 a (clean h.front)).onHamper (fun h => { h with stagingDone := true })
      else s
    | none => s

/-- The drain begins: the flash slot's header is zeroed, the partner's first stream opened (R331, R335, R336). -/
def State.startDrain (s : State) : State :=
  match s.snap.hamper with
  | none => s
  | some h =>
    let s := s.onHamper (fun h => { h with draining := true })
    let s := match h.flashSlot with
      | some j => (s.onSlotIn h.ns j (fun x => { x with st := 2, data := [] })).slotWrite h.ns j 0 (zeros 4096) 1 0
      | none => s
    s.partnerPass.stageFront.hamperEnds

/-- A page of 2 MiB as the drain reads it: from its shadow when COPIED, else from itself (R331). -/
def State.drainRead (s : State) (page : Nat) : List Byte × Nat × Bool × State :=
  let ks := s.stacksOf 0
  let sh := s.snap.copied.find? (fun c => c.1 == page)
  let f := hbmFetch s.mem.hbm ks ((match sh with
    | some c => c.2
    | none => page) * Config.pageBytes) Config.pageBytes
  (f.1.map (·.1), f.2.2.poisonCount, sh.isSome, (s.onMem (fun m => { m with hbm := f.2.1 })).seenHost ks f.2.2)

/-- A directory entry (Table 14.2). -/
def dirEntryBytes (page region bad digest : Nat) (shadow : Bool) : List Byte :=
  leBytes 8 (page * Config.pageBytes) ++ leBytes 1 region ++ leBytes 1 (b2n (bad != 0) + 2 * b2n shadow) ++ zeros 2
    ++ leBytes 4 (sat32 bad) ++ leBytes 8 digest ++ zeros 8

/-! ### Arming (R328 to R330) -/

/-- The descriptors of a key of a loaded image. -/
def Image.timesOf (i : Image) (key : Nat) : List DescTime := match i.sched? key with
  | none => []
  | some c => descTimes i ((c.descs.map (fun x => x.2.zipIdx.map (fun r => (⟨0, key, x.1, r.2, 0, r.1⟩ : DescAt)))).flatten)

/-- The pages that the armed form of the variant in force writes and protects (R330). -/
def State.windowPages (s : State) : List Nat := match s.train.image with
  | none => []
  | some i => pagesWritten i (i.timesOf (armedVar s.train.variant)) (armedVar s.train.variant) (2 ^ 60)

/-- Every persistent region names a shadow, and every shadow has a page for each copy window that will run (R330). -/
def State.shadowsOk (s : State) : Bool :=
  let rs := s.regions 0
  let ps := s.windowPages
  rs.all (fun r => r.kind != 1 || r.shadowed) && rs.zipIdx.all (fun x => x.1.kind != 3 ||
    decide ((ps.filter (fun p => match regionAt rs (p * Config.pageBytes) 1 with
      | some (_, r) => r.shadow == x.2
      | none => false)).length ≤ x.1.pages))

/-- Where the next partner hamper goes in the partner's region: its places are filled in turn (R335). -/
def State.partnerPlace (s : State) (len : Nat) : Nat := match s.partnerRegion with
  | some r =>
    let k := max (s.partnerPlaces len) 1
    r.base + s.snap.turn % k * (r.bytes / k / 4096 * 4096)
  | none => 0

/-- A hamper of the committed state captured: header, records, cursor. A chip without a logical replica has no partner. -/
def State.capture (s : State) (t : Train) (tick : Nat) (flash : Option Nat) (staging : Option Nat) (partner : Bool)
    (job : Option Nat) : State :=
  let c := s.cursorBlob
  let s := c.2
  let ps := persistentPages (s.regions 0)
  let goes := partner && s.replica.isSome && s.partnerRegion.isSome && (s.chipOfReplica s.place.map s.partnerReplica).isSome
  let x : Hamper :=
    { draining := false, step := s.train.committed, header := s.hamperHeader t tick ps.length s.train.records.length c.1.length,
      records := s.recordBlock, cursor := c.1, pages := ps, dir := [], poison := false, flashSlot := flash, stage := 0,
      staging := staging, stagingDone := false, partner := goes, partnerDone := false, place := 0, part := 0, ns := s.snap.ns,
      job := job }
  s.onSnap (fun n => { n with
    hamper := some { x with place := s.partnerPlace x.layout.length, part := x.parts - 1 }
    turn := n.turn + b2n goes })

/-- HAMPER_SKIPPED (Table 15.14): 1 the shadows do not do, 2 a drain is in progress. -/
def State.hamperSkipped (s : State) (cause : Nat) : State :=
  s.event 0x28 0 0 (leBytes 8 s.train.committed ++ leBytes 1 cause)

/-- The destinations of a HAMPER_SEAL or RECALL_NOTICE: byte 8 and the staging address. -/
def sealDests (c : Slot) : Bool × Option Nat := (bit (arg c 8 1) 0, if bit (arg c 8 1) 1 then some (arg c 16 8) else none)

/-- The arming at the boundary before step `n`, at tick `base`, on every chip alike, the spare too (R328, R329); `t` is the job
as step n − 1 left it. -/
def State.armHamper (s : State) (n base : Nat) (t : Train) : State :=
  let mode := s.modeOf 0
  let autoFlash := s.snap.nf != 0 && (n - 1) % max s.snap.nf 1 == 0 && s.ring?.isSome
  let autoPartner := mode == 2 && ((s.snap.np != 0 && (n - 1) % max s.snap.np 1 == 0) || s.snap.sealSoon)
  let asked := s.train.changes.findSome? (fun c => match c with
    | .seal k f a => if k ≤ n then some (f, a) else none
    | _ => none)
  let s := s.onTrain (fun t => { t with changes := t.changes.filter (fun c => match c with
    | .seal k _ _ => decide (n < k)
    | _ => true) })
  if !(autoFlash || autoPartner || asked.isSome) then s
  else if s.snap.hamper.any (fun h => !h.draining && h.step == s.train.committed) then s
  else if s.snap.hamper.isSome then
    let s := if asked.isSome then s.endOp 0x0601 stBusy 0x0601 0 else s
    if autoFlash || autoPartner then s.hamperSkipped 2 else s
  else if !s.shadowsOk then
    let s := if asked.isSome then s.endOp 0x0601 stBadState (16 * s.plot0.st.code + s.chip.st.code) 0 else s
    if autoFlash || autoPartner then s.hamperSkipped 1 else s
  else
    let flash := if autoFlash || (asked.map (·.1)).getD false then s.ring?.bind Ring.choose else none
    let s := s.capture t base flash (asked.bind (·.2)) autoPartner (if asked.isSome then some 0x0601 else none)
    s.onSnap (fun x => { x with
      snap := protectedPages (s.regions 0), copied := [], armedNext := true, sealSoon := x.sealSoon && !autoPartner })

/-! ### Copy windows (R65, R329) -/

/-- The copy windows of the armed form in force that have begun by now, on an engine or on any. -/
def State.windowsBegun (s : State) (engine : Option Nat) (running : Bool) : Nat :=
  match s.train.image, s.train.run with
  | some i, some r =>
    let now := s.fabricCycle - r.base * 1024
    ((i.timesOf (armedVar s.train.variant)).filter (fun x => x.isWindow && decide (x.h.start ≤ now)
      && (!running || decide (now < x.h.start + windowCycles)) && (match engine, x.op with
        | some e, .wait u => u == 16 + e
        | none, _ => true
        | _, _ => false))).length
  | _, _ => 0

/-- The next free page of a shadow. -/
def State.freeShadow (s : State) (k : Nat) : Option Nat := match (s.regions 0)[k]? with
  | none => none
  | some r => (List.range r.pages).findSome? (fun i =>
      if s.snap.copied.any (fun c => c.2 == r.first + i) then none else some (r.first + i))

/-- COPY_WINDOW: a window of the armed update phase running now on its engine copies a protected page to its shadow
(R65, R329). -/
def execCopyWindow (engine page : Nat) (s : State) : Out :=
  if engine > 15 then .fault (.noSuchUnit "copy engine")
  else if !s.inArmedUpdate || s.isSpare || s.windowsBegun (some engine) true == 0
      || decide (s.windowsBegun none false ≤ s.snap.copied.length) || !s.snap.snap.contains page
      || s.snap.copied.any (fun c => c.1 == page) || !s.windowPages.contains page then .next s
  else match (regionAt (s.regions 0) (page * Config.pageBytes) 1).bind (fun x => s.freeShadow x.2.shadow) with
    | none => .next s
    | some q =>
      let r := s.copyRead 0 (page * Config.pageBytes) Config.pageBytes
      .next ((r.2.hbmWrite 0 (q * Config.pageBytes) r.1).onSnap (fun n => { n with copied := n.copied ++ [(page, q)] }))

/-! ### Commands -/

/-- A staging area: a multiple of 4,096, in one scratch region with room. -/
def State.stagingOk (s : State) (plot a n : Nat) : Bool :=
  a % 4096 == 0 && match regionAt (s.regions plot) a n with
    | some (_, r) => r.kind == 0
    | none => false

/-- Whether the flash ring takes a hamper of this job now: the failure, if any. -/
def State.flashBad (s : State) (c : Slot) : Option (Nat × Nat) :=
  if s.flashFailed then some (stHwFault, flashDead)
  else match s.ring? with
    | none => some (stBadState, s.badStateDetail c)
    | some r => if r.lbas * 4096 < s.hamperMost || r.choose.isNone then some (stBadState, s.badStateDetail c) else none

/-- The checks that HAMPER_SEAL and RECALL_NOTICE share: destination and staging address. -/
def State.sealBad (s : State) (c : Slot) : Option (Nat × Nat) :=
  let d := sealDests c
  match d.2 with
  | some a => if !s.stagingOk 0 a s.hamperMost then some (stBadParam, 48) else if d.1 then s.flashBad c else none
  | none => if d.1 then s.flashBad c else none

/-- The committed state sealed at once in PARKED: no page changes, no shadow is used (R330, R355). A hamper that is armed and
does not drain yet gives way to it (log 88). -/
def State.sealParked (s : State) (c : Slot) (job : Nat) : State :=
  let d := sealDests c
  let s := if s.snap.hamper.any (fun h => !h.draining) then s.failHamper stAborted 0 0 else s
  (s.capture s.train s.train.haltTick (if d.1 then s.ring?.bind Ring.choose else none) d.2 false (some job)).startDrain

/-- The seal of a RECALL_NOTICE begun, once no other hamper is in hand (R342, R333). -/
def State.recallSeal (s : State) : State := match s.sealWaits with
  | some j => if !s.snap.hamper.any (·.draining) then s.sealParked j.slot 0x0701 else s
  | none => s

/-- The hamper ends when its destinations are sealed, and a recall's seal that waited for it begins. -/
def State.hamperEnd (s : State) : State := s.hamperEnds.recallSeal

/-- HAMPER_DRAIN: one page read, digested and written to its destinations (R331). A flash slot takes pages once its
header has been zeroed and flushed. -/
def execHamperDrain (page : Nat) (s : State) : Out :=
  match s.snap.hamper with
  | none => .next s
  | some h =>
    match h.pages.findIdx? (fun p => p.1 == page) with
    | none => .next s
    | some k =>
      if !h.draining || h.dir.any (fun e => e.1 == page) || (h.flashSlot.isSome && h.stage != 2) then .next s
      else
        let r := s.drainRead page
        let e := dirEntryBytes page (nth h.pages k (0, 0)).2 r.2.1 (payloadDigest r.1) r.2.2.1
        let off := h.layout.pages + k * Config.pageBytes
        let s := r.2.2.2.onHamper (fun h => { h with dir := h.dir ++ [(page, e)], poison := h.poison || r.2.1 != 0 })
        let s := match h.staging with
          | some a => s.hbmWrite 0 (a + off) (clean r.1)
          | none => s
        let s := match h.flashSlot with
          | some j => s.slotWrite h.ns j off r.1 0 page
          | none => s
        .next (s.stageFront.flashNext.settlePages.hamperEnd)

/-- HAMPER_SEAL (0x0601). -/
def execHamperSeal (c : Slot) (s : State) : Out :=
  aqvel 0x0601 noExt .plot (fun s _ => trainIn [.armed, .running, .parked] s) (fun s c =>
    guarded c [(9, 7), (24, 8)] [(8, 3)] (fun _ =>
      let parked := s.plot0.st == .parked
      if arg c 8 1 == 0 then .fail stBadParam 40
      else if s.snap.hamper.any (·.draining) || s.train.changes.any (fun x => match x with
          | .seal _ _ _ => true
          | _ => false) then .fail stBusy 0x0601
      else if !parked && !s.leadOk (arg c 0 8) then .fail stBadParam 32
      else if parked && s.train.updateHalted then .fail stBadState (s.badStateDetail c)
      else match s.sealBad c with
        | some e => .fail e.1 e.2
        | none =>
          if parked then .acceptedThen s (fun s => s.sealParked c 0x0601)
          else if !s.shadowsOk then .fail stBadState (s.badStateDetail c)
          else
            let d := sealDests c
            .accepted (s.onTrain (fun t => { t with changes := t.changes ++ [.seal (arg c 0 8) d.1 d.2] })))) c s

/-- The 32 bytes of a slot list entry (Table 14.6). -/
def slotEntryBytes (j : Nat) (x : RingSlot) : List Byte :=
  let on := x.st == 1
  leBytes 2 j ++ leBytes 1 x.st ++ zeros 5 ++ leBytes 8 (if on then x.step else 0) ++ leBytes 8 (if on then x.image else 0)
    ++ leBytes 8 (if on then fieldAt x.data 112 8 else 0)

/-- The slot that a drain is writing. -/
def State.slotBusy (s : State) (j : Nat) : Bool := match s.snap.hamper with
  | some h => h.draining && h.flashSlot == some j && h.ns == s.snap.ns
  | none => false

/-- The slots of the ring that SET_MIRROR named. -/
def State.ringSlots (s : State) : List RingSlot := match s.ring? with
  | some r => r.slots
  | none => []

/-- HAMPER_LIST (0x0603). -/
def execHamperList (c : Slot) (s : State) : Out :=
  aqvel 0x0603 (fun s c => if arg c 0 1 == 0 then decide (32 * s.ringSlots.length ≤ c.extLen.toNat) else c.extLen == 0) .plot
    anyState (fun s c =>
    guarded c [(1, 3), (16, 16)] [] (fun _ =>
      let kind := arg c 0 1
      let j := arg c 4 4
      let slots := s.ringSlots
      if kind > 2 then .fail stBadParam 32
      else if s.flashFailed then .fail stHwFault flashDead
      else if kind == 0 then
        let bs := (slots.zipIdx.map (fun x => slotEntryBytes x.2 x.1)).flatten
        writesExt s c bs (fun s => .done 0 slots.length s)
      else match slots[j]?, s.ring? with
        | some x, some r =>
          if s.slotBusy j then .fail stBusy 0x0601
          else if kind == 1 then
            if x.st != 1 then .fail stBadParam 2
            else if !s.stagingOk c.target.toNat (arg c 8 8) (fieldAt x.data 112 8) then .fail stBadParam 40
            else .accepted (s.nvmeIssue ⟨2, r.lbaOf j, ceilDiv (fieldAt x.data 112 8) 4096, [], false, r.ns, 2, j⟩)
          else if r.newest == some j then .fail stBadState (s.badStateDetail c)
          else .done 0 0 ((s.onSlot j (fun _ => default)).nvmeIssue ⟨9, r.lbaOf j, r.lbas, [], false, r.ns, 4, 0⟩)
        | _, _ => .fail stBadParam 36)) c s

/-- The label of a ring (Table 14.4). -/
def ringLabel (count lbas : Nat) : List Byte :=
  ascii 4 "HRNG" ++ leBytes 2 1 ++ zeros 2 ++ leBytes 4 count ++ zeros 4 ++ leBytes 8 lbas ++ serialBytes ++ zeros 4056

/-- The ring taken into use: a label that differs is written anew and every slot deallocated (R336). -/
def State.useRing (s : State) (ns count lbas : Nat) : State :=
  let s := s.onSnap (fun n => { n with ns := ns })
  match s.ring? with
  | some r => if r.count == count && r.lbas == lbas then s else fresh s
  | none => fresh s
where fresh (s : State) : State :=
  if ns == 0 then s
  else
    let r : Ring := ⟨ns, count, lbas, List.replicate count default⟩
    let s := s.onSnap (fun n => { n with rings := r :: n.rings.filter (fun r => r.ns != ns) })
    let s := s.nvmeIssue ⟨1, 0, 1, ringLabel count lbas, false, ns, 4, 0⟩
    (List.range count).foldl (fun s j => s.nvmeIssue ⟨9, r.lbaOf j, lbas, [], false, ns, 4, 0⟩) s

/-- Whether taking a ring into use would deallocate the slots of a ring that a drain is writing: SET_MIRROR then completes
BAD_STATE (DESIGN CHOICE, log 88). -/
def State.relabels (s : State) (ns count lbas : Nat) : Bool :=
  s.snap.hamper.any (fun h => h.flashSlot.isSome && h.ns == ns) && !(s.ringIn ns).any (fun r => r.count == count && r.lbas == lbas)

/-- SET_MIRROR (0x0604). -/
def execSetMirror (c : Slot) (s : State) : Out :=
  aqvel 0x0604 noExt .plot (fun s _ => trainIn [.loaded, .armed, .running] s) (fun s c =>
    guarded c [(9, 3), (24, 8)] [] (fun _ =>
      let np := arg c 0 4
      let ns := arg c 8 1
      let count := arg c 12 4
      let cur := arg c 16 8
      let mode := s.modeOf 0
      let lba := (nth s.host.nsLbas (ns - 1) 0 - 16) / max count 1
      let most := ({ s with snap := { s.snap with cursor := cur } }).hamperMost
      if !(match mode with
          | 0 => np == 0
          | 1 => np == 1
          | _ => decide (1 ≤ np) && decide (np ≤ 65535)) then .fail stBadParam 32
      else if ns > 4 then .fail stBadParam 40
      else if ns != 0 && s.flashFailed then .fail stHwFault flashDead
      else if ns != 0 && (s.host.flState != 2 || !bit s.host.nsUsable (ns - 1)) then .fail stBadParam 40
      else if ns != 0 && (count == 0 || decide (64 < count) || decide (lba * 4096 < most)) then .fail stBadParam 44
      else if cur != 0 && (cur % 64 != 0 || !(match regionAt (s.regions 0) cur 65540 with
          | some (_, r) => r.kind == 0
          | none => false)) then .fail stBadParam 48
      else if mode == 2 && s.partnerPlaces most == 0 then .fail stBadState (s.badStateDetail c)
      else if s.relabels ns count lba then .fail stBadState (s.badStateDetail c)
      else .done 0 0 ((s.useRing ns count lba).onSnap (fun n => { n with np := np, nf := arg c 4 4, cursor := cur })))) c s

/-! ### Checks and restore (Table 14.7, R339) -/

/-- The reason that a hamper's bytes fail, with its status. `audit` compares no replica. -/
def State.hamperBad (s : State) (b : List Byte) (room : Nat) (isSealed audit : Bool) : Option (Nat × Nat) :=
  let u := fun (o n : Nat) => fieldAt b o n
  let p := u 64 4
  let l := hamperAt p (u 68 4) (u 72 4)
  let dir := (List.range p).map (fun k => slice b (256 + 32 * k) 32)
  let i := s.train.image.getD (parseImage [])
  let own := match s.plane with
    | some d => nth i.map d 0xFD
    | none => 0xFD
  if !(slice b 0 4 == ascii 4 "HMP1" && u 4 2 == 1 && decide (u 68 4 ≤ 16384) && decide (u 72 4 ≤ 65536) && u 80 8 == 256
      && u 88 8 == l.records && u 96 8 == l.cursor && u 104 8 == l.pages && u 112 8 == l.length && decide (l.length ≤ room)) then
    some (stBadParam, 1)
  else if !isSealed then some (stBadParam, 2)
  else if u 128 8 != sealDigest b dir.flatten (slice b l.records (64 * u 68 4)) (slice b l.cursor (u 72 4)) then
    some (stBadParam, 3)
  else if !dir.zipIdx.all (fun e => fieldAt e.1 16 8 == payloadDigest (slice b (l.pages + e.2 * Config.pageBytes) Config.pageBytes)) then
    some (stBadParam, 4)
  else if u 16 8 != i.id || u 52 8 != i.seed.toNat then some (stMismatch, 5)
  else if [u 24 1, u 25 1, u 26 1] != i.member || (!audit && u 27 1 != own) then some (stMismatch, 6)
  else if dir.map (fun e => (fieldAt e 0 8, fieldAt e 8 1)) != (persistentPages (s.regions 0)).map (fun x => (x.1 * Config.pageBytes, x.2)) then
    some (stMismatch, 7)
  else if dir.any (fun e => bit (fieldAt e 9 1) 0) then some (stPoisoned, 8)
  else none

/-- The pages of a hamper written, with correct check bytes. -/
def State.writePages (s : State) (b : List Byte) : State :=
  let off := fieldAt b 104 8
  (List.range (fieldAt b 64 4)).foldl (fun s k =>
    s.hbmWrite 0 (fieldAt b (256 + 32 * k) 8) (clean (slice b (off + k * Config.pageBytes) Config.pageBytes))) s

/-- The scale records in a hamper. -/
def hamperRecords (b : List Byte) : List ScaleRec :=
  (List.range (fieldAt b 68 4)).map (fun k => (ScaleRec.ofBytes (slice b (fieldAt b 88 8 + 64 * k) 64)).fresh)

/-- A hamper's committed state taken over (R339). -/
def State.unpack (s : State) (b : List Byte) : State :=
  (s.writePages b).onTrain (fun t => { t with
    records := hamperRecords b, restored := true, committed := fieldAt b 8 8
    carryPending := bit (fieldAt b 49 1) 0, absentLast := fieldAt b 50 2 })

/-- Whether a HAMPER_RESTORE is one of audit-load. -/
def auditLoad (c : Slot) : Bool := bit (arg c 1 1) 0

/-- HAMPER_RESTORE (0x0602). -/
def execHamperRestore (c : Slot) (s : State) : Out :=
  aqvel 0x0602 noExt .plot (fun s c =>
      if auditLoad c then trainIn [.running] s && s.isSpare else trainIn [.loaded, .parked] s) (fun s c =>
    guarded c [(2, 2), (16, 16)] [(1, 1)] (fun _ =>
      let j := arg c 4 4
      if arg c 0 1 > 1 then .fail stBadParam 32
      else if arg c 0 1 == 1 then
        (if s.stagingOk 0 (arg c 8 8) 256 then .accepted s else .fail stBadParam 40)
      else if s.flashFailed then .fail stHwFault flashDead
      else match s.ring? with
        | none => .fail stBadParam 36
        | some r => match r.slots[j]? with
          | none => .fail stBadParam 36
          | some x => .accepted (s.nvmeIssue ⟨2, r.lbaOf j, max 1 (ceilDiv (fieldAt x.data 112 8) 4096), [], false, r.ns, 3, j⟩))) c s

/-- The bytes a HAMPER_RESTORE finds at its source, the room there, whether sealed, and the state after the reads. -/
def State.restoreSource (s : State) (c : Slot) : List Byte × Nat × Bool × State :=
  if arg c 0 1 == 0 then match s.ring? with
    | some r =>
      let x := nth r.slots (arg c 4 4) default
      (x.data, r.lbas * 4096, x.st == 1, s)
    | none => ([], 0, false, s)
  else
    let a := arg c 8 8
    let room := match regionAt (s.regions 0) a 256 with
      | some (_, r) => r.base + r.bytes - a
      | none => 0
    let h := s.copyRead 0 a 256
    let n := min (fieldAt (h.1.map (·.1)) 112 8) room
    let b := h.2.copyRead 0 a n
    (b.1.map (·.1), room, true, b.2)

/-- HAMPER_RESTORE_END: the checks of Table 14.7, and the writes of R339. -/
def execHamperRestoreEnd (s : State) : Out :=
  match s.job? 0x0602 with
  | none => .next s
  | some j =>
    if s.host.nvme.any (fun c => c.use_ == 3) then .next s
    else
      let src := s.restoreSource j.slot
      let b := src.1
      let t := src.2.2.2
      let audit := auditLoad j.slot
      match t.hamperBad b src.2.1 src.2.2.1 audit with
      | some e => .next (t.endJob j e.1 e.2 0)
      | none =>
        let h := fieldAt b 8 8
        if audit then
          .next (((t.writePages b).onTrain (fun x => { x with
            records := hamperRecords b, auditReplica := fieldAt b 27 1 })).endJob j stDone 0 h)
        else
          let t := (t.endHamper.unpack b).onTrain (fun x => { x with
            updateHalted := false, spoiled := [], shiftAborted := false, changes := [], failedRuns := 0, nextAbsent := 0, nextRaised := false, prev := [], settled := false })
          let t := t.onSnap (fun n => { n with snap := [], copied := [], armedNext := false })
          .next ((t.setPlot0 .loaded).endJob j stDone 0 h)

/-! ### NVMe completions -/

/-- The hamper command behind an NVMe command ends HW_FAULT (R441). -/
def State.nvmeFail (s : State) (c : Nvme) (detail : Nat) : State :=
  match c.use_ with
  | 2 => s.endOp 0x0603 stHwFault detail 0
  | 3 => s.endOp 0x0602 stHwFault detail 0
  | 4 => s
  | _ => (s.failHamper stHwFault detail 0).recallSeal

/-- HAMPER_LIST's stage ends: the slot's bytes go to the staging area, and the sealing digest is checked (R337). -/
def State.staged (s : State) (c : Nvme) : State :=
  match s.job? 0x0603, s.ringIn c.ns with
  | some j, some r =>
    let b := (nth r.slots c.page default).data
    let n := fieldAt b 112 8
    let t := s.hbmWrite j.slot.target.toNat (arg j.slot 8 8) (clean (slice b 0 n))
    let p := fieldAt b 64 4
    let ok := fieldAt b 128 8 == sealDigest b (slice b 256 (32 * p)) (slice b (fieldAt b 88 8) (64 * fieldAt b 68 4))
      (slice b (fieldAt b 96 8) (fieldAt b 72 4))
    if ok then t.endJob j stDone 0 n else t.endJob j stBadParam 3 0
  | _, _ => s

/-- NVME_COMPLETION of the oldest command in progress (R441): an error is tried once more. -/
def execNvmeCompletion (status : Nat) (s : State) : Out :=
  match s.host.nvme with
  | [] => .next s
  | c :: rest =>
    let t := s.onHost (fun h => { h with nvme := rest })
    if status % 32768 == 0 then
      match c.use_ with
      | 2 => .next (t.staged c)
      | 3 => .next t
      | 4 => .next t
      | _ => .next (t.flashNext.settlePages.hamperEnd)
    else if !c.retried then .next (t.nvmeIssue { c with retried := true })
    else .next (t.nvmeFail c (status % 32768))

/-- Every NVMe command in progress failed, and none left. -/
def State.failAllNvme (s : State) (detail : Nat) : State :=
  s.host.nvme.foldl (fun s c => s.nvmeFail c detail) (s.onHost (fun h => { h with nvme := [] }))

/-- Core cycles in ten minutes. -/
def tenMinutes : Nat := 600000 * Config.cyclesPerMs

/-- NVME_TIMEOUT (R441): the controller is disabled and enabled again, and the commands in progress fail, with a status
field that the manual does not give (log 4); a second timeout within ten minutes fails the device. -/
def execNvmeTimeout (s : State) : Out :=
  if s.host.nvme.isEmpty then .next s
  else
    let again := match s.host.lastTimeout with
      | some t => decide (s.time.cyc < t + tenMinutes)
      | none => false
    let d := (s.emit .nvmeReset).draw
    let t := d.2.onHost (fun h => { h with lastTimeout := some s.time.cyc, flState := if again then 3 else h.flState })
    .next (t.failAllNvme (if again then flashDead else d.1 % 32768))

/-- FLASH_INIT (R439, R440): once, when the chip has entered READY. -/
def execFlashInit (i : FlashInfo) (s : State) : Out :=
  if s.chip.st != .ready || s.host.flState != 1 then .next s
  else .next (s.onHost (fun h => { h with
    flWidth := i.width, flSpeed := i.speed, nsUsable := if i.ok then i.nsUsable % 16 else 0
    nsLbas := if i.ok then i.nsLbas else []
    nvmePairs := if i.ok then min 16 i.granted else 0, nvmeEntries := if i.ok then min 1024 (i.mqes + 1) else 0
    flState := if i.ok then 2 else if i.width == 0 then 0 else 3 }))

/-- FLASH_LINK_DOWN (R441): a link that does not retrain within 1 s fails the device. -/
def execFlashLinkDown (retrained : Bool) (s : State) : Out :=
  if retrained || s.host.flState == 0 then .next s
  else .next ((s.onHost (fun h => { h with flState := 3, flWidth := 0, flSpeed := 0 })).failAllNvme flashDead)

end Sys2Proof.Machine
end

