-- ==== Sys2Proof/Machine/Plots.lean ====
section
/-! DEFINITION. Serving plots (R397 to R406): PLOT_RECONFIG, PLOT_START, PLOT_STOP, passes, and the context page. -/
namespace Sys2Proof.Machine

/-! ### A plot's tiles and its last pages -/

/-- The places on the chip of a plot's tiles, in logical order (R397). -/
def Plot.physTiles (p : Plot) : List Nat := (List.range (16 * p.clusters.length)).map p.tileAt

/-- The context page (R398). -/
def Plot.ctxPage (p : Plot) : Nat := hbmBytes p.hstacks / Config.pageBytes - 1
/-- Its address. -/
def Plot.ctx (p : Plot) : Nat := p.ctxPage * Config.pageBytes
/-- First address of the program area of a program, directly below the context page (R398, R58). -/
def Plot.areaOf (p : Plot) (i : Image) : Nat := (p.ctxPage - i.areaPages) * Config.pageBytes

/-- The command of an opcode in progress on a plot. -/
def State.plotJob (s : State) (opcode n : Nat) : Option Job :=
  s.aq.jobs.find? (fun j => j.opcode == opcode && j.slot.target.toNat == n)

/-! ### The context page (R406) -/

/-- The header of a context page. -/
def contextHeader (id tiles : Nat) : List Byte :=
  slice (ascii 4 "CTX1" ++ leBytes 4 1 ++ leBytes 8 id ++ leBytes 2 tiles) 0 64

/-- The image ID of a plot's program. -/
def Plot.programId (p : Plot) : Nat := match p.program with
  | some i => i.id
  | none => 0

/-- Every bank of every tile of a plot written into the context page, then the header. -/
def State.saveContext (s : State) (n : Nat) (p : Plot) : State :=
  let s := p.physTiles.zipIdx.foldl (fun s x =>
    s.hbmWrite n (p.ctx + 64 + 5184 * x.2) (clean (contextRecord (s.tile x.1).banks))) s
  s.hbmWrite n p.ctx (clean (contextHeader p.programId p.physTiles.length))

/-- Every bank of a plot's tiles from its context page, when the page is valid and of the program's image ID; else zeroed
(R148). -/
def State.restoreContext (s : State) (n : Nat) (p : Plot) : State :=
  let h := s.hostRead n p.ctx 64
  let ok := slice h.1 0 4 == ascii 4 "CTX1" && fieldAt h.1 4 1 == 1 && fieldAt h.1 8 8 == p.programId && !h.2.1
  p.physTiles.zipIdx.foldl (fun s x =>
    if ok then
      let r := s.hostRead n (p.ctx + 64 + 5184 * x.2) 5184
      r.2.2.onTile x.1 (fun t => { t with banks := contextBanks r.1 })
    else s.onTile x.1 (fun t => { t with banks := List.replicate 4 Bank.zero })) h.2.2

/-! ### PLOT_STOP -/

/-- The PLOT_STOP of a plot completes, with the passes it dropped. -/
def State.endStop (s : State) (n dropped : Nat) : State := match s.plotJob 0x0304 n with
  | some j => s.endJob j stDone dropped 0
  | none => s

/-- The end of a PLOT_STOP: the context is saved, plot time stops, the plot is LOADED, the command completes (R405). -/
def State.stopEnd (s : State) (n : Nat) : State :=
  match s.plot? n with
  | none => s
  | some p =>
    let s := (s.saveContext n p).onPlot n (fun p => { p with st := .loaded, stopping := none })
    (s.rest p.hstacks).endStop n (p.stopping.getD 0)

/-- A draining plot with no pass in progress and none waiting has stopped. -/
def State.stopIfDone (s : State) (n : Nat) : State :=
  match s.plot? n with
  | some p => if p.st == .draining && p.pass.isNone && p.posts.isEmpty then s.stopEnd n else s
  | none => s

/-- The plot after a PLOT_STOP was accepted. -/
def Plot.drain (abort : Bool) (p : Plot) : Plot :=
  if abort then { p with st := .draining, stopping := some p.pending, pending := 0, posts := [] }
  else { p with st := .draining, stopping := some 0 }

/-- PLOT_STOP (0x0304, R405). -/
def execPlotStop (c : Slot) (s : State) : Out :=
  aqvel 0x0304 noExt .plot (fun s c => s.chip.profile != 0 && plotIn [.running] s c) (fun s c =>
    guarded c [(1, 31)] [] (fun _ =>
      if arg c 0 1 > 1 then .fail stBadParam 32
      else .acceptedThen (s.onPlot c.target.toNat (Plot.drain (arg c 0 1 == 1))) (fun s => s.stopIfDone c.target.toNat))) c s

/-! ### PLOT_START -/

/-- PLOT_START (0x0305, R401, R406). -/
def execPlotStart (c : Slot) (s : State) : Out :=
  aqvel 0x0305 noExt .plot (fun s c => s.chip.profile != 0 && plotIn [.loaded] s c && s.time.locked && s.cool) (fun s c =>
    guarded c [(0, 32)] [] (fun _ =>
      let n := c.target.toNat
      match s.plot? n with
      | none => .fail stBadTarget 4
      | some p => .done 0 0 ((s.restoreContext n p).onPlot n (fun p => { p with
          st := .running, time := 0, posts := [], pending := 0, pass := none, stopping := none })))) c s

/-! ### PLOT_RECONFIG (R400) -/

/-- The first offending offset of a plot configuration record. -/
def configBad (b : List Byte) : Option Nat :=
  if slice b 0 4 != ascii 4 "PCR1" then some 0
  else (List.range 60).findSome? (fun i =>
    let v := fieldAt b (4 + i) 1
    if (if i == 0 then v > 1 else v != 0) then some (4 + i) else none)

/-- What a serving plot's program is validated for (R399). -/
def State.programTarget (s : State) (p : Plot) : Target := ⟨true, s.chip.profile, p.clusters.length, p.hstacks.length⟩

/-- PLOT_RECONFIG (0x0306): its gather list names where the program lies in host memory; `program` is what lies there. -/
def execPlotReconfig (c : Slot) (program : Option (List Byte)) (s : State) : Out :=
  aqvel 0x0306 (fun _ c => c.extLen.toNat % 16 == 0 && decide (80 ≤ c.extLen.toNat) && decide (c.extLen.toNat ≤ 65600)) .plot
    (fun s c => s.chip.profile != 0 && plotIn [.empty, .loaded] s c
      && (s.plot? c.target.toNat).any (fun p => !p.bad)) (fun s c =>
    guarded c [(0, 32)] [] (fun _ => readsExt s c (fun b =>
      match configBad b, s.plot? c.target.toNat with
      | some o, _ => .fail stBadParam (2 ^ 30 + o)
      | none, none => .fail stBadTarget 4
      | none, some p => match program with
        | none => .fail stHwFault extFaultDetail
        | some g => match imageBad (s.programTarget p) g with
          | some e => .fail stBadParam (2 ^ 31 + e.code)
          | none => .accepted (s.onPlot c.target.toNat (fun p => { p with config := some (fieldAt b 4 1 == 1, g) }))))) c s

/-- A plot's HBM zeroed with correct check bytes, but for the addresses from `lo` to before `hi` (both multiples of 64). -/
def Mem.zeroBut (m : Mem) (ks : List Nat) (lo hi : Nat) : Mem :=
  (List.range ((hi - lo) / 64)).foldl (fun z i =>
    let cw := hbmKey ks (lo + 64 * i) / 64
    z.setCw cw (m.datas (64 * cw) 64) (m.errOf cw)) (ks.foldl clearStack m)

/-- The steps of R400 before the final completion. -/
def State.reconfigure (s : State) (n : Nat) (p : Plot) (zero : Bool) (b : List Byte) : State :=
  let i := parseImage b
  let lo := p.areaOf i
  let s := if zero then s.onMem (fun m => { m with hbm := m.hbm.zeroBut p.hstacks lo (p.ctx + Config.pageBytes) }) else s
  let s := s.hbmWrite n lo (clean b)
  let s := p.physTiles.foldl (fun s t => s.onTile t (fun t => { t with sram := Mem.zero, same := none, groups := [] })) s
  s.onPlot n (fun p => { p with
    st := .loaded, program := some i, config := none, done := 0
    records := i.records.map (fun r => (ScaleRec.ofBytes r).fresh) })

/-- PLOT_RECONFIG_END. -/
def execPlotReconfigEnd (plot : Nat) (s : State) : Out :=
  match s.plot? plot with
  | none => .fault (.noSuchUnit "plot")
  | some p => match s.plotJob 0x0306 plot, p.config with
    | some j, some (zero, b) => .next ((s.reconfigure plot p zero b).endJob j stDone 0 0)
    | _, _ => .next s

/-! ### Passes (R401 to R404) -/

/-- Whether a pass starts now: at a tick boundary of plot time, the second after the oldest post or later (R401). -/
def Plot.passDue (p : Plot) : Bool :=
  (p.st == .running || p.st == .draining) && p.pass.isNone && p.time % 1024 == 0
    && match p.posts with
      | [] => false
      | t :: _ => decide (t + 2 ≤ p.time / 1024)

/-- Length of a plot's pass in ticks. -/
def Plot.period (p : Plot) : Nat := match p.program with
  | some i => periodOf (i.phases 0 false)
  | none => 0

/-- PASS_START. -/
def execPassStart (plot : Nat) (s : State) : Out :=
  match s.plot? plot with
  | none => .fault (.noSuchUnit "plot")
  | some p =>
    if s.chip.profile == 0 || !p.passDue then .next s
    else
      let s := s.onPlot plot (fun p => { p with
        pass := some ⟨s.time.cyc, false, false, []⟩, pending := p.pending - 1, posts := p.posts.tail
        records := p.records.map ScaleRec.fresh })
      let s := p.physTiles.foldl (fun s t => s.onTile t (fun t => { t with
        w := 0, draws := [], abandoned := false, groups := [], claims := [] })) s
      .next (s.refreshBy p.hstacks .image)

/-- The plot after a pass has ended (Tables 16.5, 16.6). -/
def Plot.passOver (x : Pass) (p : Plot) : Plot :=
  { p with pass := none, done := p.done + 1, lastFault := x.failed, fault := p.fault || x.failed, sat := p.sat || x.sat }

/-- PASS_END (R403 to R406). -/
def execPassEnd (plot : Nat) (s : State) : Out :=
  match s.plot? plot with
  | none => .fault (.noSuchUnit "plot")
  | some p => match p.pass with
    | none => .next (s.stopIfDone plot)
    | some x =>
      if s.time.cyc < x.began + p.period * 1024 then .next s
      else
        let s := ((s.closePass plot).onPlot plot (Plot.passOver x)).rest p.hstacks
        .next ((s.signal p.fn 3).stopIfDone plot)

end Sys2Proof.Machine
end

