-- ==== Sys2Proof/Machine/Receive.lean ====
section
/-! DEFINITION. A scheduled or link-control cell at a port (R36, R38, R219 to R221, R225, R226, R236, R237, R283, R293). -/
namespace Sys2Proof.Machine

/-- The descriptor context of a running ingress descriptor on a tile of the training plot. -/
def State.claimDc (s : State) (tile : Nat) (c : Claim) : Dc :=
  ⟨0, tile, tile, s.plot0.hstacks, c.desc, 0, ⟨0, 0, 0⟩, c.record, c.phase, s.phaseKind == some 3, false,
    if c.round.isSome then 1 else 3, 0, false⟩

/-- Whether a cell came after its release cycle, or through a buffer that had drifted too far (R36). -/
def isLate (a : Arrival) : Bool := decide (a.margin < 0) || a.drift

/-- The number of a tag's cell among those of a claim (R224). -/
def Claim.cellOf (c : Claim) (tag : Nat) : Nat := (tag + 65536 - c.tag) % 65536

/-- The index of the claim of a tile that takes a cell of a tag. -/
def Tile.claimFor (t : Tile) (port phase tag : Nat) : Option Nat :=
  t.claims.findIdx? (fun c => c.port == port && c.phase == phase && decide (c.cellOf tag < c.cells))

/-- A claim put back after its cell `i`: gone after its last. -/
def Tile.putClaim (t : Tile) (k i : Nat) (c : Claim) : Tile :=
  { t with claims := if i + 1 == c.cells then t.claims.eraseIdx k else t.claims.set k c }

/-- A cell of a tile-ingress slot handed to its tile; `cell` is its payload and POISON, none when it failed its checks or is
void. -/
def State.toTile (s : State) (p phase : Nat) (e : SlotEntry) (void : Bool) (cell : Option (List Byte × Bool)) : State :=
  match (s.tile e.tile).claimFor p phase e.tag with
  | none => s.onPort p (fun q => { q with unclaimed := sat32 (q.unclaimed + 1) })
  | some k =>
    match (s.tile e.tile).claims[k]? with
    | none => s
    | some c =>
      let i := c.cellOf e.tag
      let d := s.claimDc e.tile c
      match c.round with
      | some r =>
        let x := s.roundCell d r i (match cell with
          | some b => b.2
          | none => false) void (cell.map (·.1))
        x.1.onTile e.tile (fun t => t.putClaim k i { c with round := some x.2 })
      | none =>
        let t := match cell with
          | some b => s.sramWrite d (c.off + 240 * i) (tagged b.2 (slice b.1 0 (min 240 (c.bytes - 240 * i))))
          | none => s
        t.onTile e.tile (fun t => t.putClaim k i c)

/-- A beacon that passed the cell checks (R37, R38): whether it is what the receiver expects in a step. -/
def State.beaconMatches (s : State) (p step phase tick : Nat) (b : List Byte) : Bool :=
  fieldAt b 0 8 == step && fieldAt b 8 2 == phase && fieldAt b 10 1 == s.place.epoch
    && fieldAt b 16 8 % 2 ^ 61 == (s.check p).digRx && fieldAt b 24 8 == tick

/-- The beacon that a port waits for in a phase of a run has been released. -/
def PortCheck.beaconCame (k : PortCheck) (base phase : Nat) (ok : Bool) : PortCheck :=
  { k with
    digRx := 0
    beacons := k.beacons.map (fun b => if b.base == base && b.phase == phase then { b with got := some ok } else b) }

/-- What a port has forwarded of a collective's round. -/
def PortCheck.roundOf (k : PortCheck) (coll : Nat) : RoundSum :=
  (k.rounds.find? (fun x => x.coll == coll)).getD ⟨coll, 0, 0⟩

/-- What a port has forwarded of a collective's round, put back; nothing once its trailer has come. -/
def PortCheck.putRound (k : PortCheck) (coll : Nat) (x : Option RoundSum) : PortCheck :=
  { k with rounds := x.toList ++ k.rounds.filter (fun y => y.coll != coll) }

/-- A forwarded cell (R226), with the data cells counted and the trailer checked on a forwarding chip (R283): only the data
cells of the trailer's own round count. -/
def State.forward (s : State) (p phase : Nat) (e : SlotEntry) (cell : List Byte) (trailer data : Option Nat) : State :=
  let b := slice cell 8 240
  let s := match data with
    | some coll =>
      let k := (s.check p).roundOf coll
      s.onCheck p (fun c => c.putRound coll (some ⟨coll, digAdd k.digest (payloadDigest b), k.count + 1⟩))
    | none => s
  let s := match trailer with
    | some coll =>
      let k := (s.check p).roundOf coll
      let t := s.onCheck p (fun c => c.putRound coll none)
      if trailerOk b k.digest k.count coll then t else t.failCheck 0x04 (collSite coll 0 0xFFFFFFFF none) false
    | none => s
  s.onPort (s.physPort e.out) (fun q => { q with fwd := q.fwd ++ [⟨phase, e.tag, cell⟩] })

/-- A cell that passed every check of R219 in a slot of a run, handed on by its slot's kind. A vote word released after its
run's boundary has nothing to vote on. -/
def State.handOn (s : State) (p phase tick : Nat) (ph : PhaseEntry) (r : Run) (e : SlotEntry) (cell : List Byte)
    (a : Arrival) : State :=
  let b := slice cell 8 240
  let void := bit (fieldAt cell 0 1) 2
  let poison := bit (fieldAt cell 0 1) 3
  if e.isBeacon ph then
    s.onCheck p (fun c => c.beaconCame r.base phase (s.beaconMatches p r.step phase tick b))
  else
    let s := s.onCheck p (fun c => { c with digRx := digAdd c.digRx (payloadDigest b) })
    let s := if void then s.onPort p (fun q => { q with voidRx := sat32 (q.voidRx + 1) }) else s
    match e.kind with
    | 1 => s.toTile p phase e void (if void then none else some (b, poison))
    | 2 => s.forward p phase e cell a.trailer a.data
    | 4 => if s.isNow r then s.voteArrive p s.fabricCycle (if void then none else some b) a.voteDue a.voteCopies else s
    | _ => s

/-- Whether a cell passes the checks of R219 against its entry. -/
def State.cellOk (s : State) (p phase tick : Nat) (e : SlotEntry) (cell : List Byte) : Bool :=
  cellCheckOk cell && cellKind cell == 0 && fieldAt cell 248 4 == ((s.port p).seqRx + 1).toNat
    && fieldAt cell 2 2 == e.tag && fieldAt cell 1 1 == phase % 256 && fieldAt cell 7 1 == tick % 256
    && fieldAt cell 6 1 == s.place.epoch

/-- A failed or missing cell of a reserved slot: R219's handling, and a ROUND that waits for it goes on without it. -/
def State.missed (s : State) (p slot k : Nat) (ph : PhaseEntry) (r : Run) (e : SlotEntry) (voteDue : Bool) : State :=
  let t := s.cellFailed p slot k ph r e voteDue
  if e.kind == 1 then match (t.tile e.tile).claimFor p k e.tag with
    | some _ => t.toTile p k e false none
    | none => t
  else t

/-- Late arrival or drift of a released cell (R36): counted, and a link fault; otherwise its margin is recorded. -/
def State.elastic (s : State) (p : Nat) (a : Arrival) : State :=
  if isLate a then (s.onPort p (fun q => { q with late := sat32 (q.late + 1) })).linkFault p 0x08
  else s.onPort p (fun q => { q with minMargin := min q.minMargin a.margin.toNat })

/-- A slot that the map of its run reserves for ingress: its cell handed on, or missed; either way the port sequence counts
it. -/
def State.arriveReserved (s : State) (p tick slot k : Nat) (ph : PhaseEntry) (r : Run) (e : SlotEntry) (a : Arrival) :
    State :=
  let s := if a.voteCopies && e.kind == 4 && s.isNow r then s.voteUnitFault else s
  let s := match a.cell with
    | some c =>
      let s := s.elastic p a
      if !isLate a && s.cellOk p k tick e c then s.handOn p k tick ph r e c a else s.missed p slot k ph r e a.voteDue
    | none => s.missed p slot k ph r e a.voteDue
  s.onPort p (fun q => { q with seqRx := q.seqRx + 1 })

/-- A cell in a slot that is not reserved (R219): a scheduled one is late, fails in the run of its slot, or, while none runs,
is counted only. -/
def State.arriveElse (s : State) (p tick slot : Nat) (a : Arrival) : State :=
  match a.cell with
  | none => s
  | some c =>
    if !cellCheckOk c then s.onPort p (fun q => { q with cellErr := sat32 (q.cellErr + 1) })
    else if cellKind c != 0 then s
    else
      let s := s.elastic p a
      if isLate a then s
      else match s.runAt tick with
        | none => s.onPort p (fun q => { q with cellErr := sat32 (q.cellErr + 1) })
        | some x => s.cellFault p slot (match s.phaseAt tick with
          | some y => y.1
          | none => x.run.phase) x.run

/-- A scheduled cell, or its absence, in a slot that departed at `tick`. A port that is not ACTIVE takes no cell: its
reserved slots count as failed cells (R229, R234). Slots of the run that has ended last are judged by its maps (log 24). -/
def State.arrive (s : State) (p tick slot : Nat) (a : Arrival) : State :=
  let a : Arrival := if (s.port p).st == 2 then a else { a with cell := none, voteCopies := false }
  match s.ingressEntry p tick slot, s.phaseAt tick, s.runAt tick with
  | some e, some (k, ph), some x => s.arriveReserved p tick slot k ph x.run e a
  | _, _, _ => s.arriveElse p tick slot a

/-- SCHEDULED_CELL_RECEIVE: at the release cycle of the slot, its departure plus the pinned latency (R222). At any
other cycle nothing is released. While VALID is clear no step runs, so a scheduled cell that an ACTIVE port takes in is
counted only (R219). -/
def execScheduledCellReceive (port slot : Nat) (a : Arrival) (s : State) : Out :=
  if port > 9 then .fault (.noSuchUnit "port")
  else
    let q := s.port port
    if q.slots ≤ slot then .next s
    else if !s.time.valid then
      .next (if q.st == 2 && a.cell.any (fun c => !cellCheckOk c || cellKind c == 0) then
        s.onPort port (fun q => { q with cellErr := sat32 (q.cellErr + 1) }) else s)
    else if s.fabricCycle < q.pinned || (s.fabricCycle - q.pinned) % 1024 != q.departs slot then .next s
    else .next (s.arrive port ((s.fabricCycle - q.pinned) / 1024) slot a)

/-- LINK_CONTROL_CELL_RECEIVE (R236, R237): in a slot reserved for ingress it fails that slot's check. On an ACTIVE
link the slot departed the pinned latency earlier. -/
def execLinkControlCellReceive (port : Nat) (cell : List Byte) (slot : ControlAt) (s : State) : Out :=
  if port > 9 then .fault (.noSuchUnit "port")
  else
    let q := s.port port
    let tick := (s.fabricCycle - q.pinned) / 1024
    let body := slice cell 8 240
    let sub := fieldAt cell 1 1
    match (if q.st == 2 && s.time.valid then s.ingressEntry port tick slot.slot else none), s.phaseAt tick, s.runAt tick with
    | some e, some (k, ph), some x =>
      .next (s.arriveReserved port tick slot.slot k ph x.run e ⟨none, 0, false, slot.voteDue, false, none, none⟩)
    | _, _, _ =>
      if q.st != 1 && q.st != 2 then .next s
      else if !cellCheckOk cell || cellKind cell != 3 || sub == 0 || 4 < sub then
        .next (s.onPort port (fun q => { q with cellErr := sat32 (q.cellErr + 1) }))
      else match sub with
        | 1 => .next (if q.st == 1 then s.takeIdentity port body else s)
        | 2 => .next (if q.st == 1 then s.takeCalReq port body else s)
        | 3 => .next (if q.st == 1 then s.takeCalResp port body else s)
        | _ => .next (s.takeEpochCheck port body)

end Sys2Proof.Machine
end

