-- ==== Sys2Proof/Machine/Area.lean ====
section
/-! DEFINITION. The image area of HBM (R58): where a loaded member image lies, and where the descriptor lists of the armed
variant are laid out for the sequencers (R78). -/
namespace Sys2Proof.Machine

/-- A run of pages put into a list of runs in ascending order. -/
def insertRun (r : Nat × Nat) : List (Nat × Nat) → List (Nat × Nat)
  | [] => [r]
  | x :: xs => if r.1 ≤ x.1 then r :: x :: xs else x :: insertRun r xs

/-- The first `n` pages from `p` on that no run of an ascending list of runs holds. -/
def freePages : List (Nat × Nat) → Nat → Nat → List Nat
  | [], p, n => (List.range n).map (fun i => p + i)
  | (first, count) :: rs, p, n =>
    let g := min n (first - p)
    (List.range g).map (fun i => p + i) ++ freePages rs (max p (first + count)) (n - g)

/-- The pages of the image area: the first whole pages outside every region (R58; DESIGN CHOICE, log 85). -/
def Image.area (i : Image) : List Nat :=
  freePages (i.regions.foldr (fun r l => insertRun (r.first, r.pages) l) []) 0 i.areaPages

/-- A loaded image's bytes written into its area. -/
def State.writeArea (s : State) (i : Image) (b : List Byte) : State :=
  (i.area.zip (chunks Config.pageBytes b)).foldl (fun s x => s.hbmWrite 0 (x.1 * Config.pageBytes) (clean x.2)) s

/-- One lookahead group of a descriptor list, filled up with zeros to 1 KiB. -/
def groupBytes (l : List (List Byte)) (j : Nat) : List Byte := slice ((l.drop (16 * j)).take 16).flatten 0 1024

/-- The groups of a schedule's lists: tile, key (group, plus 65,536 for an armed list), bytes. -/
def Sched.listGroups (c : Sched) (key : Nat) : List (Nat × Nat × List Byte) :=
  c.descs.flatMap (fun x => (List.range (ceilDiv x.2.length 16)).map (fun j => (x.1, key + j, groupBytes x.2 j)))

/-- The groups of the lists that a variant runs, its armed form's after its own. -/
def Image.listGroups (i : Image) (v : Nat) : List (Nat × Nat × List Byte) :=
  (i.sched? (baseVar v)).toList.flatMap (fun c => c.listGroups 0)
    ++ (i.sched? (armedVar v)).toList.flatMap (fun c => c.listGroups 65536)

/-- The address of the `n`-th 1 KiB group of the area on the plot's stack of index `si`. -/
def Image.areaGroup (i : Image) (k si n : Nat) : Option Nat :=
  let per := Config.pageBytes / 1024 / max k 1
  (i.area[n / per]?).map (fun p => groupAddr k si (p * per + n % per) * 1024)

/-- The lists of a variant laid out in the area: group `j` of tile `i` on stack (i + j) mod k (R78). A group that the area has
no room for stays in the parsed list (log 85). -/
def State.layLists (s : State) (i : Image) (v : Nat) : State :=
  let k := (s.stacksOf 0).length
  ((i.listGroups v).foldl (fun (x : State × List Nat) g =>
    let si := (g.1 + g.2.1 % 65536) % max k 1
    match i.areaGroup k si (nth x.2 si 0) with
    | some a => ((x.1.hbmWrite 0 a (clean g.2.2)).onTrain (fun t => { t with layout := t.layout ++ [(g.1, g.2.1, a)] }),
        modifyAt x.2 si (· + 1))
    | none => x) (s.onTrain (fun t => { t with layout := [] }), List.replicate k 0)).1

/-- Where a group of a tile's list is laid out. -/
def State.groupAt (s : State) (tile key : Nat) : Option Nat :=
  (s.train.layout.find? (fun x => x.1 == tile && x.2.1 == key)).map (·.2.2)

end Sys2Proof.Machine
end

