-- ==== Sys2Proof/Machine/Shift.lean ====
section
/-! DEFINITION. Slice membership: the plane shift (R344 to R353), its requests, replies and digests (R348), and
LEAVE_SLICE (R356). -/
namespace Sys2Proof.Machine

/-! ### Where a run's pages come from (Table 14.11) -/

/-- The source of a run of the move table. -/
inductive MoveSource where
  | skip
  | here (addr : Nat)
  | zeros
  | chip (plane addr : Nat)
  | nowhere
  deriving DecidableEq, Repr

/-- The physical plane whose old d′ was `x`. -/
def Shift.holder (sh : Shift) (x : Nat) : Option Nat := sh.oldMap.findIdx? (fun v => v == x)

/-- Whether the chips of a plane can serve as sources (R346). -/
def Shift.avail (sh : Shift) (d : Nat) : Bool := !bit sh.unavailable d

/-- The image's δ. -/
def State.delta (s : State) : Nat := match s.train.image with
  | some i => i.delta
  | none => 0

/-- The replica that a move names; 0xFF stands for this chip's own, or the one it mirrors, modulo the old D (Table 14.10, R352). -/
def State.moveReplica (s : State) (sh : Shift) (m : Move) : Nat :=
  if m.x != 0xFF then m.x
  else match sh.newD with
    | none => 0xFF
    | some n => if m.kind == 2 then (n + sh.oldCount - s.delta % max sh.oldCount 1) % max sh.oldCount 1 else n

/-- The plane that is to serve a MIRROR run of replica `x` (Table 14.11). In a change of the replica count the move tables number
replicas by the old map (R352), and the chip that held `x` there serves it (log 90). -/
def State.mirrorPlane (s : State) (sh : Shift) (x : Nat) : Option Nat :=
  if sh.oldCount == sh.newCount then s.place.map.findIdx? (fun v => v == x) else sh.holder x

/-- The source of an OWN, MIRROR or UNMIRRORED run. -/
def State.plainSource (s : State) (sh : Shift) (m : Move) : MoveSource :=
  let x := s.moveReplica sh m
  let n := max sh.oldCount 1
  let me := s.plane.getD 31
  let old := (sh.holder x).filter sh.avail
  match m.kind with
  | 0 =>
    if sh.oldD == some x && m.src == m.dst then .skip
    else if sh.oldD.any (fun o => (o + n - s.delta % n) % n == x) then .here m.fallback
    else match old with
      | some d => if d == me then .here m.src else .chip d m.src
      | none => match (sh.holder ((x + s.delta) % n)).filter sh.avail with
        | some d => .chip d m.fallback
        | none => .nowhere
  | 2 =>
    if sh.oldD.isSome && sh.oldD == sh.newD && sh.oldCount == sh.newCount then .skip
    else match s.mirrorPlane sh x with
      | some d => if d == me then .here m.src else .chip d m.src
      | none => .nowhere
  | _ =>
    if sh.oldD == some x && m.src == m.dst then .skip
    else match old with
      | some d => if d == me then .here m.src else .chip d m.src
      | none => .zeros

/-- The planes that supply an OWN or MIRROR run to this chip. -/
def State.suppliers (s : State) (sh : Shift) : List Nat :=
  sh.moves.filterMap (fun m => if m.kind == 0 || m.kind == 2 then match s.plainSource sh m with
    | .chip d _ => some d
    | _ => none
  else none)

/-- The chip of plane `d` with this chip's t, e and p. -/
def State.chipInPlane (s : State) (d : Nat) : Nat := match s.place.coord with
  | none => 0
  | some c => coordNat c.t c.e c.p d

/-- The nearest plane of a list, the lower one among equals; none is at a finite distance when none is returned. -/
def State.nearest (s : State) (l : List Nat) : Option Nat :=
  l.foldl (fun (b : Option Nat) d => match s.dist (s.chipInPlane d), b with
    | none, b => b
    | some _, none => some d
    | some k, some e => match s.dist (s.chipInPlane e) with
      | some j => if k < j || (k == j && d < e) then some d else some e
      | none => some d) none

/-- The source of a COMMON run. -/
def State.commonSource (s : State) (sh : Shift) (m : Move) : MoveSource :=
  if sh.oldD.isSome then .skip
  else
    let ds := (List.range 17).filter (fun d => nth sh.oldMap d 0xFD < 16 && sh.avail d && s.plane != some d)
    let busy := s.suppliers sh
    match s.nearest (ds.filter (fun d => !busy.contains d)) with
    | some d => .chip d m.src
    | none => match s.nearest ds with
      | some d => .chip d m.src
      | none => .nowhere

/-- Where this chip holds a sealed partner hamper of step `h`. -/
def State.heldHamper (s : State) (h : Nat) : Option Nat := (s.snap.partners.find? (fun p => p.sealed && p.step == h)).map (·.addr)

/-- The source of the hamper of an interval rollback: the chip whose old d′ is (n + δ) mod D, which can be this chip (R353). -/
def State.rollbackSource (s : State) (sh : Shift) : MoveSource :=
  match sh.newD.bind (fun n => (sh.holder ((n + s.delta) % max sh.oldCount 1)).filter sh.avail) with
  | some d =>
    if s.plane == some d then match s.heldHamper (sh.rollback.getD 0) with
      | some a => .here a
      | none => .nowhere
    else .chip d 0
  | none => .nowhere

/-- The source of a run. Kind 4 stands for the partner hamper of an interval rollback (R353). -/
def State.moveSource (s : State) (sh : Shift) (m : Move) : MoveSource :=
  if m.kind == 1 then s.commonSource sh m else if m.kind == 4 then s.rollbackSource sh else s.plainSource sh m

/-! ### Progress -/

/-- The shift in progress changed. -/
def State.onShift (s : State) (f : Shift → Shift) : State := { s with shift := s.shift.map f }

/-- The shift ends ABORTED with a cause of Table 14.8 (R350). -/
def State.shiftAbort (s : State) (cause : Nat) : State :=
  match s.shift with
  | none => s
  | some sh =>
    let now := s.ownTick
    let ours := fun (x : Stream) => match x.purpose with
      | .shift _ _ => true
      | _ => false
    let s := s.onBgp (fun b => { b with
      ended := b.ended ++ (b.streams.filter ours).map (fun x => (x.chip, x.id, now))
      streams := b.streams.filter (fun x => !ours x), serves := [], served := [] })
    ({ s.onTrain (fun t => { t with shiftAborted := true }) with shift := none }).endOp 0x0702 stAborted cause sh.bytes

/-- A chip of the D ring has left the slice, as its cables to this chip show. -/
def State.ringBroken (s : State) : Bool := [6, 7, 8, 9].any (fun p => s.belongs p && (s.port p).st == 3)

/-- Run `k` changed. -/
def State.onMove (s : State) (k : Nat) (f : Move → Move) : State := s.onShift (fun sh => { sh with moves := modifyAt sh.moves k f })

/-- A run placed whole. -/
def Move.place (m : Move) : Move := { m with placed := List.range m.pages, finished := true }

/-- Bytes counted as placed. -/
def State.placedBytes (s : State) (n : Nat) : State := s.onShift (fun sh => { sh with bytes := sh.bytes + n })

/-- The runs with what they are placed from. -/
def State.sources (s : State) (sh : Shift) : List (Nat × Move × MoveSource) :=
  sh.moves.zipIdx.map (fun m => (m.2, m.1, s.moveSource sh m.1))

/-- The hamper of an interval rollback, in the partner region, checked and unpacked (R353). -/
def State.takeRollback (s : State) (sh : Shift) (a room : Nat) : State :=
  let h := s.copyRead 0 a 256
  let n := min (fieldAt (h.1.map (·.1)) 112 8) room
  let b := h.2.copyRead 0 a n
  let bs := b.1.map (·.1)
  let t := b.2
  if (t.hamperBad bs room true true).isSome || some (fieldAt bs 27 1) != sh.newD || some (fieldAt bs 8 8) != sh.rollback then
    t.shiftAbort 2
  else (t.unpack bs).onSnap (fun n => { n with partners := [], sealSoon := true })

/-- Whether a run waits to be placed from this chip's own memory, or as zeros. A MIRROR run waits for every other run, and
it and the hamper of a rollback for the readers of the partner region (R347). -/
def Shift.local? (sh : Shift) (m : Nat × Move × MoveSource) : Bool :=
  !m.2.1.finished && ((m.2.1.kind != 4 && m.2.1.kind != 2) || sh.partReaders == 0)
    && (m.2.1.kind != 2 || sh.moves.all (fun x => x.finished || x.kind == 2)) && (match m.2.2 with
      | .here _ => true
      | .zeros => true
      | _ => false)

/-- The runs placed from this chip's own memory or as zeros, all at once: sources are read before any destination is
written. They wait for the persistent readers only (R347). -/
def State.localMoves (s : State) : State :=
  match s.shift with
  | none => s
  | some sh =>
    let todo := (s.sources sh).filter sh.local?
    if sh.persReaders != 0 || todo.isEmpty then s
    else
      let reads := todo.foldl (fun (r : List (Nat × Move × List TByte) × State) m =>
        let n := m.2.1.pages * Config.pageBytes
        match m.2.2 with
        | .here a =>
          if m.2.1.kind == 4 then (r.1, ((r.2.onMove m.1 Move.place).placedBytes n).takeRollback sh a n)
          else
            let x := r.2.copyRead 0 a n
            (r.1 ++ [(m.1, m.2.1, x.1)], x.2)
        | _ => (r.1 ++ [(m.1, m.2.1, clean (zeros n))], r.2.onTrain (fun t => { t with carryPending := false }))) ([], s)
      reads.1.foldl (fun s w => ((s.hbmWrite 0 w.2.1.dst w.2.2).onMove w.1 Move.place).placedBytes w.2.2.length) reads.2

/-- Whether every run from this chip's own memory has been placed, but for MIRROR runs. -/
def State.localDone (s : State) (sh : Shift) : Bool := (s.sources sh).all (fun m => m.2.1.finished || m.2.1.kind == 2 || (match m.2.2 with
  | .chip _ _ => true
  | .nowhere => true
  | _ => false))

/-- A REQUEST packet (Table 14.12). -/
def State.sendRequest (s : State) (sh : Shift) (q : Request) : State :=
  let m := nth sh.moves q.run default
  let src := match s.moveSource sh m with
    | .chip _ a => a + q.first * Config.pageBytes
    | _ => 0
  let src := if m.kind == 4 then sh.rollback.getD 0 else src
  s.toInject 1 (s.control q.chip 4 q.id fFetch 36 (leBytes 4 q.run ++ leBytes 4 q.first ++ leBytes 4 q.pages ++ zeros 4
    ++ leBytes 6 src ++ zeros 2 ++ leBytes 6 q.reply ++ zeros 2 ++ leBytes 2 q.id ++ zeros 2))

/-- The pages from `first` on, at most `room`, that are still to be placed without a gap. -/
def Move.gap (m : Move) (first room : Nat) : Nat :=
  ((List.range (min room (m.pages - first))).takeWhile (fun i => !m.placed.contains (first + i))).length

/-- The next REQUEST, for as many pages of a run as are still to be placed and the partner region takes, once nothing old in the
partner region is still to be read; MIRROR runs come last (R347, R348; log 90). -/
def State.nextRequest (s : State) : State :=
  match s.shift with
  | none => s
  | some sh =>
    if sh.request.isSome || sh.partReaders != 0 || !s.localDone sh then s
    else
      let open_ := (s.sources sh).filter (fun m => !m.2.1.finished)
      match (open_.find? (fun m => m.2.1.kind != 2)).orElse (fun _ => open_.head?), s.partnerRegion with
      | some (k, m, .chip d _), some r =>
        let first := ((List.range m.pages).find? (fun i => !m.placed.contains i)).getD 0
        let pages := m.gap first (if m.kind == 2 || m.kind == 4 then m.pages else r.pages)
        let c := s.chipInPlane d
        let id := s.pickIds c pages
        let reply := if m.kind == 2 then m.dst + first * Config.pageBytes
          else if m.kind == 4 then r.base + first * Config.pageBytes else r.base
        let q : Request := ⟨k, first, pages, c, reply, id.1, 0, s.ownTick, false, [], []⟩
        let hit := fun (p : Partner) => decide (p.addr < q.reply + pages * Config.pageBytes) && decide (q.reply < p.addr + p.length)
        ((id.2.onSnap (fun n => { n with partners := n.partners.filter (fun p => !hit p) })).onShift
          (fun sh => { sh with request := some q })).sendRequest sh q
      | some (_, _, .nowhere), _ => s.shiftAbort 2
      | some (_, _, .chip _ _), none => s.shiftAbort 2
      | _, _ => s

/-- How often digests of a page have failed, with those of a list of pages counted once more. -/
def failsAfter (l : List (Nat × Nat)) (ps : List Nat) : List (Nat × Nat) :=
  ps.map (fun p => (p, ((l.find? (fun x => x.1 == p)).map (·.2)).getD 0 + 1)) ++ l.filter (fun x => !ps.contains x.1)

/-- A REQUEST whose pages have all come and been reported: pages that agree with their digests are placed, the others
are requested again, and the eighth failed digest of one page ends the shift (R348, R350). -/
def State.settleRequest (s : State) : State :=
  match s.shift with
  | none => s
  | some sh => match sh.request with
    | none => s
    | some q =>
      let m := nth sh.moves q.run default
      let all := (List.range q.pages).all (fun i => q.got.any (fun g => g.1 == q.first + i) && q.digests.any (fun g => g.1 == q.first + i))
      if !all || (m.kind != 2 && sh.persReaders != 0) then s
      else
        let good := (List.range q.pages).filter (fun i =>
          (q.got.find? (fun g => g.1 == q.first + i)).map (·.2) == (q.digests.find? (fun g => g.1 == q.first + i)).map (·.2))
        let bad := failsAfter m.bad (((List.range q.pages).filter (fun i => !good.contains i)).map (fun i => q.first + i))
        if bad.any (fun x => decide (8 ≤ x.2)) then s.shiftAbort 3
        else
          let s := if m.kind == 2 || m.kind == 4 then s else good.foldl (fun s i =>
            let r := s.copyRead 0 (q.reply + i * Config.pageBytes) Config.pageBytes
            r.2.hbmWrite 0 (m.dst + (q.first + i) * Config.pageBytes) r.1) s
          let placed := m.placed ++ good.map (fun i => q.first + i)
          let done := placed.length == m.pages
          let s := (s.onMove q.run (fun m => { m with placed := placed, finished := done, bad := bad })).placedBytes (good.length * Config.pageBytes)
          let s := if done && m.kind == 4 then s.takeRollback sh (q.reply - q.first * Config.pageBytes) (m.pages * Config.pageBytes)
            else s
          -- failed pages are asked for again
          match (List.range q.pages).find? (fun i => !good.contains i) with
          | none => s.onShift (fun sh => { sh with request := none })
          | some i =>
            let first := q.first + i
            let n := ((List.range (q.pages - i)).takeWhile (fun k => !good.contains (i + k))).length
            let id := s.pickIds q.chip n
            let again : Request := { q with first := first, pages := n, id := id.1, tries := 0, since := s.ownTick,
                                            notReady := false, got := [], digests := [],
                                            reply := q.reply + i * Config.pageBytes }
            (id.2.onShift (fun sh => { sh with request := some again })).sendRequest sh again

/-! ### Serving other chips (R347, R348) -/

/-- Whether this chip has placed all of its own OWN, COMMON and UNMIRRORED runs. -/
def State.ownPlaced (s : State) : Bool := match s.shift with
  | none => true
  | some sh => sh.moves.all (fun m => m.finished || m.kind == 2)

/-- Whether a serve reads bytes of a range. -/
def Serve.meets (v : Serve) (src pages : Nat) : Bool :=
  decide (v.src < src + pages * Config.pageBytes) && decide (src < v.src + v.pages * Config.pageBytes)

/-- Whether a REQUEST, while readers of old persistent pages are still to come, is one for placed pages. A requester asks for its
MIRROR run last (R347), so a second run over pages that it has read as old ones is one; so is a run over pages that this chip's
own OWN runs place, when the requester mirrors this chip and this chip was not the old holder of its replica (log 90). -/
def State.asksPlaced (s : State) (sh : Shift) (chip run src pages : Nat) : Bool :=
  let n := nth s.place.map (chipAxis chip 3) 0xFD
  let mirrors := sh.oldCount == sh.newCount && s.replica.any (fun d =>
    n < 16 && (n + sh.newCount - s.delta % max sh.newCount 1) % max sh.newCount 1 == d)
  let own := sh.moves.any (fun m => m.kind == 0 && decide (m.dst ≤ src) && decide (src < m.dst + m.pages * Config.pageBytes))
  s.bgp.served.any (fun v => v.chip == chip && v.run != run && v.kind == 0 && v.meets src pages)
    || (mirrors && own && sh.oldD != some n)

/-- What a REQUEST reads: 0 old persistent pages, 1 old partner pages, 2 pages placed for a mirror. A run that has been served
stays of its kind. -/
def State.serveKind (s : State) (chip run src pages : Nat) : Nat :=
  match s.bgp.served.find? (fun v => v.chip == chip && v.run == run) with
  | some v => v.kind
  | none =>
    if (s.regions 0).any (fun r => r.kind == 2 && r.holds src 1) then 1
    else match s.shift with
      | none => 2
      | some sh => if sh.rollback.isSome then 1
        else if sh.persReaders != 0 && !s.asksPlaced sh chip run src pages then 0 else 2

/-- NOT_READY (Table 14.12). -/
def State.sendNotReady (s : State) (chip id run : Nat) : State :=
  s.toInject 0 (s.control chip 4 id (fReply + fRefuse) 8 (leBytes 1 5 ++ zeros 3 ++ leBytes 4 run))

/-- A REQUEST taken in: answered NOT_READY, or served. One that is being served already changes nothing. A holder with
no sealed partner hamper of the step asked for answers nothing (R353). -/
def State.takeRequest (s : State) (chip id : Nat) (payload : List Byte) : State :=
  let u := fun (o n : Nat) => fieldAt payload o n
  let run := u 0 4
  if s.bgp.serves.any (fun v => v.chip == chip && v.run == run) then s
  else
    let kind := s.serveKind chip run (u 16 6) (u 8 4)
    let rolling := s.shift.any (fun sh => sh.rollback.isSome)
    if kind == 2 && !s.ownPlaced then s.sendNotReady chip id run
    else
      let src := if rolling then (s.heldHamper (u 16 6)).map (· + u 4 4 * Config.pageBytes)
        else some (u 16 6)
      match src with
      | none => s
      | some a => s.onBgp (fun b => { b with serves := b.serves ++ [⟨chip, run, u 4 4, u 8 4, a, u 24 6, u 32 2, kind, 0, [], 0⟩] })

/-- A DIGEST packet for pages `from` to `from + n - 1` of a serve. -/
def State.sendDigest (s : State) (v : Serve) (at_ n : Nat) : State :=
  let ds := (List.range n).foldl (fun (r : List Byte × State) i =>
    let x := r.2.copyRead 0 (v.src + (at_ + i) * Config.pageBytes) Config.pageBytes
    (r.1 ++ leBytes 8 (payloadDigest (x.1.map (·.1))), x.2)) ([], s)
  ds.2.toInject 1 (ds.2.control v.chip 4 v.id fReply (8 + 8 * n) (leBytes 4 v.run ++ leBytes 4 (v.first + at_) ++ ds.1))

/-- Streams of shift pages that are open. -/
def State.shiftStreams (s : State) : Nat := (s.bgp.streams.filter (fun x => match x.purpose with
  | .shift _ _ => true
  | _ => false)).length

/-- A serve taken further: streams opened, digests sent once their pages' streams are complete, and the run counted
when all is sent. -/
def State.serveOne (s : State) (v : Serve) : State :=
  let n := min (v.pages - v.opened) (min (1024 - s.shiftStreams) (4096 - s.bgp.streams.length))
  let s := (List.range n).foldl (fun s i =>
    let k := v.opened + i
    s.openStream (freshStream v.chip ((v.id + k) % 65536) 4 0 (ceilDiv Config.pageBytes 224) (v.src + k * Config.pageBytes)
      Config.pageBytes (v.reply + k * Config.pageBytes) (.shift v.run k))) s
  let ready := ((List.range (v.pages - v.told)).takeWhile (fun i => v.closed.contains (v.told + i))).length
  let send := if ready ≥ 27 then 27 else if v.told + ready == v.pages then ready else 0
  let s := if send != 0 then s.sendDigest v v.told send else s
  let w : Serve := { v with opened := v.opened + n, told := v.told + send }
  if w.told == w.pages then
    let fresh := !s.bgp.served.any (fun r => r.chip == v.chip && r.run == v.run)
    let s := s.onBgp (fun b => { b with
      serves := b.serves.filter (fun x => !(x.chip == v.chip && x.run == v.run))
      served := if fresh then b.served ++ [{ w with closed := [] }] else b.served })
    if !fresh then s
    else s.onShift (fun sh => { sh with
      persReaders := if v.kind == 0 then sh.persReaders - 1 else sh.persReaders
      partReaders := if v.kind == 1 then sh.partReaders - 1 else sh.partReaders })
  else s.onBgp (fun b => { b with serves := b.serves.map (fun x => if x.chip == v.chip && x.run == v.run then w else x) })

/-- Every serve taken further. -/
def State.servePass (s : State) : State := s.bgp.serves.foldl State.serveOne s

/-- Everything of a plane shift that waits on nothing, done. -/
def State.shiftPass (s : State) : State :=
  let s := s.servePass
  if s.shift.isSome && s.ringBroken then s.shiftAbort 4 else s.localMoves.settleRequest.nextRequest

/-- A stream of shift pages towards a chip has ended COMPLETE. -/
def State.shiftStreamDone (s : State) (chip run page : Nat) : State :=
  (s.onBgp (fun b => { b with serves := b.serves.map (fun v =>
    if v.chip == chip && v.run == run then { v with closed := page :: v.closed } else v) })).shiftPass

/-- A stream of shift pages has failed: its run is no longer served. -/
def State.shiftStreamLost (s : State) (chip run : Nat) : State :=
  s.onBgp (fun b => { b with serves := b.serves.filter (fun v => !(v.chip == chip && v.run == run)) })

/-- A page's stream from a source is complete at this chip: its digest is taken. -/
def State.shiftPageIn (s : State) (chip stream : Nat) : State :=
  match s.shift.bind (·.request) with
  | none => s
  | some q =>
    let i := (stream + 65536 - q.id) % 65536
    if q.chip != chip || q.pages ≤ i then s
    else
      let r := s.copyRead 0 (q.reply + i * Config.pageBytes) Config.pageBytes
      let d := payloadDigest (r.1.map (·.1))
      (r.2.onShift (fun sh => { sh with request := some { q with
        got := (q.first + i, d) :: q.got.filter (fun g => g.1 != q.first + i), since := s.ownTick } })).shiftPass

/-- A DIGEST or NOT_READY of a source. -/
def State.shiftReply (s : State) (chip flags len : Nat) (payload : List Byte) : State :=
  match s.shift.bind (·.request) with
  | none => s
  | some q =>
    let refuse := flags / 8 % 2 == 1
    let run := if refuse then fieldAt payload 4 4 else fieldAt payload 0 4
    if q.chip != chip || run != q.run then s
    else if refuse then s.onShift (fun sh => { sh with request := some { q with notReady := true, since := s.ownTick } })
    else
      let first := fieldAt payload 4 4
      let ds := (List.range ((len - 8) / 8)).map (fun i => (first + i, fieldAt payload (8 + 8 * i) 8))
      (s.onShift (fun sh => { sh with request := some { q with
        digests := ds ++ q.digests.filter (fun g => !ds.any (fun d => d.1 == g.1)), since := s.ownTick } })).shiftPass

/-! ### The commands -/

/-- The moves of a table (Table 14.10). -/
def moveOf (b : List Byte) : Move := ⟨fieldAt b 0 1, fieldAt b 1 1, fieldAt b 4 4, fieldAt b 8 8, fieldAt b 16 8, fieldAt b 24 8, [], false, []⟩

/-- The first reserved field of a move table that is nonzero or has a reserved value, as its offset. -/
def tableBad (b : List Byte) (n : Nat) : Option Nat :=
  if fieldAt b 4 4 / 2 ^ 17 != 0 then some 4
  else if !zeroAt b 28 36 then some 28
  else (List.range n).findSome? (fun k =>
    let o := 64 + 32 * k
    if fieldAt b o 1 > 3 then some o else if !zeroAt b (o + 2) 2 then some (o + 2) else none)

/-- Whether this chip takes scale records, step counter and carry-pending bit from the source of its first OWN run: it had no old
d′, so its records are not those of its (t, e, p) (R349). -/
def Shift.takesRecords (sh : Shift) : Bool := sh.oldD.isNone && sh.newD.isSome && sh.rollback.isNone

/-- The old replica whose chip is the source of the first OWN run. -/
def State.firstOwn (s : State) (sh : Shift) : Nat := match sh.moves.find? (fun m => m.kind == 0) with
  | some m => s.moveReplica sh m
  | none => 0xFF

/-- The committed state that the source of the first OWN run holds beside its pages: its scale records (bytes 0 to 47 count) and
its carry-pending bit. An UNMIRRORED run placed as zeros has cleared that bit (Table 14.11). The manual names no packet that
brings them: the same free value for the same source, image and step (log 90). -/
def State.copiedRecords (s : State) (sh : Shift) : State :=
  if !sh.takesRecords then s
  else
    let x := s.firstOwn sh
    let image := match s.train.image with
      | some i => i.id
      | none => 0
    let zeroed := (s.sources sh).any (fun m => m.2.1.kind == 3 && m.2.1.pages != 0 && m.2.2 == .zeros)
    s.onTrain (fun t => { t with
      records := t.records.zipIdx.map (fun r => (ScaleRec.ofBytes ((List.range 64).map (fun j =>
        Config.otherRecord image x t.committed r.2 j))).fresh)
      carryPending := Config.otherCarry image x t.committed && !zeroed })

/-- The pages of a hamper's greatest length. -/
def State.hamperPages (s : State) : Nat := ceilDiv s.hamperMost Config.pageBytes

/-- PLANE_SHIFT accepted (R344). -/
def State.shiftBegin (s : State) (c : Slot) (b : List Byte) : State :=
  let map := (slice c.inl 8 17).map (·.toNat)
  let variant := arg c 26 1
  let rolls := bit (arg c 27 1) 0
  let oldD := s.replica
  let old := s.place.map
  let oldCount := s.replicas
  let s := s.endHamper
  let s := s.newEpoch (arg c 25 1)
  let s := ({ s with place := { s.place with map := map } }).onTrain (fun t => { t with variant := variant })
  let s := s.refreshSlice
  let wait := fieldAt b 16 4
  let moves := if rolls then (if s.replica.isSome then [⟨4, 0xFF, s.hamperPages, 0, 0, 0, [], false, []⟩] else [])
    else (List.range (fieldAt b 0 4)).map (fun k => moveOf (slice b (64 + 32 * k) 32))
  let sh : Shift :=
    { oldMap := old, oldCount := oldCount, newCount := s.replicas, newD := s.replica, oldD := oldD,
      unavailable := fieldAt b 4 4, persReaders := fieldAt b 8 4, partReaders := fieldAt b 12 4,
      deadline := s.time.cyc + (if wait == 0 then 30000 else wait) * Config.cyclesPerMs,
      rollback := if rolls then some (fieldAt b 20 8) else none, absent := arg c 28 2, moves := moves, request := none, bytes := 0 }
  let skip := (s.sources sh).map (fun m => match m.2.2 with
    | .skip => m.2.1.place
    | _ => if m.2.1.pages == 0 then m.2.1.place else m.2.1)
  let s := { s with shift := some { sh with moves := skip } }
  let s := if sh.takesRecords then s.onTrain (fun t => { t with committed := arg c 0 8 - 1 }) else s
  s.shiftPass

/-- PLANE_SHIFT (0x0702). -/
def execPlaneShift (c : Slot) (s : State) : Out :=
  aqvel 0x0702 (fun s c => decide (64 ≤ c.extLen.toNat) && match s.extBytes c with
      | some b => c.extLen.toNat == 64 + 32 * fieldAt b 0 4
      | none => c.extLen.toNat % 32 == 0) .plot
    (fun s _ => trainIn [.parked] s && !s.flash.suspect && s.modeOf 0 != 0) (fun s c =>
    guarded c [(30, 2)] [(27, 1)] (fun _ => readsExt s c (fun b =>
      let n := fieldAt b 0 4
      let map := (slice c.inl 8 17).map (·.toNat)
      let v := arg c 26 1
      let entry := s.train.image.bind (fun i => i.variant? v)
      let ring := match s.train.image with
        | some i => nth i.shape 3 1 + i.spare
        | none => 0
      match tableBad b n with
        | some o => .fail stBadParam (2 ^ 30 + o)
        | none =>
          if arg c 0 8 != s.train.committed + 1 then .fail stBadParam 32
          else if !(match entry with
              | some e => [0, 2, 3, 4].contains v && (v != 4 || s.train.variant == 3 || s.train.variant == 4)
                  && mapOk map e.active ring
              | none => [0, 2, 3, 4].contains v && mapOk map ((map.filter (fun x => decide (x ≤ 0x0F))).length) ring) then
            .fail stBadParam (if (match entry with
              | some e => mapOk map e.active ring
              | none => mapOk map ((map.filter (fun x => decide (x ≤ 0x0F))).length) ring) then 58 else 40)
          else if entry.isNone then .fail stBadParam 58
          else if bit (arg c 27 1) 0 && s.modeOf 0 != 2 then .fail stBadParam 59
          else .acceptedThen s (fun s => s.shiftBegin c b)))) c s

/-- PLANE_SHIFT_DONE: every run is placed and checked and every reader has been served; the plot is ARMED, with the lists of the
variant laid out as ARM lays them out (R349, R78). -/
def execPlaneShiftDone (s : State) : Out :=
  match s.shift, s.job? 0x0702 with
  | some sh, some j =>
    if !sh.moves.all (·.finished) || sh.persReaders != 0 || sh.partReaders != 0 then .next s
    else
      let s := (s.copiedRecords sh).onTrain (fun t => { t with nextAbsent := sh.absent })
      let s := match s.train.image with
        | some i => s.layLists i s.train.variant
        | none => s
      .next ((({ s with shift := none }).setPlot0 .armed).endJob j stDone 0 sh.bytes)
  | _, _ => .next s

/-- PLANE_SHIFT_WAIT_EXPIRY (R350). -/
def execPlaneShiftWaitExpiry (s : State) : Out :=
  match s.shift with
  | some sh => .next (if sh.deadline ≤ s.time.cyc then s.shiftAbort 1 else s)
  | none => .next s

/-- SHIFT_RETRY_TIMER: a REQUEST that NOT_READY answered is repeated after 1,024 ticks; one that nothing answered is
repeated after 16,384, and the eighth ends the shift (R348, R350). -/
def execShiftRetryTimer (run : Nat) (s : State) : Out :=
  match s.shift with
  | none => .next s
  | some sh => match sh.request with
    | none => .next s
    | some q =>
      let wait := if q.notReady then 1024 else 16384
      if q.run != run || decide (s.ownTick < q.since + wait) then .next s
      else if !q.notReady && q.tries + 1 ≥ 8 then .next (s.shiftAbort 2)
      else
        let r : Request := { q with tries := if q.notReady then 0 else q.tries + 1, since := s.ownTick, notReady := false }
        .next ((s.onShift (fun sh => { sh with request := some r })).sendRequest sh r)

/-! ### LEAVE_SLICE -/

/-- LEAVE_SLICE (0x0703): not while readers of a plane shift are still to be served. -/
def execLeaveSlice (c : Slot) (s : State) : Out :=
  aqvel 0x0703 noExt .plot (fun s _ => trainIn [.empty, .loaded, .parked] s
      && !s.shift.any (fun sh => sh.persReaders != 0 || sh.partReaders != 0)) (fun s c =>
    guarded c [(1, 31)] [(0, 1)] (fun _ => .acceptedThen s (fun s =>
      let s := s.endHamper.newEpoch 0
      let s := { s with place := { s.place with map := List.replicate 17 0xFD } }
      let s := (s.setPlot0 .empty).onTrain (fun t => { t.emptied with committed := t.committed, absentLast := t.absentLast })
      let s := s.onSnap (fun n => { n with snap := [], copied := [], armedNext := false, partners := [], turn := 0, sealSoon := false })
      s.refreshSlice))) c s

/-- LEAVE_SLICE_END: HBM zeroed with correct check bytes when bit 0 asked for it (R356). -/
def execLeaveSliceEnd (s : State) : Out :=
  match s.job? 0x0703 with
  | none => .next s
  | some j =>
    let s := if bit (arg j.slot 0 1) 0 then
        (s.stacksOf 0).foldl (fun s k => s.onMem (fun m => { m with hbm := clearStack m.hbm k })) s
      else s
    .next (s.endJob j stDone 0 0)

end Sys2Proof.Machine
end

