-- ==== Sys2Proof/Machine/Streams.lean ====
section
/-! DEFINITION. Streams of the background plane: the packets a stream sends (R239, R252, R332), acknowledgements taken in
(R256, R257), FETCH (R258, R260), the stream tracker (R253 to R255), ejection (R247, R248), and the timers. -/
namespace Sys2Proof.Machine

/-! ### What a stream sends -/

/-- Bytes of the hamper in hand from `off` on, cut at pages, with the state after the reads. -/
def hamperBytesAux (h : Hamper) : Nat → Nat → Nat → List TByte × State → List TByte × State
  | 0, _, _, r => r
  | _, _, 0, r => r
  | fuel + 1, off, n, r =>
    let base := h.layout.pages
    if off < base then
      let k := min n (base - off)
      hamperBytesAux h fuel (off + k) (n - k) (r.1 ++ clean (slice h.front off k), r.2)
    else
      let i := (off - base) / Config.pageBytes
      let at_ := (off - base) % Config.pageBytes
      let k := min n (Config.pageBytes - at_)
      let page := (nth h.pages i (0, 0)).1
      let src := match r.2.snap.copied.find? (fun c => c.1 == page) with
        | some c => c.2
        | none => page
      let f := hbmFetch r.2.mem.hbm (r.2.stacksOf 0) (src * Config.pageBytes + at_) k
      let s := (r.2.onMem (fun m => { m with hbm := f.2.1 })).seenHost (r.2.stacksOf 0) f.2.2
      hamperBytesAux h fuel (off + k) (n - k) (r.1 ++ f.1, s)

/-- Whether the bytes of a hamper from `off` on can be sent: their pages have been drained, and what lies before the pages
waits for every page (R332). -/
def Hamper.ready (h : Hamper) (off n : Nat) : Bool :=
  let base := h.layout.pages
  if off < base then h.dir.length == h.pages.length
  else (List.range ((off + n - 1 - base) / Config.pageBytes - (off - base) / Config.pageBytes + 1)).all (fun i =>
    h.dir.any (fun e => e.1 == (nth h.pages ((off - base) / Config.pageBytes + i) (0, 0)).1))

/-- The packet index of a sequence number of a stream. -/
def State.packetIndex (s : State) (x : Stream) (seq : Nat) : Nat := match x.purpose, s.snap.hamper with
  | .hamper, some h => h.indexOf seq
  | _, _ => seq

/-- Data bytes of a packet of a stream. -/
def Stream.packetLen (x : Stream) (index : Nat) : Nat := min 224 (x.bytes - 224 * index)

/-- Whether a packet of a stream can be read now: the committed view is not being written (R17), the page is drained. -/
def State.packetReady (s : State) (x : Stream) (seq : Nat) : Bool :=
  let i := s.packetIndex x seq
  match x.purpose with
  | .hamper => match s.snap.hamper with
    | some h => h.ready (h.part * partBytes + 224 * i) (x.packetLen i)
    | none => false
  | _ => !s.mustHold (x.src + 224 * i) (x.packetLen i)

/-- The packet of a sequence number as it is injected (R239, R245), whether it carries POISON, and the state after its source
was read. -/
def State.streamPacket (s : State) (x : Stream) (seq : Nat) : List Byte × Bool × State :=
  let i := s.packetIndex x seq
  let n := x.packetLen i
  let r := match x.purpose, s.snap.hamper with
    | .hamper, some h => hamperBytesAux h 4 (h.part * partBytes + 224 * i) n ([], s)
    | _, _ => s.copyRead 0 (x.src + 224 * i) n
  let poison := r.1.any (·.2)
  let h : PktHead :=
    { poison := poison, dst := x.chip, src := s.selfChip, cls := x.cls, stream := x.id, seq := seq, index := i,
      total := x.total, addr := x.dst + 224 * i, len := n, flags := x.flags + b2n (i + 1 == x.total), age := 0, hops := 0,
      epoch := s.place.epoch }
  (packet h (r.1.map (·.1)), poison, r.2)

/-- The next sequence number that a stream may inject: one to be sent again, or the next within 256 of the receiver's
contiguous point (R252). -/
def Stream.next (x : Stream) : Option Nat := match x.again with
  | a :: _ => some a
  | [] => if x.sent < x.total && x.sent < x.ackH + 256 then some x.sent else none

/-- A sequence number injected; one that goes again is a retransmission (R257). -/
def Stream.injected (x : Stream) (seq now : Nat) (poison : Bool) : Stream :=
  if x.again.contains seq then { x with
    again := x.again.erase seq
    flight := x.flight.map (fun f => if f.1 == seq then (seq, now, f.2.2 + 1) else f) }
  else { x with sent := x.sent + 1, flight := x.flight ++ [(seq, now, 0)], poisoned := x.poisoned + b2n poison }

/-! ### The end of a stream -/

/-- One of a hamper's streams has been received whole: the last of them, which holds the header, seals it (R335). -/
def Hamper.sentPart (h : Hamper) : Hamper := if h.part == 0 then { h with partnerDone := true } else { h with part := h.part - 1 }

/-- A stream that its receiver has acknowledged COMPLETE. -/
def State.streamComplete (s : State) (x : Stream) : State :=
  let t := s.dropStream x
  match x.purpose with
  | .host i => t.sendDone i (if x.poisoned != 0 then stPoisoned else stDone) x.poisoned x.bytes
  | .reply r => t.dropRequest r x.id
  | .hamper => ((t.onHamper Hamper.sentPart).partnerPass.settlePages).hamperEnd
  | .shift run page => t.shiftStreamDone x.chip run page

/-- A stream that ends otherwise: a send entry completes with the status and cause, a hamper loses that destination. -/
def State.streamFailed (s : State) (x : Stream) (status cause : Nat) : State :=
  let t := s.dropStream x
  match x.purpose with
  | .host i => t.sendDone i status cause x.ackedBytes
  | .reply r => t.dropRequest r x.id
  | .hamper => (t.onHamper (fun h => { h with partner := false })).settlePages.hamperEnd
  | .shift run _ => t.shiftStreamLost x.chip run

/-- An ACK taken in (R256). One that is older than the latest changes nothing. -/
def State.takeAck (s : State) (chip stream : Nat) (payload : List Byte) : State :=
  match s.stream? chip stream with
  | none => s
  | some x =>
    let h := fieldAt payload 0 3
    let count := fieldAt payload 4 3
    let win := BitVec.ofNat 256 (fieldAt payload 8 32)
    let x := if count < x.ackCount || h < x.ackH then x
      else
        let got := fun (q : Nat) => decide (q < h) || (decide (q - h < 256) && win.getLsbD (q - h))
        { x with ackH := h, ackWin := win, ackCount := count, flight := x.flight.filter (fun f => !got f.1),
                 again := x.again.filter (fun q => !got q) }
    let s := s.onStream chip stream (fun _ => x)
    match fieldAt payload 3 1 with
    | 1 => s.streamComplete { x with ackCount := count }
    | 2 => s.streamFailed x stBadState 0
    | _ => if x.purpose == Purpose.hamper then s.settlePages else s

/-! ### FETCH -/

/-- The longest stream. -/
def streamMost : Nat := partBytes

/-- A FETCH request taken in (R258): served at once, refused, or ignored when its key is held. -/
def State.takeFetch (s : State) (chip stream : Nat) (payload : List Byte) : State :=
  let src := fieldAt payload 0 6
  let n := fieldAt payload 8 4
  if s.bgp.requests.contains (chip, stream) then s.countBgp 7
  else if s.bgp.requests.length ≥ 4096 || s.bgp.streams.length ≥ 4096 then s.sendRefuse chip 2 stream 1 []
  else if !(match regionAt (s.regions 0) src n with
      | some (_, r) => r.fetch
      | none => false) then s.sendRefuse chip 2 stream 2 []
  else if n == 0 || decide (streamMost < n) then s.sendRefuse chip 2 stream 3 []
  else
    (s.onBgp (fun b => { b with requests := b.requests ++ [(chip, stream)] })).openStream
      (freshStream chip stream 2 fReply (ceilDiv n 224) src n (fieldAt payload 16 6) (.reply chip))

/-- This chip's FETCH of a reply stream. -/
def State.fetch? (s : State) (chip stream : Nat) : Option Fetch :=
  s.bgp.fetches.find? (fun f => f.chip == chip && f.stream == stream)

/-- A FETCH changed. -/
def State.onFetch (s : State) (chip stream : Nat) (f : Fetch → Fetch) : State :=
  s.onBgp (fun b => { b with fetches := b.fetches.map (fun x => if x.chip == chip && x.stream == stream then f x else x) })

/-- A FETCH taken away; its stream ID rests. -/
def State.dropFetch (s : State) (chip stream : Nat) : State :=
  s.onBgp (fun b => { b with
    fetches := b.fetches.filter (fun x => !(x.chip == chip && x.stream == stream))
    ended := (chip, stream, s.ownTick) :: b.ended })

/-- A tracker entry freed. -/
def State.dropTrack (s : State) (chip stream : Nat) : State :=
  s.onBgp (fun b => { b with tracker := b.tracker.filter (fun t => !(t.chip == chip && t.stream == stream)) })

/-- A refusal taken in (R260). -/
def State.takeRefuse (s : State) (chip stream : Nat) (payload : List Byte) : State :=
  match s.fetch? chip stream with
  | none => s
  | some f =>
    let reason := fieldAt payload 0 1
    if reason == 2 || reason == 3 then (s.dropFetch chip stream).sendDone f.idx stBadParam 0 0
    else if reason != 1 && reason != 4 then s
    else if f.tries ≥ 8 then
      let t := s.dropFetch chip stream
      if reason == 1 then t.sendDone f.idx stBusy 0 0 else t.sendDone f.idx stAborted 4 0
    else s.onFetch chip stream (fun f => { f with reason := reason, sentAt := s.ownTick })

/-- The request packet of a FETCH (Table 11.8). -/
def State.fetchPacket (s : State) (f : Fetch) : List Byte :=
  s.control f.chip 2 f.stream fFetch 24 (leBytes 6 f.src ++ zeros 2 ++ leBytes 4 f.bytes ++ zeros 4 ++ leBytes 6 f.dst)

/-! ### The tracker -/

/-- Whether a packet may write its bytes (R247, Table 11.2). -/
def State.mayEject (s : State) (h : PktHead) : Bool :=
  h.len == 0 || match regionAt (s.regions 0) h.addr h.len with
    | none => false
    | some (_, r) => match h.cls with
      | 1 => r.kind == 0 && r.eject
      | 2 => r.kind == 0 && r.eject
      | 3 => r.kind == 2 && s.modeOf 0 == 2
      | 4 => r.kind == 2 && s.shift.isSome
      | _ => false

/-- The sealed partner hamper that a complete stream has brought, when its header and sealing digest say so (R335). -/
def State.partnerIn (s : State) (a n : Nat) : State :=
  let h := s.copyRead 0 a 256
  let b := h.1.map (·.1)
  let p := fieldAt b 64 4
  let l := hamperAt p (fieldAt b 68 4) (fieldAt b 72 4)
  if slice b 0 4 != ascii 4 "HMP1" || fieldAt b 112 8 != l.length || decide (n + 223 < min l.length partBytes) then h.2
  else
    let f := h.2.copyRead 0 a l.pages
    let x := f.1.map (·.1)
    if fieldAt b 128 8 == sealDigest b (slice x 256 (32 * p)) (slice x l.records (64 * fieldAt b 68 4)) (slice x l.cursor (fieldAt b 72 4)) then
      f.2.onSnap (fun n => { n with partners := n.partners ++ [⟨a, l.length, fieldAt b 8 8, true⟩] })
    else f.2

/-- What the end of a received stream brings about. -/
def State.streamIn (s : State) (h : PktHead) (poison : Nat) : State :=
  match h.cls with
  | 2 => match s.fetch? h.src h.stream with
    | some f => (s.dropFetch h.src h.stream).sendDone f.idx (if poison != 0 then stPoisoned else stDone) poison f.bytes
    | none => s
  | 3 => s.partnerIn (h.addr - 224 * h.index) (224 * h.total)
  | 4 => s.shiftPageIn h.src h.stream
  | _ => s

/-- The window shifted while its bit 0 is set (R254). -/
def slideWindow : Nat → Nat × BitVec 256 → Nat × BitVec 256
  | 0, x => x
  | n + 1, x => if x.2.getLsbD 0 then slideWindow n (x.1 + 1, x.2 >>> 1) else x

/-- A tracker entry with one more packet written. -/
def Track.accept (t : Track) (d : Nat) (poison : Bool) : Track :=
  let w := slideWindow 256 (t.h, t.window ||| BitVec.twoPow 256 d)
  { t with h := w.1 % 2 ^ 24, window := w.2, count := t.count + 1, poison := t.poison + b2n poison
           st := if t.count + 1 == t.total then 2 else 1 }

/-- A first packet of a stream (R253); one that brings a partner hamper makes the hamper at its place invalid (R335). -/
def State.newTrack (s : State) (h : PktHead) : State :=
  let t : Track := ⟨h.src, h.stream, h.cls, h.total, 0, 0, 0, s.ownTick, 1, none, 0⟩
  let s := s.onBgp (fun b => { b with tracker := b.tracker ++ [t] })
  if h.cls != 3 then s
  else
    let lo := h.addr - 224 * h.index
    s.onSnap (fun n => { n with partners := n.partners.filter (fun p =>
      !(decide (p.addr < lo + 224 * (h.total - 1) + 1) && decide (lo < p.addr + p.length))) })

/-- What the ejection unit has in hand in one go: the state, the bytes to be written, and the streams that have come to their
end, with their poisoned packets. -/
structure Ejection where
  st : State
  writes : List (Nat × TByte)
  ends : List (PktHead × Nat)

/-- A packet that may not write: its stream is rejected, and a FETCH it answers ends (R247, R260). -/
def State.trackReject (s : State) (h : PktHead) : State :=
  let s := ((s.onTrack h.src h.stream (fun t => { t with st := 3 })).countBgp 10).sendAck h.src h.stream
  match if h.cls == 2 then s.fetch? h.src h.stream else none with
  | some f => (s.dropFetch h.src h.stream).sendDone f.idx stBadState 0 0
  | none => s

/-- A packet accepted (R254): a FETCH has been answered, and a whole stream is acknowledged at once (R256). -/
def State.trackAccept (s : State) (h : PktHead) (d : Nat) (whole : Bool) : State :=
  let s := s.onTrack h.src h.stream (fun t => t.accept d h.poison)
  let s := if h.cls == 2 then s.onFetch h.src h.stream (fun f => { f with answered := true }) else s
  if whole then s.sendAck h.src h.stream else s

/-- The tracker's rules for a packet of an entry (R254). Any packet of an entry starts the time to its next ACK (R256). -/
def trackPacket (h : PktHead) (t : Track) (payload : List Byte) (x : Ejection) : Ejection :=
  let now := x.st.ownTick
  let s := x.st.onTrack h.src h.stream (fun t => { t with last := now, ackFrom := some (t.ackFrom.getD now) })
  if t.st != 1 then { x with st := (s.countBgp 7).sendAck h.src h.stream }
  else
    let d := (h.seq + 2 ^ 24 - t.h) % 2 ^ 24
    if h.cls != t.cls || h.total != t.total || t.total ≤ h.index then { x with st := s.countBgp 4 }
    else if 2 ^ 23 ≤ d || (d < 256 && t.window.getLsbD d) then { x with st := (s.countBgp 7).sendAck h.src h.stream }
    else if 256 ≤ d then { x with st := s.countBgp 8 }
    else if !s.mayEject h then { x with st := s.trackReject h }
    else
      let whole := t.count + 1 == t.total
      { st := s.trackAccept h d whole
        writes := x.writes ++ (tagged h.poison (slice payload 0 h.len)).zipIdx.map (fun b => (h.addr + b.2, b.1))
        ends := if whole then x.ends ++ [(h, t.poison + b2n h.poison)] else x.ends }

/-- A packet of a stream at its destination (R253, R254). -/
def toTracker (h : PktHead) (payload : List Byte) (x : Ejection) : Ejection :=
  match x.st.track? h.src h.stream with
  | some t => trackPacket h t payload x
  | none =>
    if x.st.bgp.tracker.length ≥ 65536 then { x with st := x.st.countBgp 9 }
    else
      let s := x.st.newTrack h
      match s.track? h.src h.stream with
      | some t => trackPacket h t payload { x with st := s }
      | none => { x with st := s }

/-- A packet at its destination (R247): it acts on a table, or it passes the tracker and has bytes to write. -/
def takePacket (b : List Byte) (x : Ejection) : Ejection :=
  let h := headOf b
  let p := payloadOf b
  let s := x.st
  match h.cls with
  | 0 => { x with st := s.takeAck h.src h.stream p }
  | 2 =>
    if bit h.flags 1 then { x with st := s.takeFetch h.src h.stream p }
    else if bit h.flags 3 then { x with st := s.takeRefuse h.src h.stream p }
    else toTracker h p x
  | 4 =>
    if bit h.flags 1 then { x with st := (s.takeRequest h.src h.stream p).shiftPass }
    else if bit h.flags 2 then { x with st := s.shiftReply h.src h.flags h.len p }
    else toTracker h p x
  | _ => toTracker h p x

/-- The oldest packets of the ejection buffer taken out. -/
def ejectPackets : Nat → Ejection → Ejection
  | 0, x => x
  | n + 1, x => match x.st.bgp.eject with
    | [] => x
    | p :: rest => ejectPackets n (takePacket p.bytes { x with st := x.st.onBgp (fun b => { b with eject := rest }) })

/-- A byte put into a list of bytes in ascending address, in place of one at its address. -/
def placeByte (v : Nat × TByte) : List (Nat × TByte) → List (Nat × TByte)
  | [] => [v]
  | x :: l => if v.1 < x.1 then v :: x :: l else if v.1 == x.1 then v :: l else x :: placeByte v l

/-- Bytes in ascending address cut into runs of one 1 KiB group each. -/
def groupRuns : List (Nat × TByte) → List (Nat × List TByte)
  | [] => []
  | x :: l => match groupRuns l with
    | r :: rs => if r.1 == x.1 + 1 && r.1 / 1024 == x.1 / 1024 then (x.1, x.2 :: r.2) :: rs else (x.1, [x.2]) :: r :: rs
    | [] => [(x.1, [x.2])]

/-- What the ejection unit has in hand brought to its end: all bytes bound for one group are written as one access, so that
packets which share a codeword write it whole (R248), and then the streams that are complete have their effect (R255). -/
def Ejection.finish (x : Ejection) : State :=
  let bytes := x.writes.foldl (fun l v => placeByte v l) []
  let s := (groupRuns bytes).foldl (fun s r => s.hbmWrite 0 r.1 r.2) x.st
  x.ends.foldl (fun s e => s.streamIn e.1 e.2) s

/-- EJECTION_WRITE (R247, R248): the ejection unit finishes packets, oldest first. -/
def execEjectionWrite (packets : Nat) (s : State) : Out :=
  .next (ejectPackets (min packets s.bgp.eject.length) ⟨s, [], []⟩).finish

/-! ### Timers -/

/-- ACK_TIMER: 256 ticks after the first packet since the last ACK of an entry (R256). -/
def execAckTimer (chip stream : Nat) (s : State) : Out :=
  match s.track? chip stream with
  | some t => match t.ackFrom with
    | some a => .next (if a + 256 ≤ s.ownTick then s.sendAck chip stream else s)
    | none => .next s
  | none => .next s

/-- TRACKER_IDLE_EXPIRY: a COMPLETE or REJECTED entry without a packet for 16,384 ticks is freed (Table 11.5). -/
def execTrackerIdleExpiry (chip stream : Nat) (s : State) : Out :=
  match s.track? chip stream with
  | some t => .next (if t.st != 1 && t.last + 16384 ≤ s.ownTick then s.dropTrack chip stream else s)
  | none => .next s

/-- RETRANSMIT_TIMEOUT (R257): the packet waits to be injected again; one that has been sent again 8 times ends its stream. -/
def execRetransmitTimeout (chip stream seq : Nat) (s : State) : Out :=
  match s.stream? chip stream with
  | none => .next s
  | some x => match x.flight.find? (fun f => f.1 == seq) with
    | none => .next s
    | some f =>
      if s.ownTick < f.2.1 + 16384 || x.again.contains seq then .next s
      else if f.2.2 ≥ 8 then
        let tag := match x.purpose with
          | .host i => match s.dma.sendJobs.find? (fun j => j.1 == i) with
            | some j => j.2.tag.toNat
            | none => 0xFFFF
          | _ => 0xFFFF
        .next ((s.event 0x24 4 0 (leBytes 3 chip ++ leBytes 2 stream ++ leBytes 2 tag)).streamFailed x stAborted 3)
      else .next (s.onStream chip stream (fun x => { x with again := x.again ++ [seq] }))

/-- FETCH_TIMEOUT: neither a reply packet nor a REFUSE within 16,384 ticks (R260). -/
def execFetchTimeout (stream : Nat) (s : State) : Out :=
  match s.bgp.fetches.find? (fun f => f.stream == stream && !f.toSend && f.reason == 0 && !f.answered
      && decide (f.sentAt + 16384 ≤ s.ownTick)) with
  | some f => .next (s.onFetch f.chip stream (fun f => { f with toSend := true }))
  | none => .next s

/-- FETCH_RETRY_TIMER: 1,024 ticks after a refusal of reason 1 or 4, the request goes out again (R260). After reason 4 it
takes a new stream ID, since the entry of the old one holds part of the old reply. -/
def execFetchRetryTimer (stream : Nat) (s : State) : Out :=
  match s.bgp.fetches.find? (fun f => f.stream == stream && f.reason != 0 && decide (f.sentAt + 1024 ≤ s.ownTick)) with
  | none => .next s
  | some f =>
    if f.reason == 1 then
      .next (s.onFetch f.chip stream (fun f => { f with toSend := true, reason := 0, tries := f.tries + 1 }))
    else
      let id := s.pickId f.chip
      let t := id.2.dropFetch f.chip stream
      .next (t.onBgp (fun b => { b with fetches := b.fetches ++ [{ f with
        stream := id.1, toSend := true, reason := 0, answered := false, tries := f.tries + 1 }] }))

end Sys2Proof.Machine
end

