-- ==== Sys2Proof/Machine/Router.lean ====
section
/-! DEFINITION. The router of the background plane: reception (R241), slot assignment (R244 to R246), the sluice and
injection (R249 to R251). -/
namespace Sys2Proof.Machine

/-- SET_SLUICE (0x0505): the marks take effect at the next tick (R251). -/
def execSetSluice (c : Slot) (s : State) : Out :=
  aqvel 0x0505 noExt .chip anyState (fun s c => guarded c [(4, 28)] [] (fun _ =>
    let low := arg c 0 2
    let high := arg c 2 2
    if low == 0 && high == 0 then .done 0 0 (s.onBgp (fun b => { b with newMarks := some (1024, 2048) }))
    else if low == 0 then .fail stBadParam 32
    else if high ≤ low || 8192 < high then .fail stBadParam 34
    else .done 0 0 (s.onBgp (fun b => { b with newMarks := some (low, high) })))) c s

/-! ### Reception (R241) -/

/-- A packet at the router of its destination: to ejection, or back into transit when the buffer is full (R248). -/
def State.ejectOrTransit (s : State) (p : Packet) : State :=
  if s.bgp.eject.length < 4096 then s.onBgp (fun b => { b with eject := b.eject ++ [p] })
  else (s.onBgp (fun b => { b with transit := b.transit ++ [p] })).countBgp 13

/-- BACKGROUND_CELL_RECEIVE: the rules of R241 in their order, once the plane is on (R238). A port takes such a cell only while it
is ACTIVE (Table 10.3). -/
def execBackgroundCellReceive (port : Nat) (cell : List Byte) (fecBad : Bool) (s : State) : Out :=
  if port > 9 then .fault (.noSuchUnit "port")
  else if (s.port port).st != 2 then .next s
  else if !s.planeOn then .next (s.countBgp 6)
  else if fecBad then .next (s.countBgp 5)
  else if !headOk cell then .next (s.countBgp 4)
  else
    let h := headOf cell
    if h.epoch != s.place.epoch then .next (s.countBgp 2)
    else if s.unroutable h.dst then .next (s.countBgp 3)
    else if h.dst == s.selfChip then .next (s.ejectOrTransit ⟨cell, s.time.cyc⟩)
    else if h.hops == 1023 then
      .next ((s.countBgp 1).event 0x23 4 0 (leBytes 3 h.src ++ leBytes 2 h.stream ++ leBytes 3 h.seq))
    else .next (s.onBgp (fun b => { b with transit := b.transit ++ [⟨cell, s.time.cyc⟩] }))

/-! ### Transit (R244) -/

/-- Age of a transit packet, with its whole ticks of waiting. -/
def Packet.age (p : Packet) (now : Nat) : Nat := min 1023 ((headOf p.bytes).age + (now - p.release) / 1024)

/-- Whether one transit packet is assigned before another. -/
def Packet.before (now : Nat) (p q : Packet) : Bool :=
  let a := headOf p.bytes
  let b := headOf q.bytes
  let x := p.age now
  let y := q.age now
  x > y || (x == y && (a.src < b.src || (a.src == b.src && (a.stream < b.stream || (a.stream == b.stream && decide (a.seq ≤ b.seq))))))

/-- Transit packets in order of assignment. -/
def sortPackets (now : Nat) : List Packet → List Packet
  | [] => []
  | p :: l => insert p (sortPackets now l)
where insert (p : Packet) : List Packet → List Packet
  | [] => [p]
  | q :: l => if p.before now q then p :: q :: l else q :: insert p l

/-- The slots still free of the tick, and the state. -/
abbrev Slots := List Slot1 × State

/-- A packet given a slot of the free ones. -/
def Slots.give (x : Slots) (k : Slot1) (b : Packet) : Slots := (x.1.erase k, x.2.giveSlot k b)

/-- One transit packet assigned (R244); `every` are all the quota slots of the tick that have not passed. -/
def assignOne (every : List Slot1) (x : Slots) (p : Packet) : Slots :=
  let s := x.2
  let h := headOf p.bytes
  let fits := fun (k : Slot1) => decide (p.release + 14 ≤ k.at_)
  let go := fun (k : Slot1) => x.give k p
  let keep := (x.1, s.onBgp (fun b => { b with transit := b.transit ++ [p] }))
  if h.dst == s.selfChip then
    -- it found the ejection buffer full: it is deflected at once (R248)
    match earliest (x.1.filter fits) with
    | some k => go k
    | none => keep
  else
    let ports := s.productive h.dst
    let good := fun (k : Slot1) => fits k && ports.contains k.port
    match earliest (x.1.filter good) with
    | some k => go k
    | none =>
      if !every.any good then keep
      else match earliest (x.1.filter fits) with
        | some k => let y := go k
          (y.1, y.2.countBgp 0)
        | none => keep

/-! ### Injection (R250) -/

/-- The sluice state of an occupancy (Table 11.3). -/
def Bgp.sluiceOf (b : Bgp) (occ : Nat) : Nat := if occ < b.low then 0 else if occ < b.high then 1 else 2

/-- What injection works on: the slots that injected packets may take, and the state. -/
structure Inject where
  open_ : List Slot1
  st : State

/-- The slot that an injected packet for a chip takes: the earliest on a productive port, never a deflection. -/
def Inject.slot (x : Inject) (chip : Nat) : Option Slot1 :=
  let ports := x.st.productive chip
  earliest (x.open_.filter (fun k => ports.contains k.port))

/-- Control packets of one class order injected, in the order in which they were made. -/
def injectReady (order : Nat) : List (Nat × List Byte) → Inject → Inject
  | [], x => x
  | p :: l, x =>
    if p.1 != order then injectReady order l x
    else match x.slot (headOf p.2).dst with
      | none => injectReady order l x
      | some k => injectReady order l ⟨x.open_.erase k,
          (x.st.giveSlot k ⟨p.2, x.st.time.cyc⟩).onBgp (fun b => { b with ready := b.ready.erase p })⟩

/-- The packets of one stream injected, as many as find slots; one that is sent again counts in BGP_RETRANSMIT (R257). -/
def injectStream (chip id : Nat) : Nat → Inject → Inject
  | 0, x => x
  | fuel + 1, x => match x.st.stream? chip id with
    | none => x
    | some st => match st.next with
      | none => x
      | some q =>
        if !x.st.packetReady st q then x
        else match x.slot chip with
          | none => x
          | some k =>
            let r := x.st.streamPacket st q
            let s := (r.2.2.giveSlot k ⟨r.1, x.st.time.cyc⟩).onStream chip id (fun y => y.injected q x.st.ownTick r.2.1)
            injectStream chip id fuel ⟨x.open_.erase k, if st.again.contains q then s.countBgp 12 else s⟩

/-- FETCH requests injected. -/
def injectFetches : List Fetch → Inject → Inject
  | [], x => x
  | f :: l, x =>
    if !f.toSend then injectFetches l x
    else match x.slot f.chip with
      | none => injectFetches l x
      | some k =>
        let s := (x.st.giveSlot k ⟨x.st.fetchPacket f, x.st.time.cyc⟩).onFetch f.chip f.stream (fun f =>
          { f with toSend := false, sentAt := x.st.ownTick })
        injectFetches l ⟨x.open_.erase k, s⟩

/-- The streams of one class order (R250): 1 SHIFT, 2 HAMPER, 3 FETCH replies, 4 the host's. -/
def Stream.order (x : Stream) : Nat := match x.purpose with
  | .shift _ _ => 1
  | .hamper => 2
  | .reply _ => 3
  | .host _ => 4

/-- Everything of one class order injected. -/
def injectClass (order : Nat) (x : Inject) : Inject :=
  let x := injectReady order x.st.bgp.ready x
  let x := (x.st.bgp.streams.filter (fun y => y.order == order)).foldl (fun x y => injectStream y.chip y.id x.open_.length x) x
  if order == 4 then injectFetches x.st.bgp.fetches x else x

/-! ### The tick -/

/-- Packets that were given slots of the tick before and were put off by link control are given slots of their ports
first. -/
def State.regive (s : State) : Slots :=
  let s0 := s.onPorts (fun q => { q with bg := [] })
  (List.range 10).foldl (fun (x : Slots) p => (s.port p).bg.foldl (fun (x : Slots) b =>
    match earliest (x.1.filter (fun k => k.port == p)) with
    | some k => x.give k b.2
    | none => (x.1, x.2.giveSlot ⟨0, p, b.1⟩ b.2)) x) (s0.openSlots, s0)

/-- The free slots that lie on a port productive for something that waits to be injected. -/
def State.injectable (s : State) (l : List Slot1) : List Slot1 :=
  let chips := (s.bgp.ready.map (fun r => (headOf r.2).dst) ++ s.bgp.streams.map (·.chip) ++ s.bgp.fetches.map (·.chip)).eraseDups
  let ports := (chips.map s.productive).flatten
  l.filter (fun k => ports.contains k.port)

/-- The earliest slots of a list, at most `n`. -/
def earliestSlots : Nat → List Slot1 → List Slot1
  | 0, _ => []
  | n + 1, l => match earliest l with
    | none => []
    | some k => k :: earliestSlots n (l.erase k)

/-- The slots that the sluice leaves to injection (R250, Table 11.3): of the q free slots on productive ports all, the earliest
half, or none. -/
def State.sluiceSlots (s : State) (sluice : Nat) (free : List Slot1) : List Slot1 :=
  let l := s.injectable free
  if sluice == 0 then l else if sluice == 1 then earliestSlots (l.length / 2) l else []

/-- The tick's number for the router: of fabric time while VALID, else of the chip's own time base. -/
def State.routerNow (s : State) : Nat := if s.time.valid then s.time.tick else s.ownTick

/-- A new tick of the router: marks that a command set are taken (R251). -/
def State.takeMarks (s : State) : State :=
  s.onBgp (fun b => match b.newMarks with
    | some m => { b with lastTick := some s.routerNow, newMarks := none, low := m.1, high := m.2 }
    | none => { b with lastTick := some s.routerNow })

/-- The occupancy read and the sluice set by it (R250, Table 11.3). -/
def State.setSluiceState (s : State) : State :=
  s.onBgp (fun b => { b with occ := s.bgp.transit.length, sluice := b.sluiceOf s.bgp.transit.length })

/-- The tick's slots assigned: to transit packets in their order, then to injected ones in the slots the sluice leaves (R244,
R250). -/
def State.assignSlots (s : State) : State :=
  let every := (s.onPorts (fun q => { q with bg := [] })).openSlots
  let x := s.regive
  let queue := sortPackets s.time.cyc x.2.bgp.transit
  let x := queue.foldl (assignOne every) (x.1, x.2.onBgp (fun b => { b with transit := [] }))
  ([0, 1, 2, 3, 4].foldl (fun x o => injectClass o x) (⟨x.2.sluiceSlots s.bgp.sluice x.1, x.2⟩ : Inject)).st

/-- ROUTER_TICK: at the start of a tick, the new marks are taken and the occupancy is read, and while the plane is on slots are
assigned to transit packets and then to injected ones (R244, R250, R251). -/
def execRouterTick (s : State) : Out :=
  if s.bgp.lastTick == some s.routerNow then .next s
  else
    let s := s.takeMarks
    .next (if s.planeOn then s.shiftPass.partnerPass.setSluiceState.assignSlots else s.setSluiceState)

end Sys2Proof.Machine
end

