-- ==== Sys2Proof/Machine/Schedule.lean ====
section
/-! DEFINITION. The training schedule: loading and arming an image (R55 to R60), START to SET_POLICY (R380, R381), the
boundary between runs, phases, the commit (R67, R68, R204, R309, R331), recall (R342), audit (R317 to R320), descriptor
fetch (R78) and refresh (R92, R93). -/
namespace Sys2Proof.Machine

/-! ### LOAD_IMAGE and ARM -/

/-- LOAD_IMAGE (0x0401): its gather list names where the image lies in host memory; `image` is what lies there, or none where
an entry of the list cannot be read (R372). -/
def execLoadImage (c : Slot) (image : Option (List Byte)) (s : State) : Out :=
  aqvel 0x0401 (fun _ c => c.extLen.toNat % 16 == 0 && decide (16 ≤ c.extLen.toNat) && decide (c.extLen.toNat ≤ 65536)) .plot
    (fun s _ => trainIn [.empty, .loaded] s) (fun s c =>
    guarded c [(0, 32)] [] (fun _ => readsExt s c (fun _ => match image with
      | none => .fail stHwFault extFaultDetail
      | some b => .accepted (s.onTrain (fun t => { t with loading := some b }))))) c s

/-- Detail and result of a rejected image (R57). -/
def Breach.detail (b : Breach) : Nat := b.code + b.dir % 65536 * 65536

/-- A failed load leaves the plot EMPTY. -/
def State.unload (s : State) : State :=
  ((s.setPlot0 .empty).onTrain (fun t => { t with image := none, loading := none, records := [] })).refreshSlice

/-- LOAD_IMAGE_VALIDATION_END (R57, R59, R60). -/
def execLoadImageValidationEnd (s : State) : Out :=
  match s.job? 0x0401, s.train.loading with
  | some j, some b =>
    match imageBad trainTarget b with
    | some e => .next (s.unload.endJob j stInvalid e.detail e.off)
    | none =>
      let i := parseImage b
      match s.fitBad i with
      | some e => .next (s.unload.endJob j stMismatch e.detail e.off)
      | none =>
        let s := { s with place := { s.place with map := i.map } }
        let s := (s.setPlot0 .loaded).onTrain (fun t => { t.emptied with
          image := some i, carry := i.carry, satAccept := i.satAccept })
        let s := s.writeArea i b
        let s := s.onSnap (fun n => { n with partners := [], snap := [], copied := [], armedNext := false })
        .next (s.refreshSlice.endJob j stDone 0 i.id)
  | _, _ => .next s

/-- ARM (0x0402, R313, R426). -/
def execArm (c : Slot) (s : State) : Out :=
  aqvel 0x0402 noExt .plot (fun s _ => trainIn [.loaded] s && s.time.valid && !s.flash.suspect && s.cool) (fun s c =>
    guarded c [(0, 32)] [] (fun _ => .accepted s)) c s

/-- ARM_END: the checks of R60 again; scale records come from the image unless a hamper has brought them (R117), and the lists
are laid out in the image area (R78). -/
def execArmEnd (s : State) : Out :=
  match s.job? 0x0402, s.train.image with
  | some j, some i =>
    match s.fitBad i with
    | some e => .next (s.endJob j stMismatch e.detail e.off)
    | none =>
      let s := if s.train.restored then s else s.onTrain (fun t => { t with
        records := i.records.map (fun r => (ScaleRec.ofBytes r).fresh) })
      let s := s.layLists i s.train.variant
      .next ((s.setPlot0 .armed).endJob j stDone 0 s.train.committed)
  | _, _ => .next s

/-! ### START to SET_POLICY -/

/-- Ticks in 1 ms, rounded up (R342, R380). -/
def ticksPerMs : Nat := 1563

/-- START (0x0403, R380). One that follows another before S0 takes its place; the other ends ABORTED. A plot whose update phase
was halted does not start, whether a plane shift has armed it again or not: no step would follow a half-applied one (R20,
log 86). -/
def execStart (c : Slot) (s : State) : Out :=
  aqvel 0x0403 noExt .plot (fun s _ => trainIn [.armed, .parked] s && s.cool && !s.train.updateHalted
      && !(s.plot0.st == .parked && (s.train.shiftAborted || s.shift.isSome))) (fun s c =>
    guarded c [(8, 24)] [] (fun _ =>
      if arg c 0 8 < s.fabric + ticksPerMs then .fail stBadParam 32
      else
        let t := s.abortJobs (fun j => j.opcode == 0x0403) 0 0
        .accepted (t.onTrain (fun t => { t with next := some (arg c 0 8) })))) c s

/-- STOP (0x0404, R380). -/
def execStop (c : Slot) (s : State) : Out :=
  aqvel 0x0404 noExt .plot (fun s _ => trainIn [.running] s) (fun s c =>
    guarded c [(8, 24)] [] (fun _ =>
      if !s.leadOk (arg c 0 8) then .fail stBadParam 32
      else .accepted (s.onTrain (fun t => { t with changes := t.changes ++ [.stop (arg c 0 8)] })))) c s

/-- The step that SELECT_VARIANT or SET_POLICY names: with the lead of R68 while RUNNING, else 0 (R381). -/
def State.stepArgOk (s : State) (n : Nat) : Bool := if s.plot0.st == .running then s.leadOk n else n == 0

/-- The variant in force changed; a hamper that drains ends (R333). -/
def State.toVariant (s : State) (v : Nat) : State :=
  let s := if v != s.train.variant && s.snap.hamper.any (·.draining) then s.endHamper else s
  s.onTrain (fun t => { t with variant := v })

/-- Whether SELECT_VARIANT may name a variant (R381): the one in force, or of 0 and 2 the other, whose plane map is the map in force: the
base map for variant 0, and whatever map PLANE_SHIFT has supplied for variant 2 (R53). -/
def State.mayRun (s : State) (i : Image) (v : Nat) : Bool :=
  (i.variant? v).isSome && (v == s.train.variant || (v == 0 && s.train.variant == 2 && s.place.map == i.map)
    || (v == 2 && s.train.variant == 0))

/-- SELECT_VARIANT (0x0405, R381). -/
def execSelectVariant (c : Slot) (s : State) : Out :=
  aqvel 0x0405 noExt .plot (fun s _ => trainIn [.armed, .running] s) (fun s c =>
    guarded c [(9, 23)] [] (fun _ =>
      let v := arg c 8 1
      if !s.stepArgOk (arg c 0 8) then .fail stBadParam 32
      else if !(s.train.image.any (fun i => s.mayRun i v)) then .fail stBadParam 40
      else if s.plot0.st == .running then
        .done 0 0 (s.onTrain (fun t => { t with changes := t.changes ++ [.variant (arg c 0 8) v] }))
      else .done 0 0 (s.toVariant v))) c s

/-- Whether CARRY may be selected: every collective with PRESENCE has a carry area (R269). -/
def State.carryOk (s : State) : Bool := match s.train.image with
  | some i => i.scheds.all (fun x => x.colls.all (fun e => !e.presence || e.carry != 0))
  | none => false

/-- The policies after a SET_POLICY. -/
def Train.policy (t : Train) (carry sat : Nat) : Train :=
  { t with carry := if carry == 0xFF then t.carry else carry == 1, satAccept := if sat == 0xFF then t.satAccept else sat == 1 }

/-- SET_POLICY (0x0406). -/
def execSetPolicy (c : Slot) (s : State) : Out :=
  aqvel 0x0406 noExt .plot (fun s _ => trainIn [.loaded, .armed, .running, .parked] s) (fun s c =>
    guarded c [(10, 22)] [] (fun _ =>
      let v := arg c 8 1
      let w := arg c 9 1
      if !s.stepArgOk (arg c 0 8) then .fail stBadParam 32
      else if !([0, 1, 0xFF].contains v) || (v == 1 && !s.carryOk) then .fail stBadParam 40
      else if !([0, 1, 0xFF].contains w) then .fail stBadParam 41
      else if s.plot0.st == .running then
        .done 0 0 (s.onTrain (fun t => { t with changes := t.changes ++ [.policy (arg c 0 8) v w] }))
      else .done 0 0 (s.onTrain (fun t => t.policy v w)))) c s

/-! ### Recall (R342) -/

/-- First tick of the update phase of the run in progress. -/
def State.updateTick (s : State) (r : Run) : Nat := match s.phases.find? (fun p => p.kind == 3) with
  | some p => r.base + p.start
  | none => r.base + r.period

/-- The tick at which a halt at `t` takes effect, with the period of the run in progress taken for the runs after it. -/
def State.haltTickOf (s : State) (t : Nat) : Nat := match s.train.run with
  | none => t
  | some r =>
    let k := (t - r.base) / max r.period 1
    let off := t - r.base - k * r.period
    if off < s.updateTick r - r.base then t else r.base + (k + 1) * r.period

/-- The boundary before step `n`. -/
def State.boundaryOf (s : State) (n : Nat) : Nat := match s.train.run with
  | none => s.time.tick
  | some r => r.base + r.period + (n - (r.step + 1)) * r.period

/-- STOPs whose boundary comes after the halt end ABORTED (R380). -/
def State.dropLaterStops (s : State) (halt : Nat) : State :=
  let late := fun (n : Nat) => decide (halt < s.boundaryOf n)
  (s.abortJobs (fun j => j.opcode == 0x0404 && late (arg j.slot 0 8)) 0 0).onTrain (fun t => { t with
    changes := t.changes.filter (fun c => match c with
      | .stop n => !late n
      | _ => true) })

/-- RECALL_NOTICE (0x0701). -/
def execRecallNotice (c : Slot) (s : State) : Out :=
  aqvel 0x0701 noExt .plot (fun s _ => trainIn [.armed, .running] s) (fun s c =>
    guarded c [(9, 7), (24, 8)] [(8, 3)] (fun _ =>
      let t := arg c 0 8
      if t < s.fabric + ticksPerMs then .fail stBadParam 32
      else match s.sealBad c with
        | some e => .fail e.1 e.2
        | none =>
          let d := sealDests c
          .acceptedThen (s.onTrain (fun x => { x with changes := x.changes ++ [.recall t d.1 d.2] }))
            (fun s => s.dropLaterStops (s.haltTickOf t)))) c s

/-- The earliest halt tick among the recalls that wait (R342). -/
def State.recallTick (s : State) : Option Nat := leastOf (s.train.changes.filterMap (fun c => match c with
  | .recall t _ _ => some t
  | _ => none))

/-- The recall takes effect: the plot parks, and the notice completes, or its seal begins. Another notice in progress ends
ABORTED. -/
def State.recallNow (s : State) (t : Nat) : State :=
  let s := s.park true
  match s.aq.jobs.find? (fun j => j.opcode == 0x0701 && arg j.slot 0 8 == t) with
  | none => s
  | some j =>
    let s := (s.aq.jobs.filter (fun k => k.opcode == 0x0701 && k != j)).foldl (fun s k => s.endJob k stAborted 0 s.train.committed) s
    if arg j.slot 8 1 == 0 then s.endJob j stDone 0xFFFF s.train.committed else s.recallSeal

/-- Whether the run in progress is over: its vote is decided, its last tick has passed, and what it commits has been
committed. -/
def State.runOver (s : State) (r : Run) : Bool :=
  decide (r.base + r.period ≤ s.time.tick) && r.passed.isSome && (r.passed != some true || decide (r.step ≤ s.train.committed))

/-- RECALL_HALT: at T_r when it comes before the update phase of its run, else at the boundary after it. -/
def execRecallHalt (s : State) : Out :=
  match s.recallTick with
  | none => .next s
  | some t => match s.train.run with
    | none => .next (if t ≤ s.time.tick then s.recallNow t else s)
    | some r =>
      if t < s.updateTick r && s.time.tick < s.updateTick r then .next (if t ≤ s.time.tick then s.recallNow t else s)
      else .next (if t ≤ r.base + r.period && s.runOver r then s.recallNow t else s)

/-! ### Audit -/

/-- Chunks that the PACK steps of a variant's lists form. -/
def Image.packChunks (i : Image) (v : Nat) : Nat :=
  ((i.timesOf (baseVar v)).map (fun x => match x.op with
    | .coll 0 o => ceilDiv o.n 4096
    | _ => 0)).foldl (· + ·) 0

/-- Bytes of an AUDIT's log area: the log, and behind it the auditor's own (R318, R319; log 89). -/
def State.auditRoom (s : State) (role : Nat) : Nat :=
  let n := match s.train.image with
    | some i => i.packChunks s.train.variant
    | none => 0
  (64 + 8 * n) * (1 + b2n (role == 1))

/-- AUDIT (0x0704, R317). -/
def execAudit (c : Slot) (s : State) : Out :=
  aqvel 0x0704 noExt .plot (fun s _ => trainIn [.running] s && !s.flash.suspect) (fun s c =>
    guarded c [(9, 7)] [] (fun _ =>
      let role := arg c 8 1
      let log := arg c 16 8
      let u := arg c 24 8
      if role == 0 && !s.leadOk (arg c 0 8) then .fail stBadParam 32
      else if role > 1 || (role == 1 && !s.isSpare) then .fail stBadParam 40
      else if log % 64 != 0 || !(match regionAt (s.regions 0) log (s.auditRoom role) with
          | some (_, r) => r.kind == 0
          | none => false) then .fail stBadParam 48
      else if (role == 0 && u != 0) || (role == 1 && !s.leadOk u) then .fail stBadParam 56
      else .accepted (s.onTrain (fun t => { t with changes := t.changes ++ [.audit (arg c 0 8) role log u] })))) c s

/-- The audit that runs in step `n`, started; an auditor reads the audited log's header (R319). -/
def State.startAudit (s : State) (n : Nat) : State :=
  match s.train.changes.find? (fun c => match c with
    | .audit k role _ u => (if role == 0 then k else u) == n
    | _ => false) with
  | some (.audit k role log u) =>
    let s := s.onTrain (fun t => { t with changes := t.changes.erase (.audit k role log u) })
    let h := if role == 0 then ([], s) else s.copyRead 0 log 64
    h.2.onTrain (fun t => { t with
      audit := some ⟨role, k, log, u, [], t.auditReplica, bit (fieldAt (h.1.map (·.1)) 9 1) 0⟩ })
  | _ => s

/-- An audit log (R318). -/
def auditLog (step run : Nat) (raised : Bool) (es : List (List Byte)) : List Byte :=
  leBytes 8 step ++ leBytes 1 run ++ leBytes 1 (b2n raised) ++ zeros 2 ++ leBytes 4 es.length ++ zeros 48 ++ es.flatten

/-- The AUDIT command of a role and step. -/
def State.auditJob (s : State) (a : Audit) : Option Job :=
  s.aq.jobs.find? (fun j => j.opcode == 0x0704 && arg j.slot 0 8 == a.step && arg j.slot 8 1 == a.role)

/-- The auditor's comparison (R319, R320): its own log goes behind the audited one. -/
def State.compareAudit (s : State) (r : Run) (a : Audit) : State :=
  let h := s.copyRead 0 a.log 64
  let n := fieldAt (h.1.map (·.1)) 12 4
  let l := h.2.copyRead 0 (a.log + 64) (8 * n)
  let s := l.2.hbmWrite 0 (a.log + 64 + 8 * n) (clean (auditLog a.step r.idx a.raised a.entries))
  let theirs := chunks 8 (l.1.map (·.1))
  let bad := (List.range (max n a.entries.length)).filter (fun i => theirs[i]? != a.entries[i]?)
  let s := match bad with
    | [] => s
    | i :: _ =>
      let w : Site := ⟨0, a.replica, i, 0xFFFFFFFF, 0, none⟩
      (s.eventOf a.step 0x1B 0 0 (w.params 1)).writeRecord { s.faultRec 0x1B w false 0 with step := a.step } 7
  match s.auditJob a with
  | some j => s.endJob j stDone (min (max n a.entries.length) 0xFFFFFFFF) bad.length
  | none => s

/-- The audit of a committing run ended (R318, R319). -/
def State.endAudit (s : State) (r : Run) : State :=
  match s.train.audit with
  | none => s
  | some a =>
    if a.role == 0 && a.step == r.step then
      let s := s.hbmWrite 0 a.log (clean (auditLog a.step r.idx r.raised a.entries))
      let s := match s.auditJob a with
        | some j => s.endJob j stDone 0 a.entries.length
        | none => s
      s.onTrain (fun t => { t with audit := none })
    else if a.role == 1 && a.replay == r.step then (s.compareAudit r a).onTrain (fun t => { t with audit := none })
    else s

/-! ### The boundary between runs -/

/-- The changes that take effect with step `n` (R68). -/
def State.applyChanges (s : State) (n : Nat) : State :=
  let due := fun (c : Change) => match c with
    | .variant k _ => decide (k ≤ n)
    | .policy k _ _ => decide (k ≤ n)
    | _ => false
  (s.train.changes.filter due).foldl (fun s c => match c with
    | .variant _ v => s.toVariant v
    | .policy _ a b => s.onTrain (fun t => t.policy a b)
    | _ => s) (s.onTrain (fun t => { t with changes := t.changes.filter (fun c => !due c) }))

/-- Whether a STOP has come due at the boundary before step `n`. -/
def State.stopDue (s : State) (n : Nat) : Bool := s.train.changes.any (fun c => match c with
  | .stop k => decide (k ≤ n)
  | _ => false)

/-- The plot stops at a boundary and is ARMED (R380); the controller refreshes HBM again (R93). -/
def State.stopNow (s : State) (n : Nat) : State :=
  let s := (s.closeRun.leaveRun.setPlot0 .armed).onTrain (fun t => { t with
    run := none, next := none
    changes := t.changes.filter (fun c => match c with
      | .stop k => decide (n < k)
      | _ => true) })
  let s := (s.onPorts Port.quiet).rest (List.range 8)
  (s.aq.jobs.filter (fun j => j.opcode == 0x0404 && decide (arg j.slot 0 8 ≤ n))).foldl (fun s j =>
    s.endJob j stDone 0 s.train.committed) s

/-- A new run's record. -/
def Run.fresh (step idx base period : Nat) (armed raised : Bool) (absent : Nat) (mark : Bool) : Run :=
  { step := step, idx := idx, base := base, period := period, armedForm := armed, begun := 0, failed := 0, sat := false,
    raised := raised, absent := absent, suspectMark := mark, reported := false, pAnd := 0xFFFF, pOr := 0, vMin := 0xFFFF,
    vMax := 0, own := none, held := VoteWord.neutral, heldBare := false, due := none, chained := [], final := none, passed := none, lost := false, phaseOver := false,
    faults := [], rounds := [] }

/-- A run of step `n` begun at a tick: the form and the period in force, working fields zeroed, what the failed run left
taken over (R67, R117, R286, R309, R329). -/
def State.beginRun (s : State) (n idx base : Nat) (prev : List FaultRec) : State :=
  let armed := s.snap.armedNext && match s.train.image with
    | some i => (i.sched? (armedVar s.train.variant)).isSome
    | none => false
  let period := match s.train.image with
    | some i => i.period s.train.variant armed
    | none => 1
  let s := s.onTrain (fun t => { t with
    run := some (Run.fresh n idx base period armed t.nextRaised t.nextAbsent t.dipStep)
    next := none, prev := prev, settled := false, records := t.records.map ScaleRec.fresh
    holds := { Holds.empty with lastLost := t.holds.lastLost }
    audit := t.audit.map (fun a => { a with entries := [] }) })
  let s := s.onMem (fun m => { m with tiles := m.tiles.map (fun t => { t with
    groups := [], claims := [], w := 0, draws := [], abandoned := false }) })
  s.onPorts Port.quiet

/-- The first run of a step after a START or a commit. -/
def State.beginStep (s : State) (base : Nat) : State :=
  let n := s.train.committed + 1
  (((s.applyChanges n).armHamper n base s.train).startAudit n).beginRun n 0 base []

/-- STEP_BOUNDARY: at S0, or once a run is over, the plot parks, halts, stops, or the next run begins (R67, R309, R341,
R342, R380). -/
def execStepBoundary (s : State) : Out :=
  if !s.time.valid then .next s
  else match s.train.run, s.train.next with
  | none, some t0 =>
    if s.time.tick < t0 then .next s
    else match s.recallTick with
      | some t => if t ≤ t0 then .next (s.recallNow t) else .next (starts s t0)
      | none => .next (starts s t0)
  | some r, _ =>
    if !s.runOver r then .next s
    else
      let base := r.base + r.period
      let n := s.train.committed + 1
      if s.train.mustPark then .next (s.park false)
      else if s.recallTick.any (fun t => decide (t ≤ base)) then .next (s.recallNow (s.recallTick.getD 0))
      else if s.stopDue n then .next (s.stopNow n)
      else if n == r.step then .next ((s.leaveRun.applyChanges n).beginRun n (r.idx + 1) base r.faults)
      else .next (s.closeRun.leaveRun.beginStep base)
  | none, none => .next s
where
  /-- The first run after a START: the plot is RUNNING, START completes, the digests start afresh (R37), and the stacks of a
  chip that runs steps are refreshed in the image's windows (R93, R465). -/
  starts (s : State) (t0 : Nat) : State :=
    let s := s.dropSeal.setPlot0 .running
    let s := { s with checks := s.checks.map (fun (k : PortCheck) => { k with digTx := 0, digRx := 0, beacons := [] }) }
    let s := if s.isSpare then s else s.refreshBy (List.range 8) .image
    let s := s.beginStep t0
    (s.aq.jobs.filter (fun (j : Job) => j.opcode == 0x0403)).foldl (fun s j => s.endJob j stDone 0 (s.train.committed + 1)) s

/-! ### Phases -/

/-- The beacons of a phase waited for from now on (R38): on every port of the slice that the image uses. -/
def State.expectBeacons (s : State) (r : Run) (phase : Nat) (ph : PhaseEntry) : State :=
  (List.range 10).foldl (fun s p =>
    if (s.port p).inSlice && s.imageUses (s.imgPort p) then
      s.onCheck p (fun k => { k with
        beacons := k.beacons ++ [⟨r.base, phase, ph.beacon, s.beaconExpected p r ph, none⟩] })
    else s) s

/-- PHASE_START: the next phase of the run has come; the update phase waits for the vote to be decided (R50, R63, R67). -/
def execPhaseStart (s : State) : Out :=
  match s.train.run with
  | none => .next s
  | some r => match s.phases[r.begun]? with
    | none => .next s
    | some ph =>
      if !s.time.valid || s.time.tick < r.base + ph.start || (ph.kind == 3 && r.passed.isNone) then .next s
      else
        let s := s.onRun (fun r => { r with begun := r.begun + 1 })
        let s := s.onMem (fun m => { m with tiles := m.tiles.map (fun t => { t with
          w := 0, draws := [], abandoned := false, claims := [] }) })
        let idle := ph.kind == 3 && r.idle
        let s := if idle then s else s.expectBeacons r r.begun ph
        let s := s.onPorts (fun p => { p with beaconDue := p.inSlice && !idle })
        let s := if ph.kind == 3 && !idle then
            s.onTrain (fun t => { t with holds := { t.holds with entries := [], tiebreak := false, lost := [] } })
          else s
        .next (if ph.kind == 2 then s.beginVote else s)

/-! ### The commit -/

/-- The step of a passed run committed (R15, R119, R204, R286, R288, R331). A pending carry that is dropped leaves the bit clear,
also where this step's own contribution would be carried (log 87). -/
def State.commit (s : State) (r : Run) : State :=
  let carried := s.isCarried
  let own := s.replica.any (fun d => match r.final with
    | some w => !bit w.pAnd d
    | none => false)
  let dropped := s.train.carryPending && own
  let absent := match r.final with
    | some w => s.absentNext w
    | none => r.absent
  let s := if dropped then s.event 0x25 0 0 (leBytes 1 (s.replica.getD 0)) else s
  let s := s.closeRun
  let s := s.onTrain (fun t => { t with
    records := t.records.map ScaleRec.commit
    committed := r.step, absentLast := absent, carryPending := carried && !dropped, failedRuns := 0, nextAbsent := 0, nextRaised := false
    dipStep := false, holds := { t.holds with lastLost := t.holds.lost } })
  let s := s.endAudit r
  let s := if r.armedForm then s.onSnap (fun n => { n with armedNext := false }) else s
  let s := if r.armedForm && s.snap.hamper.any (fun h => !h.draining) then s.startDrain else s
  s.endViews.releaseReads

/-- STEP_COMMIT: at the end of the update phase of a run whose vote passed. -/
def execStepCommit (s : State) : Out :=
  match s.train.run with
  | none => .next s
  | some r => match s.phases[r.phase]? with
    | none => .next s
    | some ph =>
      if ph.kind == 3 && r.begun != 0 && r.passed == some true && s.train.committed < r.step && s.time.valid
          && r.base + ph.start + ph.length ≤ s.time.tick then .next (s.commit r)
      else .next s

/-! ### Descriptor fetch (R78) -/

/-- Cycles since the start of the run or pass of a plot, with its lists: base, and armed while the run is armed. -/
def State.fetchLists (s : State) (plot : Nat) : Option (Nat × List (Nat × Sched)) :=
  if s.chip.profile == 0 then match s.train.run, s.train.image with
    | some r, some i =>
      if plot != 0 || (s.isSpare && s.replay?.isNone) then none
      else
        let base := (i.sched? (baseVar s.train.variant)).toList.map (fun c => (0, c))
        let armed := if r.armedForm then (i.sched? (armedVar s.train.variant)).toList.map (fun c => (65536, c)) else []
        some (s.fabricCycle - r.base * 1024, base ++ armed)
    | _, _ => none
  else match s.plot? plot with
    | none => none
    | some p => match p.pass, p.program with
      | some x, some i => some (s.time.cyc - x.began, (i.sched? 0).toList.map (fun c => (0, c)))
      | _, _ => none

/-- Whether every descriptor of a group has ended, the phases before `phase` being over. -/
def groupEnded (l : List (List Byte)) (g phase now : Nat) (draws : List Nat) : Bool :=
  ((l.drop (16 * g)).take 16).all (fun b =>
    let h := parseHead b
    decide (h.phase < phase) || decide (startCycle h draws + h.duration ≤ now))

/-- A group's 1 KiB as its fetch delivers them: from where the list is laid out, or, where it is not, from the parsed list.
None where a codeword of it is poisoned: such a group is not held, and its descriptors find no entry (log 85). -/
def State.fetchGroup (s : State) (plot tile key group : Nat) (l : List (List Byte)) : Option (List Byte) × State :=
  match if s.chip.profile == 0 then s.groupAt tile key else none with
  | none => (some (groupBytes l group), s)
  | some a =>
    let ks := s.stacksOf plot
    let f := hbmFetch s.mem.hbm ks a 1024
    let t := (s.onMem (fun m => { m with hbm := f.2.1 })).seenHbm plot ks (16 * group) false f.2.2
    (if anyTaint f.1 then none else some (plain f.1), t)

/-- The groups of a tile that stay in its lookahead buffer: those with a descriptor that has not ended. -/
def State.keptGroups (s : State) (tile now : Nat) (ls : List (Nat × Sched)) (t : Tile) : List (Nat × List Byte) :=
  t.groups.filter (fun g => match ls.find? (fun x => x.1 == g.1 / 65536 * 65536) with
    | some x => !groupEnded (x.2.list tile) (g.1 % 65536) s.phaseIdx now t.draws
    | none => false)

/-- DESCRIPTOR_FETCH: group `group` of a tile's list, from 256 cycles before the declared start of its first descriptor on;
groups that have ended leave the buffer, which holds 128 (R78). -/
def execDescriptorFetch (plot tile group : Nat) (s : State) : Out :=
  match s.plot? plot with
  | none => .fault (.noSuchUnit "plot")
  | some p =>
    if 16 * p.clusters.length ≤ tile then .fault (.noSuchUnit "tile")
    else match s.fetchLists plot with
      | none => .next s
      | some (now, ls) =>
        let phys := p.tileAt tile
        let s := s.onTile phys (fun t => { t with groups := s.keptGroups tile now ls t })
        .next (ls.foldl (fun s x => match (x.2.list tile)[16 * group]? with
          | some b =>
            let t := s.tile phys
            if now + 256 < (parseHead b).start || (t.group? (x.1 + group)).isSome || 128 ≤ t.groups.length then s
            else
              let f := s.fetchGroup plot tile (x.1 + group) group (x.2.list tile)
              match f.1 with
              | some bs => f.2.onTile phys (fun t => { t with groups := t.groups ++ [(x.1 + group, bs)] })
              | none => f.2
          | none => s) s)

/-! ### Refresh (R92, R93) -/

/-- Whether the current tick of a pass is a window of a stack in its serving program, which numbers the plot's stacks from 0 (R402). -/
def Plot.inWindow (p : Plot) (k now : Nat) : Bool := match p.pass, p.program with
  | some x, some i => p.hstacks.contains k && (i.windows 0 (p.hstacks.idxOf k)).contains ((now - x.began) / 1024)
  | _, _ => false

/-- Whether the current tick is a refresh window of a stack: of the step's schedule (R92) or of a pass's (R402). -/
def State.inWindow (s : State) (k : Nat) : Bool := match s.train.run, s.train.image with
  | some r, some i =>
    let key := if r.armedForm then armedVar s.train.variant else baseVar s.train.variant
    (i.windows key k).contains (s.time.tick - r.base) && decide (r.base ≤ s.time.tick)
  | _, _ => s.chip.profile != 0 && s.plots.any (fun p => p.inWindow k s.time.cyc)

/-- HBM_REFRESH_WINDOW: in a tick that the schedule in force names as a window of the stack. -/
def execHbmRefreshWindow (stack : Nat) (s : State) : Out :=
  if stack > 7 then .fault (.noSuchUnit "HBM stack")
  else if (s.stack stack).refresh == .image && s.inWindow stack then
    .next (s.onStack stack (fun x => { x with lastRef := s.time.cyc }))
  else .next s

/-- HBM_CONTROLLER_REFRESH: the controller's own refresh, while no step runs on the stack. -/
def execHbmControllerRefresh (stack : Nat) (s : State) : Out :=
  if stack > 7 then .fault (.noSuchUnit "HBM stack")
  else if (s.stack stack).refresh == .controller then .next (s.onStack stack (fun x => { x with lastRef := s.time.cyc }))
  else .next s

end Sys2Proof.Machine
end

