-- ==== Sys2Proof/Machine/SendQueue.lean ====
section
/-! DEFINITION. The host send queue (R262, R263) and BAR0 writes (R432). -/
namespace Sys2Proof.Machine

/-- SEND_QUEUE_ENABLE: ENABLE of the send queue (R262, R174). -/
def execSendQueueEnable (s : State) : Out :=
  let fresh := s.dma.send.st == 0
  let t := s.onQ 5 DmaQueue.enable
  .next (if fresh then { t with dma := { t.dma with sendNext := 0 } } else t)

/-- SEND_QUEUE_DRAIN (R174). -/
def execSendQueueDrain (s : State) : Out := .next (s.queueDrain 5)

/-- SEND_QTAIL_DOORBELL (R171). -/
def execSendQtailDoorbell (value : W32) (s : State) : Out := .next (s.onQ 5 (fun d => d.doorbell value))

/-- Every running send entry ended ABORTED at a packet boundary, with the bytes acknowledged so far (R262). -/
def State.abortSends (s : State) : State :=
  s.dma.sendJobs.foldl (fun s j =>
    match s.bgp.streams.find? (fun x => x.purpose == Purpose.host j.1), s.bgp.fetches.find? (fun f => f.idx == j.1) with
    | some x, _ => s.streamFailed x stAborted 1
    | none, some f => (s.dropFetch f.chip f.stream).sendDone j.1 stAborted 1 0
    | none, none => s.sendDone j.1 stAborted 1 0) s

/-- ABORT of the send queue (R175, R262): the queue is ABORTING, its running entries end, and those not started follow in ring
order. -/
def State.sendAbort (s : State) : State :=
  if s.dma.send.st == 1 || s.dma.send.st == 2 then ((s.onQ 5 (fun d => { d with st := 3 })).abortSends).drained 5 else s

/-- SEND_QUEUE_ABORT. -/
def execSendQueueAbort (s : State) : Out := .next s.sendAbort

/-- A send entry that completes BAD_PARAM (Table 11.10): malformed, a destination that cannot be, or a local range that
lies in no region that permits the access. -/
def State.sendBad (s : State) (e : SendEntry) : Bool :=
  e.kind > 1 || e.reserved || e.b == 0 || decide (streamMost < e.b) || decide (2 ^ 20 ≤ e.chip) || e.chip == s.selfChip
    || s.unroutable e.chip
    || (match regionAt (s.regions 0) e.localAddr e.b with
      | none => true
      | some (_, r) => e.kind == 1 && !(r.kind == 0 && r.eject))

/-- The status with which a send entry ends at its start (Table 11.10). -/
def State.sendRefused (s : State) (e : SendEntry) : Option Nat :=
  if s.dma.send.st == 3 then some stAborted
  else if !s.planeOn then some stBadState
  else if s.sendBad e then some stBadParam
  else none

/-- SEND_ENTRY_START: the next entry of the ring starts, up to 256 at once; one that an aborting queue takes ends ABORTED (R262). -/
def execSendEntryStart (e : SendStart) (s : State) : Out :=
  let d := s.dma.send
  if d.st == 0 || d.head == d.limit || s.dma.sendJobs.length ≥ 256 || s.bgp.streams.length ≥ 4096 then .next s
  else match e.entry with
  | none => .next (s.onQ 5 (fun d => { d.stop with ringFault := true }))
  | some f =>
    let i := s.dma.sendNext
    let t := s.onQ 5 DmaQueue.next
    let t := { t with dma := { t.dma with sendNext := i + 1 } }
    match s.sendRefused f with
    | some st => .next (t.copyPost 5 d.head.toNat f.tag.toNat f.signal st (b2n (st == stAborted)) 0 e.ringOk)
    | none =>
      let t := { t with dma := { t.dma with sendJobs := t.dma.sendJobs ++ [(i, f)] } }
      let id := t.pickId f.chip
      if f.kind == 0 then
        .next (id.2.openStream (freshStream f.chip id.1 1 0 (ceilDiv f.b 224) f.localAddr f.b f.remote (.host i)))
      else
        .next (id.2.onBgp (fun b => { b with
          fetches := b.fetches ++ [⟨f.chip, id.1, f.remote, f.b, f.localAddr, i, true, 0, 0, 0, false⟩] }))

/-- A write of the send queue's control register starts its ring over as SEND_QUEUE_ENABLE does. -/
def State.freshSends (s t : State) : State :=
  if s.dma.send.st == 0 && t.dma.send.st == 1 then { t with dma := { t.dma with sendNext := 0 } } else t

/-- REGISTER_WRITE (R432). A chip held in reset takes no write, and no write reaches a VF that is not enabled (R430). -/
def execRegisterWrite (fn off width : Nat) (value : W64) (s : State) : Out :=
  if fn > 4 then .fault (.noSuchUnit "function")
  else if s.chip.held.power || s.chip.held.pin || s.chip.held.trip || !s.fnOn fn then .next s
  else .next (s.freshSends (s.writeAccess fn off width value State.sendAbort))

end Sys2Proof.Machine
end

