-- ==== Sys2Proof/Machine/Vectors.lean ====
section
/-! DEFINITION. Published test vectors (R456 to R460): RUN_VECTORS checks a set, and each VECTOR_RUN_END runs one vector and
writes its result entry. A vector runs on a copy of the state, of which only the tiles and the free-value counter are
kept, so that nothing it meets is raised, recorded or counted (R459). -/
namespace Sys2Proof.Machine

/-! ### The form of a set (R456 to R458) -/

/-- A span: SRAM offset, data, and its own offset in the set. -/
structure VSpan where
  off : Nat
  data : List Byte
  pos : Nat
  deriving DecidableEq, Repr, Inhabited

/-- A vector record (Table 20.3). -/
structure VRec where
  pos : Nat
  len : Nat
  kind : Nat
  flags : Nat
  tile : Nat
  spill : Nat
  v : Nat
  seed : W64
  step : Nat
  cycles : Nat
  body : List (List Byte)
  ins : List VSpan
  outs : List VSpan
  deriving DecidableEq, Repr, Inhabited

/-- `count` spans from `pos`, before `stop`: the spans and where they end, or the offending offset. -/
def spansOf (b : List Byte) : Nat → Nat → Nat → Except Nat (List VSpan × Nat)
  | 0, pos, _ => .ok ([], pos)
  | k + 1, pos, stop =>
    let n := fieldAt b (pos + 4) 4
    let next := pos + 8 + roundUp n 8
    if stop < pos + 8 then .error pos
    else if stop < next then .error (pos + 4)
    else if !zeroAt b (pos + 8 + n) (next - (pos + 8 + n)) then .error (pos + 8 + n)
    else match spansOf b k next stop with
      | .error e => .error e
      | .ok r => .ok (⟨fieldAt b pos 4, slice b (pos + 8) n, pos⟩ :: r.1, r.2)

/-- A rule of a set: the offset that breaks it. -/
def needAt (ok : Bool) (off : Nat) : Option Nat := if ok then none else some off

/-- The header's rules (Table 20.2); the extended buffer must hold the result area. -/
def setHeaderBad (b : List Byte) (ext : Nat) : Option Nat :=
  let n := fieldAt b 16 8
  let ro := fieldAt b 24 8
  let count := fieldAt b 8 4
  firstBad [needAt (decide (64 ≤ b.length) && slice b 0 4 == ascii 4 "TVS1") 0, needAt (fieldAt b 4 2 == 1) 4,
    needAt (zeroAt b 6 2) 6, needAt (decide (1 ≤ count) && decide (count ≤ 65535)) 8,
    needAt (decide (64 ≤ n) && n % 64 == 0 && decide (n ≤ b.length)) 16,
    needAt (ro % 64 == 0 && decide (n ≤ ro) && decide (ro + 16 * count ≤ ext)) 24,
    needAt (crc32c (slice b 64 (n - 64)) == BitVec.ofNat 32 (fieldAt b 32 4)) 32, needAt (zeroAt b 36 28) 36]

/-- The fixed fields of the record at `p` (Table 20.3, R456), for a target of `tiles` tiles and a set of `n` bytes. -/
def recordHeadBad (b : List Byte) (tiles n p : Nat) : Option Nat :=
  let u := fun (o k : Nat) => fieldAt b (p + o) k
  let kind := u 8 1
  let d := u 10 1
  let body := if kind == 0 then 64 * d else 64
  firstBad [needAt (decide (p + 64 ≤ n) && decide (64 ≤ u 0 4) && u 0 4 % 64 == 0 && decide (p + u 0 4 ≤ n)) p,
    needAt (u 4 4 / 2 ^ 16 % 16 == 0) (p + 4), needAt (decide (kind ≤ 4)) (p + 8),
    needAt (decide (u 9 1 < 8) && (!bit (u 9 1) 2 || kind == 0)) (p + 9),
    needAt ((if kind == 0 then decide (1 ≤ d) && decide (d ≤ 8) else d == 0) && decide (64 + body ≤ u 0 4)) (p + 10),
    needAt (decide (u 11 1 < tiles) || u 11 1 == 0xFF) (p + 11),
    needAt (u 12 2 % 8 == 0 && decide (u 12 2 ≤ 32760)) (p + 12), needAt (zeroAt b (p + 44) 20) (p + 44)]

/-- The record at `p`, or the offending offset. -/
def parseRecord (b : List Byte) (tiles n p : Nat) : Except Nat VRec :=
  match recordHeadBad b tiles n p with
  | some o => .error o
  | none =>
    let u := fun (o k : Nat) => fieldAt b (p + o) k
    let k := if u 8 1 == 0 then u 10 1 else 1
    let stop := p + u 0 4
    match spansOf b (u 32 2) (p + 64 + 64 * k) stop with
    | .error e => .error e
    | .ok i => match spansOf b (u 34 2) i.2 stop with
      | .error e => .error e
      | .ok o =>
        if !zeroAt b o.2 (stop - o.2) then .error o.2
        else .ok ⟨p, u 0 4, u 8 1, u 9 1, u 11 1, u 12 2, u 14 2, BitVec.ofNat 64 (u 16 8), u 24 8, u 36 4,
          (List.range k).map (fun j => slice b (p + 64 + 64 * j) 64), i.1, o.1⟩

/-- Whether a vector brings its own scale records. -/
def VRec.hasRecords (r : VRec) : Bool := bit r.flags 2

/-- The vector's scale records. -/
def VRec.records (r : VRec) : List ScaleRec :=
  if r.hasRecords then match r.ins with
    | i :: _ => (chunks 64 i.data).map (fun x => ScaleRec.ofBytes x)
    | [] => []
  else []

/-- The input spans that go into SRAM. -/
def VRec.inputs (r : VRec) : List VSpan := if r.hasRecords then r.ins.drop 1 else r.ins
/-- The output spans that come from SRAM. -/
def VRec.outputs (r : VRec) : List VSpan := if r.hasRecords then r.outs.dropLast else r.outs

/-- The record span (R458, R117). -/
def VRec.recordsBad (r : VRec) : Option Nat :=
  if !r.hasRecords then none
  else match r.ins, r.outs.getLast? with
    | i :: _, some o =>
      let n := i.data.length
      if n % 64 != 0 || n < 64 || 1024 < n || o.data.length != n then some (i.pos + 4)
      else (r.records.zipIdx.find? (fun x =>
        (rowReserved 6).any (fun m => x.1.get m.1 1 &&& m.2 != 0) || x.1.get 18 1 == 0 || decide (16 < x.1.get 18 1))).map
          (fun x => i.pos + 8 + 64 * x.2)
    | _, _ => some (r.pos + 32)

/-- Types that a vector may hold (R458). -/
def vectorTypes : List Nat := [0x01, 0x02, 0x03, 0x0D, 0x0E, 0x0F, 0x11]

/-- What the rules of a vector's descriptors read. -/
def VRec.ctx (r : VRec) : Ctx :=
  { hbm := 0, regions := [], records := r.records.length, mode := 1, update := true, colls := [], axisPorts := fun _ => [] }

/-- The rules of one descriptor at offset `a`: the form the image uses, but for its times and phase. -/
def VRec.descBadAt (r : VRec) (d : List Byte) (a : Nat) : Option Nat :=
  if !vectorTypes.contains (fieldAt d 12 1) then some (a + 12)
  else match descReserved d with
    | some o => some (a + o)
    | none => match parseOp d with
      | none => some (a + parseOff d)
      | some op => match opBadAt r.ctx (parseHead d) op with
        | some e => some (a + e.2)
        | none => needAt (op.duration (parseHead d).duration none == some (parseHead d).duration) (a + 8)

/-- The parameter block and spans of kinds 1 to 4 (Table 20.4). -/
def VRec.paramsBad (r : VRec) : Option Nat :=
  let p := r.body.headD []
  let one := fun (ok : Nat → Bool) => needAt (match r.ins with
    | [i] => ok i.data.length
    | _ => false) (r.pos + 32)
  match r.kind with
  | 2 => firstBad [needAt (fieldAt p 0 1 == 0 || (fieldAt p 0 1 == 1 && decide (1 ≤ fieldAt p 1 1) && decide (fieldAt p 1 1 ≤ 5)))
      (r.pos + 64), one (fun n => n == if fieldAt p 0 1 == 0 then 64 else 68)]
  | 3 => one (fun n => n == 240)
  | 4 => one (fun n => n % 4 == 0 && decide (n ≤ 4 * 4096))
  | _ => none

/-- The rules of a whole record. -/
def VRec.bad (r : VRec) : Option Nat :=
  if r.kind == 0 then
    firstBad [r.recordsBad, r.body.zipIdx.findSome? (fun x => r.descBadAt x.1 (r.pos + 64 + 64 * x.2)),
      (r.inputs ++ r.outputs).findSome? (fun x => needAt (sramOk x.off x.data.length) x.pos)]
  else r.paramsBad

/-- `count` records from `p`, back to back to the set's end. -/
def recordsBad (b : List Byte) (tiles n : Nat) : Nat → Nat → Option Nat
  | 0, p => needAt (p == n) p
  | k + 1, p => match parseRecord b tiles n p with
    | .error o => some o
    | .ok r => match r.bad with
      | some o => some o
      | none => recordsBad b tiles n k (p + r.len)

/-- The first offset at which a set breaks R457 or R458 (R459). -/
def setBad (b : List Byte) (ext tiles : Nat) : Option Nat :=
  match setHeaderBad b ext with
  | some o => some o
  | none => recordsBad b tiles (fieldAt b 16 8) (fieldAt b 8 4) 64

/-! ### One vector -/

/-- The first offset at which outputs differ. -/
def diffAt (got want : List Byte) : Option Nat :=
  match (List.range (min got.length want.length)).find? (fun i => nth got i 0 != nth want i 0) with
  | some i => some i
  | none => if got.length == want.length then none else some (min got.length want.length)

/-- What a vector found: its reason and its place (Table 20.5). -/
abbrev Verdict := Nat × Nat

/-- The verdict on outputs, cycles and checks: the lowest reason that applies. -/
def verdict (r : VRec) (diff : Option Nat) (cycles : Nat) (checks : List Nat) : Verdict :=
  match diff, checks with
  | some o, _ => (1, o)
  | none, l =>
    if bit r.flags 1 && cycles != r.cycles then (2, cycles)
    else match l with
      | k :: _ => (3, k)
      | [] => (0, 0)

/-- A copy of the state for one vector: a step of its own with its valid count, records and third computations. -/
def State.vectorBox (s : State) (r : VRec) (phys : Nat) : State :=
  let run := { Run.fresh r.step 0 0 1 false false 0 false with
    final := some { VoteWord.neutral with vMin := r.v, vMax := r.v }, passed := some true }
  let third := r.body.filterMap (fun b => match parseOp b with
    | some (.upd o) => if o.role == 2 then some (0, o.chunk) else none
    | _ => none)
  let t := { s with
    chip := { s.chip with profile := 0 }
    train := { Train.reset with
      run := some run, satAccept := true, records := r.records, holds := { Holds.empty with forced := third } } }
  let t := t.onTile phys (fun x => { x with w := 0, draws := [], same := none })
  r.inputs.foldl (fun t i => t.onTile phys (fun x => { x with sram := (x.sram.store i.off (clean i.data)).1 })) t

/-- The effect of a vector's descriptor. -/
def Op.effect : Op → Dc → State → State
  | .matMul o => State.matMul o
  | .vec o => State.vector o
  | .upd o => State.update o
  | .pair o => State.pairCheck o
  | .conv o => State.convert o
  | .save off => State.contextSave off
  | .restore off => State.contextRestore off
  | .digest o => State.digest o
  | _ => fun _ s => s

/-- Kind 0 on one tile: its verdict, and the state with the tile as the vector leaves it. -/
def State.vectorOn (s : State) (r : VRec) (tile phys : Nat) (fired : List Nat) : Verdict × State :=
  let box := r.body.zipIdx.foldl (fun t x => match parseOp x.1 with
    | some op =>
      let h := parseHead x.1
      op.effect ⟨0, tile, phys, [], x.2, r.spill, ⟨r.seed, r.step, h.tensor⟩, h.record, 0xFFFF, false, false, op.unit, h.start, false⟩
        (t.onTile phys (fun x => { x with same := none }))
    | none => t) (s.vectorBox r phys)
  let got := (r.outputs.map (fun o => (box.tile phys).sram.peeks o.off o.data.length)).flatten
    ++ (if r.hasRecords then (box.train.records.map (·.bytes)).flatten else [])
  let cycles := (r.body.map (fun b => (parseHead b).duration)).foldl (· + ·) 0 + (box.tile phys).w
  let checks := match box.train.run with
    | some q => (q.faults.filter (fun f => f.kind != 0x08)).map (·.kind)
    | none => []
  (verdict r (diffAt got (r.outs.map (·.data)).flatten) cycles (checks ++ fired), { s with mem := box.mem, free := box.free })

/-- Kind 0 on its tiles in order: the first failing tile with its verdict. -/
def State.vectorTiles (s : State) (r : VRec) (fired : List Nat) : List (Nat × Nat) → (Option (Nat × Verdict)) × State
  | [] => (none, s)
  | (tile, phys) :: l =>
    let x := s.vectorOn r tile phys fired
    let y := x.2.vectorTiles r fired l
    (if x.1.1 != 0 then some (tile, x.1) else y.1, y.2)

/-- Kinds 1 to 4 (Table 20.4): where the outputs differ. -/
def VRec.direct (r : VRec) : Option Nat :=
  let p := r.body.headD []
  let u := fieldAt p
  let x := match r.ins with
    | i :: _ => i.data
    | [] => []
  let want := (r.outs.map (·.data)).flatten
  match r.kind with
  | 1 => if gen ⟨r.seed, r.step, u 2 2⟩ (u 0 1) (u 1 1) (u 4 4) (u 8 4) (u 12 4) == u 16 2 then none else some 0
  | 2 =>
    if u 0 1 == 0 then diffAt (checkBytes x) want
    else
      let c := readCase x
      let d := match c with
        | .corrected e => xorBytes x e
        | _ => x
      if c.number != u 1 1 then some 0 else if c.number == 1 || c.number == 4 then diffAt (d.take 64) want else none
  | 3 => if payloadDigest x == u 0 8 then none else some 0
  | _ =>
    let ws := (words32 x).zipIdx.map (fun w =>
      packElem ⟨r.seed, r.step, u 2 2⟩ (signed 10 (u 0 2 % 1024)) (u 4 4) w.2 (u 8 4) (dec32 w.1))
    diffAt ((ws.map (fun w => leBytes 6 (twos 48 w.1))).flatten ++ leBytes 1 (ws.foldl (fun a w => a ||| w.2) 0)) want

/-! ### The commands -/

/-- The target's tiles: (logical, place on the chip). -/
def State.vectorScope (s : State) (scope : Nat) : List (Nat × Nat) :=
  match s.plot? scope with
  | some p => if scope == 0xFF then (List.range 192).map (fun i => (i, i)) else p.physTiles.zipIdx.map (fun x => (x.2, x.1))
  | none => (List.range 192).map (fun i => (i, i))

/-- RUN_VECTORS (0x0203). -/
def execRunVectors (c : Slot) (s : State) : Out :=
  aqvel 0x0203 (extAtLeast 64) .either (fun s c =>
    if c.target == 0xFF then allPlotsIn [.empty, .loaded] s else plotIn [.empty, .loaded] s c) (fun s c =>
    guarded c [(1, 31)] [(0, 1)] (fun _ => readsExt s c (fun b =>
      match setBad b c.extLen.toNat (s.vectorScope c.target.toNat).length with
      | some o => .fail stBadParam (2 ^ 30 + o)
      | none => .accepted { s with vec := some ⟨c.target.toNat, arg c 0 1 == 1, b, 0, 64, 0, 0, []⟩ }))) c s

/-- A result entry (Table 20.5). -/
def vectorResult (index outcome : Nat) (v : Option (Nat × Verdict)) : List Byte :=
  let tile := match v with
    | some x => x.1
    | none => 0xFFFF
  let w := match v with
    | some x => x.2
    | none => (0, 0)
  leBytes 4 index ++ leBytes 1 outcome ++ leBytes 1 w.1 ++ leBytes 2 tile ++ leBytes 4 w.2 ++ zeros 4

/-- The tiles a vector names. -/
def State.vectorUses (s : State) (scope : Nat) (r : VRec) : List (Nat × Nat) :=
  (s.vectorScope scope).filter (fun x => r.tile == 0xFF || x.1 == r.tile)

/-- One vector run: its verdict and the state after it. -/
def State.runVector (s : State) (v : VecRun) (r : VRec) (fired : List Nat) : Option (Nat × Verdict) × State :=
  if r.kind == 0 then s.vectorTiles r fired (s.vectorUses v.scope r)
  else match (verdict { r with flags := 0 } r.direct 0 fired) with
    | (0, _) => (none, s)
    | w => (some (if r.tile == 0xFF then 0 else r.tile, w), s)

/-- The next vector handled: its result entry written, and the run moved on. -/
def State.nextVector (s : State) (j : Job) (v : VecRun) (r : VRec) (fired : List Nat) : State × VecRun :=
  let stopped := v.stopFirst && v.failed != 0
  let skip := bit r.flags 0 && BitVec.ofNat 32 (fieldAt v.set 12 4) != s.chip.ucode
  let x := if stopped || skip then (none, s) else s.runVector v r fired
  let outcome := if stopped then 3 else if skip then 2 else b2n x.1.isSome
  let entry := vectorResult v.index outcome x.1
  let off := fieldAt v.set 24 8 + 16 * v.index
  let t := x.2.extWrite { j.slot with extAddr := j.slot.extAddr + BitVec.ofNat 64 off } entry
  (t, { v with
    index := v.index + 1, pos := v.pos + r.len
    ran := v.ran + b2n (decide (outcome ≤ 1)), failed := v.failed + b2n (outcome == 1)
    used := if outcome ≤ 1 then v.used ++ (s.vectorUses v.scope r).map (·.2) else v.used })

/-- The set has ended: the tiles it used are zeroed, and RUN_VECTORS completes. -/
def State.endVectors (s : State) (j : Job) (v : VecRun) : State :=
  ({ s with vec := none }.zeroTiles v.used.contains).endJob j stDone v.failed v.ran

/-- VECTOR_RUN_END: one vector finishes; `fired` are fault codes of hardware checks that fired while it ran. -/
def execVectorRunEnd (fired : Option Nat) (s : State) : Out :=
  match s.vec, s.job? 0x0203 with
  | some v, some j =>
    match parseRecord v.set (s.vectorScope v.scope).length (fieldAt v.set 16 8) v.pos with
    | .error _ => .next (s.endVectors j v)
    | .ok r =>
      let x := s.nextVector j v r fired.toList
      .next (if x.2.index == fieldAt v.set 8 4 then x.1.endVectors j x.2 else { x.1 with vec := some x.2 })
  | _, _ => .next s

end Sys2Proof.Machine
end

