-- ==== Sys2Proof/Machine/Dispatch.lean ====
section
/-! DEFINITION. One arm per command: which meaning it has. -/
namespace Sys2Proof.Machine

/-- The effect of a command on everything but the queue. -/
def exec (i : Instr) (s : State) : Host.Outcome State Fault Refusal :=
  match i with
  | .getInfo c => Sys2Proof.Machine.execGetInfo c s
  | .getState c => Sys2Proof.Machine.execGetState c s
  | .readCounters c => Sys2Proof.Machine.execReadCounters c s
  | .runSelftest c => Sys2Proof.Machine.execRunSelftest c s
  | .readSelftest c => Sys2Proof.Machine.execReadSelftest c s
  | .runVectors c => Sys2Proof.Machine.execRunVectors c s
  | .setProfile c => Sys2Proof.Machine.execSetProfile c s
  | .readProfile c => Sys2Proof.Machine.execReadProfile c s
  | .writeProfile c => Sys2Proof.Machine.execWriteProfile c s
  | .plotStop c => Sys2Proof.Machine.execPlotStop c s
  | .plotStart c => Sys2Proof.Machine.execPlotStart c s
  | .plotReconfig c program => Sys2Proof.Machine.execPlotReconfig c program s
  | .loadImage c image => Sys2Proof.Machine.execLoadImage c image s
  | .loadImageValidationEnd => Sys2Proof.Machine.execLoadImageValidationEnd s
  | .arm c => Sys2Proof.Machine.execArm c s
  | .start c => Sys2Proof.Machine.execStart c s
  | .stop c => Sys2Proof.Machine.execStop c s
  | .selectVariant c => Sys2Proof.Machine.execSelectVariant c s
  | .setPolicy c => Sys2Proof.Machine.execSetPolicy c s
  | .linkTrain c => Sys2Proof.Machine.execLinkTrain c s
  | .linkTrainPortActive port => Sys2Proof.Machine.execLinkTrainPortActive port s
  | .linkTrainWaitExpiry => Sys2Proof.Machine.execLinkTrainWaitExpiry s
  | .linkState c => Sys2Proof.Machine.execLinkState c s
  | .setCoord c => Sys2Proof.Machine.execSetCoord c s
  | .setRouteEpoch c => Sys2Proof.Machine.execSetRouteEpoch c s
  | .setSluice c => Sys2Proof.Machine.execSetSluice c s
  | .timeArm c => Sys2Proof.Machine.execTimeArm c s
  | .hamperSeal c => Sys2Proof.Machine.execHamperSeal c s
  | .hamperRestore c => Sys2Proof.Machine.execHamperRestore c s
  | .hamperList c => Sys2Proof.Machine.execHamperList c s
  | .setMirror c => Sys2Proof.Machine.execSetMirror c s
  | .recallNotice c => Sys2Proof.Machine.execRecallNotice c s
  | .recallHalt => Sys2Proof.Machine.execRecallHalt s
  | .planeShift c => Sys2Proof.Machine.execPlaneShift c s
  | .planeShiftDone => Sys2Proof.Machine.execPlaneShiftDone s
  | .planeShiftWaitExpiry => Sys2Proof.Machine.execPlaneShiftWaitExpiry s
  | .shiftRetryTimer run => Sys2Proof.Machine.execShiftRetryTimer run s
  | .leaveSlice c => Sys2Proof.Machine.execLeaveSlice c s
  | .audit c => Sys2Proof.Machine.execAudit c s
  | .readEvents c => Sys2Proof.Machine.execReadEvents c s
  | .readCper c => Sys2Proof.Machine.execReadCper c s
  | .clearSuspect c => Sys2Proof.Machine.execClearSuspect c s
  | .readJournal c => Sys2Proof.Machine.execReadJournal c s
  | .fwStage c => Sys2Proof.Machine.execFwStage c s
  | .fwActivate c => Sys2Proof.Machine.execFwActivate c s
  | .controllerRestartEnd => Sys2Proof.Machine.execControllerRestartEnd s
  | .fwRevertTimeout => Sys2Proof.Machine.execFwRevertTimeout s
  | .readPower c => Sys2Proof.Machine.execReadPower c s
  | .readThermal c => Sys2Proof.Machine.execReadThermal c s
  | .reset c => Sys2Proof.Machine.execReset c s
  | .commandChipReset => Sys2Proof.Machine.execCommandChipReset s
  | .completionWrite pair ok => Sys2Proof.Machine.execCompletionWrite pair ok s
  | .mgtQueueEnable pair => Sys2Proof.Machine.execMgtQueueEnable pair s
  | .mgtQueueDisable pair => Sys2Proof.Machine.execMgtQueueDisable pair s
  | .mgtSqtailDoorbell pair value readable => Sys2Proof.Machine.execMgtSqtailDoorbell pair value readable s
  | .mgtCqheadWrite pair value => Sys2Proof.Machine.execMgtCqheadWrite pair value s
  | .dmaQueueEnable q => Sys2Proof.Machine.execDmaQueueEnable q s
  | .dmaQueueDrain q => Sys2Proof.Machine.execDmaQueueDrain q s
  | .dmaQueueAbort q bytesDone => Sys2Proof.Machine.execDmaQueueAbort q bytesDone s
  | .dmaQtailDoorbell q value => Sys2Proof.Machine.execDmaQtailDoorbell q value s
  | .hostCopyEntryStart q e => Sys2Proof.Machine.execHostCopyEntryStart q e s
  | .hostCopyComplete q failedAt ringOk => Sys2Proof.Machine.execHostCopyComplete q failedAt ringOk s
  | .sendQueueEnable => Sys2Proof.Machine.execSendQueueEnable s
  | .sendQueueDrain => Sys2Proof.Machine.execSendQueueDrain s
  | .sendQueueAbort => Sys2Proof.Machine.execSendQueueAbort s
  | .sendQtailDoorbell value => Sys2Proof.Machine.execSendQtailDoorbell value s
  | .sendEntryStart e => Sys2Proof.Machine.execSendEntryStart e s
  | .timNowLoRead fn => Sys2Proof.Machine.execTimNowLoRead fn s
  | .hstEventSeqLoRead fn => Sys2Proof.Machine.execHstEventSeqLoRead fn s
  | .hstJournalSeqLoRead fn => Sys2Proof.Machine.execHstJournalSeqLoRead fn s
  | .hstPassPost fn count => Sys2Proof.Machine.execHstPassPost fn count s
  | .registerWrite fn off width value => Sys2Proof.Machine.execRegisterWrite fn off width value s
  | .bar2Read fn off n => Sys2Proof.Machine.execBar2Read fn off n s
  | .bar2Write fn off data => Sys2Proof.Machine.execBar2Write fn off data s
  | .bufWrite eid off data => Sys2Proof.Machine.execBufWrite eid off data s
  | .bufRead eid off n => Sys2Proof.Machine.execBufRead eid off n s
  | .setEndpointId eid => Sys2Proof.Machine.execSetEndpointId eid s
  | .ftsyncRisingEdge => Sys2Proof.Machine.execFtsyncRisingEdge s
  | .timeArmWaitExpiry => Sys2Proof.Machine.execTimeArmWaitExpiry s
  | .epochCheckSend => Sys2Proof.Machine.execEpochCheckSend s
  | .epochCheckWindowClose => Sys2Proof.Machine.execEpochCheckWindowClose s
  | .refLost => Sys2Proof.Machine.execRefLost s
  | .corePllLock => Sys2Proof.Machine.execCorePllLock s
  | .pllReferenceSwitch => Sys2Proof.Machine.execPllReferenceSwitch s
  | .stepBoundary => Sys2Proof.Machine.execStepBoundary s
  | .phaseStart => Sys2Proof.Machine.execPhaseStart s
  | .descriptorFetch plot tile group => Sys2Proof.Machine.execDescriptorFetch plot tile group s
  | .matrixMultiply x h o => Sys2Proof.Machine.execMatrixMultiply x h o s
  | .vectorFunction x h o => Sys2Proof.Machine.execVectorFunction x h o s
  | .updateDescriptor x h o => Sys2Proof.Machine.execUpdateDescriptor x h o s
  | .pairCheck x h o => Sys2Proof.Machine.execPairCheck x h o s
  | .formatConversion x h o => Sys2Proof.Machine.execFormatConversion x h o s
  | .tileDmaIn x h o => Sys2Proof.Machine.execTileDmaIn x h o s
  | .tileDmaOut x h o => Sys2Proof.Machine.execTileDmaOut x h o s
  | .tileDmaPermute x h o => Sys2Proof.Machine.execTileDmaPermute x h o s
  | .gather x h o => Sys2Proof.Machine.execGather x h o s
  | .scatter x h o => Sys2Proof.Machine.execScatter x h o s
  | .copyEngine x h o => Sys2Proof.Machine.execCopyEngine x h o s
  | .chainHandoff x h o => Sys2Proof.Machine.execChainHandoff x h o s
  | .cellEgress x h o => Sys2Proof.Machine.execCellEgress x h o s
  | .cellIngress x h o => Sys2Proof.Machine.execCellIngress x h o s
  | .wait x h unit => Sys2Proof.Machine.execWait x h unit s
  | .contextSave x h off => Sys2Proof.Machine.execContextSave x h off s
  | .contextRestore x h off => Sys2Proof.Machine.execContextRestore x h off s
  | .scaleRecordUpdate x h => Sys2Proof.Machine.execScaleRecordUpdate x h s
  | .digestDescriptor x h o => Sys2Proof.Machine.execDigestDescriptor x h o s
  | .collectivePack x h o => Sys2Proof.Machine.execCollectivePack x h o s
  | .collectiveRound x h o => Sys2Proof.Machine.execCollectiveRound x h o s
  | .collectiveCheck x h o => Sys2Proof.Machine.execCollectiveCheck x h o s
  | .place x h o => Sys2Proof.Machine.execPlace x h o s
  | .combine x h o => Sys2Proof.Machine.execCombine x h o s
  | .copyWindow engine page => Sys2Proof.Machine.execCopyWindow engine page s
  | .hbmRefreshWindow stack => Sys2Proof.Machine.execHbmRefreshWindow stack s
  | .slotDeparture port slot => Sys2Proof.Machine.execSlotDeparture port slot s
  | .scheduledCellReceive port slot a => Sys2Proof.Machine.execScheduledCellReceive port slot a s
  | .votePhaseEnd => Sys2Proof.Machine.execVotePhaseEnd s
  | .beaconDeadline port => Sys2Proof.Machine.execBeaconDeadline port s
  | .stepCommit => Sys2Proof.Machine.execStepCommit s
  | .backgroundCellReceive port cell fecBad => Sys2Proof.Machine.execBackgroundCellReceive port cell fecBad s
  | .linkControlCellReceive port cell slot => Sys2Proof.Machine.execLinkControlCellReceive port cell slot s
  | .idleCellReceive port cell => Sys2Proof.Machine.execIdleCellReceive port cell s
  | .linbyGroupReceive g => Sys2Proof.Machine.execLinbyGroupReceive g s
  | .laneSignalLoss port lane => Sys2Proof.Machine.execLaneSignalLoss port lane s
  | .routerTick => Sys2Proof.Machine.execRouterTick s
  | .ejectionWrite packets => Sys2Proof.Machine.execEjectionWrite packets s
  | .ackTimer chip stream => Sys2Proof.Machine.execAckTimer chip stream s
  | .trackerIdleExpiry chip stream => Sys2Proof.Machine.execTrackerIdleExpiry chip stream s
  | .retransmitTimeout chip stream seq => Sys2Proof.Machine.execRetransmitTimeout chip stream seq s
  | .fetchTimeout stream => Sys2Proof.Machine.execFetchTimeout stream s
  | .fetchRetryTimer stream => Sys2Proof.Machine.execFetchRetryTimer stream s
  | .unscheduledCopyGroup q => Sys2Proof.Machine.execUnscheduledCopyGroup q s
  | .hamperDrain page => Sys2Proof.Machine.execHamperDrain page s
  | .passStart plot => Sys2Proof.Machine.execPassStart plot s
  | .passEnd plot => Sys2Proof.Machine.execPassEnd plot s
  | .vectorRunEnd fired => Sys2Proof.Machine.execVectorRunEnd fired s
  | .powerOnReset vioLost => Sys2Proof.Machine.execPowerOnReset vioLost s
  | .pwrOkDeassert => Sys2Proof.Machine.execPwrOkDeassert s
  | .pinReset => Sys2Proof.Machine.execPinReset s
  | .supplyDipBegin vcore mv => Sys2Proof.Machine.execSupplyDipBegin vcore mv s
  | .supplyDipEnd lowestMv => Sys2Proof.Machine.execSupplyDipEnd lowestMv s
  | .supplyReset vcore => Sys2Proof.Machine.execSupplyReset vcore s
  | .supplyDipTimeout => Sys2Proof.Machine.execSupplyDipTimeout s
  | .thermalSample readings => Sys2Proof.Machine.execThermalSample readings s
  | .thermalTrip => Sys2Proof.Machine.execThermalTrip s
  | .powerSample mv ma => Sys2Proof.Machine.execPowerSample mv ma s
  | .bootComplete v => Sys2Proof.Machine.execBootComplete v s
  | .selftestStepEnd r => Sys2Proof.Machine.execSelftestStepEnd r s
  | .flashInit v => Sys2Proof.Machine.execFlashInit v s
  | .nvmeCompletion status => Sys2Proof.Machine.execNvmeCompletion status s
  | .nvmeTimeout => Sys2Proof.Machine.execNvmeTimeout s
  | .hostLinkReset => Sys2Proof.Machine.execHostLinkReset s
  | .vfFlr vf => Sys2Proof.Machine.execVfFlr vf s
  | .pmdTrainingEnd port ok => Sys2Proof.Machine.execPmdTrainingEnd port ok s
  | .armEnd => Sys2Proof.Machine.execArmEnd s
  | .setProfileEnd => Sys2Proof.Machine.execSetProfileEnd s
  | .writeProfileEnd ok => Sys2Proof.Machine.execWriteProfileEnd ok s
  | .plotReconfigEnd plot => Sys2Proof.Machine.execPlotReconfigEnd plot s
  | .fwStageEnd => Sys2Proof.Machine.execFwStageEnd s
  | .hamperRestoreEnd => Sys2Proof.Machine.execHamperRestoreEnd s
  | .leaveSliceEnd => Sys2Proof.Machine.execLeaveSliceEnd s
  | .resetNDeassert profsel slotId => Sys2Proof.Machine.execResetNDeassert profsel slotId s
  | .flashLinkDown retrained => Sys2Proof.Machine.execFlashLinkDown retrained s
  | .hbmControllerRefresh stack => Sys2Proof.Machine.execHbmControllerRefresh stack s
  | .badOpcode opcode c => Sys2Proof.Machine.execBadOpcode opcode c s
  | .tapInstruction v trst => Sys2Proof.Machine.execTapInstruction v trst s

end Sys2Proof.Machine
end

