-- ==== Sys2Proof/Machine/Views.lean ====
section
/-! DEFINITION. What a read of BAR0 answers (R5, R6, R432): every register of the blocks of Table 18.2 as a view of the state,
and the event, journal and counter windows (R434). A read changes nothing but the latches that R33 and R433 name, which the three
commands of HostRegs.lean set. Write-only fields, reserved fields, reserved offsets, and blocks that a function lacks read zero. -/
namespace Sys2Proof.Machine

/-- The low or high word of a 64-bit register. -/
def half (r : W64) (hi : Bool) : Nat := if hi then r.toNat / 2 ^ 32 else r.toNat % 2 ^ 32

/-- The pass registers of a function's plot (Tables 16.4 to 16.6); without a plot they read zero (R433). -/
def State.readPass (s : State) (fn off : Nat) : Nat := match (s.plotOfFn fn).bind s.plot? with
  | none => 0
  | some p => match off with
    | 0x4 => p.pending
    | 0x8 => p.done.toNat
    | 0xC => b2n p.lastFault + 2 * b2n p.fault + 4 * b2n p.sat + 8 * b2n p.refused
    | _ => 0

/-- The HST block (Tables 18.3 to 18.6). -/
def State.readHst (s : State) (fn off : Nat) : Nat := match off with
  | 0x000 => fn + 256 * 0xA1
  | 0x004 => s.stateDetail
  | 0x008 => b2n s.host.flit + 2 ^ 16 * s.host.linkSpeed + 2 ^ 20 * s.host.linkWidth
  | 0x00C => s.host.flState + 16 * s.host.nsUsable + 2 ^ 16 * s.host.flSpeed + 2 ^ 20 * s.host.flWidth
  | 0x010 => s.eventSeq % 2 ^ 32
  | 0x014 => s.host.eventHi.toNat
  | 0x018 => s.journalSeq % 2 ^ 32
  | 0x01C => s.host.journalHi.toNat
  | _ => if 0x200 ≤ off && off < 0x210 then s.readPass fn (off - 0x200) else 0

/-- A queue pair's registers (Tables 15.1 to 15.3). -/
def State.readPair (s : State) (n off : Nat) : Nat :=
  let p := s.pair n
  if !s.pairExists n then 0
  else match off with
  | 0x00 => half p.sqBase false
  | 0x04 => half p.sqBase true
  | 0x08 => p.sqSize.toNat
  | 0x0C => p.sqTail.toNat
  | 0x10 => p.sqHead.toNat
  | 0x14 => half p.cqBase false
  | 0x18 => half p.cqBase true
  | 0x1C => p.cqSize.toNat
  | 0x20 => p.cqHead.toNat
  | 0x24 => p.cqTail.toNat
  | 0x28 => half p.cqWb false
  | 0x2C => half p.cqWb true
  | 0x30 => b2n p.running
  | 0x34 => b2n p.running + 2 * b2n p.cqWait + 4 * b2n p.ringFault + 8 * b2n p.configErr
  | _ => 0

/-- A copy or send queue's registers (Tables 7.8 to 7.10): DRAIN and ABORT are write-only. -/
def State.readQueue (s : State) (q off : Nat) : Nat :=
  let d := s.dmaQ q
  match off with
  | 0x00 => half d.base false
  | 0x04 => half d.base true
  | 0x08 => d.size.toNat
  | 0x0C => d.tail.toNat
  | 0x10 => d.head.toNat
  | 0x14 => half d.cBase false
  | 0x18 => half d.cBase true
  | 0x1C => d.cTail.toNat
  | 0x20 => b2n (d.st != 0)
  | 0x24 => d.st + 4 * b2n d.ringFault
  | _ => 0

/-- The time block (Tables 2.3 to 2.6): TIM_NOW_HI and TIM_CYCLE read as TIM_NOW_LO latched them; the two words of TIM_NOW read
all ones while VALID is clear (R33). -/
def State.readTim (s : State) (off : Nat) : Nat :=
  let t := s.time
  match off with
  | 0x0 => s.fabric % 2 ^ 32
  | 0x4 => if t.valid then t.latchHi.toNat else 0xFFFFFFFF
  | 0x8 => t.latchCycle
  | 0xC => b2n t.locked + 2 * b2n t.armed + 4 * b2n t.valid + 8 * b2n t.syncSeen + 16 * b2n t.refLost
      + 32 * b2n t.checkFail + 64 * b2n t.beaconFail + 256 * t.slips
  | _ => 0

/-- A port's registers (Tables 10.7 to 10.10). -/
def State.readPort (s : State) (p off : Nat) : Nat :=
  let k := s.port p
  match off with
  | 0x00 => k.st + 8 * b2n k.inSlice + 16 * k.lanes + 2 ^ 12 * b2n k.fault + 2 ^ 16 * k.reason
  | 0x04 => k.pinned + 2 ^ 16 * k.measured
  | 0x08 => k.minMargin
  | 0x0C => k.fecCorr
  | 0x10 => k.fecUncorr
  | 0x14 => k.cellErr
  | 0x18 => k.late
  | 0x1C => k.voidRx
  | 0x20 => k.unclaimed
  | _ => 0

/-- The BGP block (Tables 11.11 to 11.15). -/
def State.readBgp (s : State) (off : Nat) : Nat :=
  let b := s.bgp
  match off with
  | 0x000 => b2n s.planeOn + 2 * b.sluice
  | 0x004 => b.low + 2 ^ 16 * b.high
  | 0x008 => b.occ + 2 ^ 16 * b.eject.length
  | 0x00C => b.tracker.length + 2 ^ 17 * b.requests.length
  | _ => if 0x010 ≤ off && off < 0x048 then nth b.counters ((off - 0x010) / 4) 0
      else if 0x100 ≤ off && off < 0x140 then s.readQueue 5 (off - 0x100) else 0

/-- The MSI-X table and the pending-bit array of a function (R438). -/
def State.readMsix (s : State) (fn off : Nat) : Nat :=
  let l := nth s.host.msix fn []
  if off < 0x8000 then match l[off / 16]? with
    | none => 0
    | some e => match off % 16 / 4 with
      | 0 => e.1 % 2 ^ 32
      | 1 => e.1 / 2 ^ 32
      | 2 => e.2.1
      | _ => b2n e.2.2.1
  else if off == 0x8000 then (l.zipIdx.map (fun x => 2 ^ x.2 * b2n x.1.2.2.2)).foldl (· + ·) 0
  else 0

/-- Byte `i` of a window of `n` slots of 64 bytes: sequence q stands at 64 × (q mod n). A slot that no record has taken reads zero
(DESIGN CHOICE, log 92). Each record is stored in one step, bytes 8 to 63 and bytes 0 to 7 alike, so that every read finds it
whole (R434). -/
def slotByte (l : List (Nat × List Byte)) (n i : Nat) : Byte := match l.find? (fun r => r.1 % n == i / 64) with
  | some r => nth r.2 (i % 64) 0
  | none => 0

/-- Byte `i` of PF0's windows from 0x10_0000 on: events, journal, and the live counters (R434, Table 18.2). -/
def State.windowByte (s : State) (i : Nat) : Byte :=
  if i < 0x100000 then 0
  else if i < 0x200000 then slotByte (s.aq.events.map (fun e => (e.seq, e.bytes))) 16384 (i - 0x100000)
  else if i < 0x240000 then slotByte s.aq.journal 4096 (i - 0x200000)
  else if i < 0x242000 then nth (counterSet s 0) (i - 0x240000) 0
  else if i < 0x243000 then nth (counterSet s 1) (i - 0x242000) 0
  else if i < 0x244000 then nth (counterSet s 2) (i - 0x243000) 0
  else 0

/-- What an aligned 32-bit read of BAR0 answers (Table 18.2). Only PF0 has the blocks LNK, BGP and PWR and the windows. -/
def State.readReg (s : State) (fn off : Nat) : Nat :=
  let o := off % 0x10000
  match off / 0x10000 with
  | 0x0 => s.readHst fn o
  | 0x1 => if fn == 0 then (if o < 0x100 then s.readPair (o / 0x40) (o % 0x40) else 0)
      else if o < 0x40 then s.readPair (3 + fn) o else 0
  | 0x2 => if o / 0x40 == fn && (fn == 0 || (s.spaceOf fn).isSome) then s.readQueue fn (o % 0x40) else 0
  | 0x3 => s.readTim o
  | 0x4 => if fn == 0 && o < 0x280 then s.readPort (o / 0x40) (o % 0x40) else 0
  | 0x5 => if fn == 0 then s.readBgp o else 0
  | 0x6 => if fn == 0 && o == 0 then s.chip.cause + 2 ^ 16 * s.chip.count else 0
  | 0x7 => if o == 0 then half (nth s.host.apbase fn 0) false else if o == 4 then half (nth s.host.apbase fn 0) true else 0
  | 0xF => s.readMsix fn o
  | _ => if fn == 0 then leNat ((List.range 4).map (fun i => s.windowByte (off + i))) else 0

/-- What a read of `n` bytes of BAR0 answers: aligned 4- and 8-byte accesses of the registers, and any access of the windows; a
narrower or unaligned read of a register, of which the manual gives no answer, reads zero (log 92). A VF that is not enabled
cannot be reached (R430): nothing answers. -/
def State.readBar0 (s : State) (fn off n : Nat) : List Byte :=
  if !s.fnOn fn then []
  else if 0x100000 ≤ off then (List.range n).map (fun i => if fn == 0 then s.windowByte (off + i) else 0)
  else if (n == 4 && off % 4 == 0) || (n == 8 && off % 8 == 0) then
    ((List.range (n / 4)).map (fun i => leBytes 4 (s.readReg fn (off + 4 * i)))).flatten
  else zeros n

end Sys2Proof.Machine
end

