-- ==== Sys2Proof/Safety.lean ====
section
/-! DEFINITION. What counts as a safe run: no command of it ends in a fault or a refusal; and the invariant that every
step keeps. -/
namespace Sys2Proof.Machine

/-- An outcome from which the block goes on. -/
def goesOn (o : Out) : Bool := match o with
  | .next _ => true
  | .fault _ => false
  | .refused _ => false

/-- A run of `k` steps that never stops. -/
def safeRun : Nat → State → Bool
  | 0, _ => true
  | k + 1, s => match step s with
    | .next t => safeRun k t
    | _ => false

/-! ### When a command does what it is for -/

/-- The state once a slot has been taken from its ring and its sequence remembered (R361, R370). -/
def State.taken (s : State) (c : Slot) : State := (s.take c).rememberSeq c

/-- Whether the chip's state lets an opcode run (R378); `ok` is what Table 15.8 asks in READY. -/
def State.permits (s : State) (opcode : Nat) (ok : Bool) : Bool := match s.chip.st with
  | .boot => false
  | .selftest => selftestOps.contains opcode
  | .hold => holdOps.contains opcode
  | .ready => ok

/-- Whether a slot's sequence is the one its source must use next, or 0 (R370). -/
def State.freshSeq (s : State) (c : Slot) : Bool := c.seq == 0 || match s.memoryOf c.src with
  | none => true
  | some r => r.seq != c.seq.toNat && c.seq.toNat == nextSeq r.seq

/-- Whether a slot of an opcode is taken and passes the steps 1 to 9 of R368, the extended length aside: `ok` is the state
that Table 15.8 asks for. -/
def Sound (s : State) (opcode : Nat) (kind : TargetKind) (c : Slot) (ok : State → Bool) : Bool :=
  s.takeable c
    && (match c.src with
      | .endpoint _ => !(s.take c).sidebandBusy
      | .pair _ => true)
    && crcOk c opcode && c.flags &&& 0xFC == 0 && c.inlineLen == 32 && targetOk (s.take c) kind c.target.toNat
    && s.freshSeq c && (c.deadline == 0 || decide (s.waited c < c.deadline.toNat))
    && (s.taken c).permits opcode (ok (s.taken c)) && ((s.taken c).conflict opcode c).isNone

/-- A command accepted: its first completion ACCEPTED, and the command in progress (R373). -/
def State.accept (s : State) (opcode : Nat) (c : Slot) : State := (s.reply opcode c stAccepted 0 0).addJob opcode c

/-- Any state that R378 lets the opcode run in. -/
def anywhere (_ : State) : Bool := true

/-- Whether the reserved inline bytes and bits are zero, and the extended buffer lies in range (R6, R365). -/
def Clean (c : Slot) (resv masks : List (Nat × Nat)) : Bool :=
  (badReserved c resv).isNone && (badBits c masks).isNone && extInRange c

/-- Whether the extended buffer can be read and written over PCIe, or is the sideband's (R372). -/
def State.reaches (s : State) (c : Slot) : Bool := (s.extBytes c).isSome

/-- The place where a descriptor runs now, when it runs: its plot and tile exist, its time has come (R63), it keeps the rules
of Table 3.14, its group has been fetched and its unit is free (R66, R78). -/
def State.runs (s : State) (x : At) (h : DHead) (o : Op) : Option Dc :=
  match s.plot? x.plot with
  | none => none
  | some p =>
    if 16 * p.clusters.length ≤ x.tile then none
    else match s.gate x h o p with
      | none => none
      | some d =>
        if (opBad (s.descCtx x.plot d.update) h o).isSome then none
        else
          let d := { d with paired := o.pairedIn d.update, unit := o.unit }
          if x.hw.busy || !s.fetched d then none else some d

/-- The slot of a command that comes in a slot; none for every other command. -/
def slotOf : Instr → Option Slot
  | .getInfo c => some c
  | .getState c => some c
  | .readCounters c => some c
  | .runSelftest c => some c
  | .readSelftest c => some c
  | .runVectors c => some c
  | .setProfile c => some c
  | .readProfile c => some c
  | .writeProfile c => some c
  | .plotStop c => some c
  | .plotStart c => some c
  | .arm c => some c
  | .start c => some c
  | .stop c => some c
  | .selectVariant c => some c
  | .setPolicy c => some c
  | .linkTrain c => some c
  | .linkState c => some c
  | .setCoord c => some c
  | .setRouteEpoch c => some c
  | .setSluice c => some c
  | .timeArm c => some c
  | .hamperSeal c => some c
  | .hamperRestore c => some c
  | .hamperList c => some c
  | .setMirror c => some c
  | .recallNotice c => some c
  | .planeShift c => some c
  | .leaveSlice c => some c
  | .audit c => some c
  | .readEvents c => some c
  | .readCper c => some c
  | .clearSuspect c => some c
  | .readJournal c => some c
  | .fwStage c => some c
  | .fwActivate c => some c
  | .readPower c => some c
  | .readThermal c => some c
  | .reset c => some c
  | .plotReconfig c _ => some c
  | .loadImage c _ => some c
  | .badOpcode _ c => some c
  | _ => none

/-! ### The invariant -/

/-- The fabric cycle stays within its tick of 1,024 cycles (R28). -/
def TimeBlock.Ok (t : TimeBlock) : Prop := t.cycle < 1024

/-- The event log and the journal stay within what the chip keeps (R386, R387). -/
def Aqvel.Ok (a : Aqvel) : Prop := a.events.length ≤ 16384 ∧ a.journal.length ≤ 4096

/-- A tile's SRAM is in the one canonical form of a memory, and so is what the cycle that wrote it last began with (R75). -/
def Tile.wf (t : Tile) : Bool := t.sram.wf && t.same.all (fun x => x.before.wf)

/-- HBM and every tile's SRAM are in the one canonical form of a memory (log 6). -/
def Memories.Ok (m : Memories) : Prop := m.hbm.wf = true ∧ ∀ t ∈ m.tiles, t.wf = true

/-- The invariant of the block. -/
def State.Inv (s : State) : Prop := s.time.Ok ∧ s.aq.Ok ∧ s.mem.Ok

end Sys2Proof.Machine
end

