-- ==== Sys2Proof/Certificates/Slice0/Obligations.lean ====
section
/-! DEFINITION. The statements about the model, for the provers. A statement of a command's own effect says that exec ANSWERS
the next state; `u = s.taken c` is the state once the slot `c` has been taken, `Sound` and `Clean` say that the slot passes
the common checks, and `accept` and `reply` post its first completion. -/

open Sys2Proof Sys2Proof.Machine

/-- A step with a command at the front of the queue is that command's meaning on the queue's rest. -/
def Obligations.StepRunsTheFrontCommand : Prop :=
  ∀ (c : Instr) (rest : List Instr) (s : State),
    s.pending = c :: rest → step s = exec c { s with pending := rest }

/-- Table 15.8, R382, R384 to R387, R324, R393, Table 10.5, R428, R429: each report, on a sound slot whose extended buffer can
be written, writes its record there and completes DONE with the result and the detail that its row gives. -/
def Obligations.ReportsComplete : Prop :=
  ∀ (c : Slot) (s u : State), u = s.taken c →
    (Sound s 0x0101 .chip c anywhere → Clean c [(0, 32)] [] → 256 ≤ c.extLen.toNat → u.reaches c →
      exec (.getInfo c) s = .next ((u.extWrite c (infoBlock u)).reply 0x0101 c stDone 0 0)) ∧
    (Sound s 0x0103 .chip c anywhere → Clean c [(2, 30)] [(1, 1)] → arg c 0 1 ≤ 2 →
      counterBytes (arg c 0 1) ≤ c.extLen.toNat → u.reaches c →
      ∀ w, w = u.extWrite c (counterSet u (arg c 0 1)) →
      exec (.readCounters c) s = .next ((if arg c 1 1 = 1 then w.zeroCounters (arg c 0 1) else w).reply 0x0103 c stDone 0
        (counterBytes (arg c 0 1) / 4))) ∧
    (Sound s 0x0202 .chip c anywhere → Clean c [(0, 32)] [] → 256 ≤ c.extLen.toNat → u.reaches c →
      exec (.readSelftest c) s = .next ((u.extWrite c (slice (reportBytes u) 0 256)).reply 0x0202 c stDone 0 0)) ∧
    (Sound s 0x0302 .chip c anywhere → Clean c [(1, 31)] [] → arg c 0 1 ≤ 3 → 64 ≤ c.extLen.toNat → u.reaches c →
      exec (.readProfile c) s = .next ((u.extWrite c (slice ((u.flash.profile? (arg c 0 1)).getD
        (nth u.flash.prof0 (arg c 0 1) [])) 0 64)).reply 0x0302 c stDone 0 0)) ∧
    (Sound s 0x0502 .chip c anywhere → Clean c [(1, 31)] [] → arg c 0 1 ≤ 9 → c.extLen = 0 →
      exec (.linkState c) s = .next (u.reply 0x0502 c stDone (linkDetail (u.port (arg c 0 1)))
        (linkResult (u.port (arg c 0 1))))) ∧
    (Sound s 0x0A01 .chip c anywhere → Clean c [(0, 32)] [] → 128 ≤ c.extLen.toNat → u.reaches c →
      exec (.readPower c) s = .next (({ u.extWrite c (powerRecord u) with power := { u.power with
        rails := u.power.rails.map (fun (r : Rail) => { r with lowest := r.mv, dips := 0 }), sampled := false } } : State).reply 0x0A01 c stDone
        0 (u.power.rails.map (·.mw)).sum)) ∧
    (Sound s 0x0603 .plot c anywhere → Clean c [(1, 3), (16, 16)] [] → arg c 0 1 = 0 → u.flashFailed = false →
      ∀ l, l = u.ring?.elim [] (·.slots) → 32 * l.length ≤ c.extLen.toNat → u.reaches c →
      exec (.hamperList c) s = .next ((u.extWrite c (l.zipIdx.map (fun x => slotEntryBytes x.2 x.1)).flatten).reply 0x0603 c
        stDone 0 l.length))

/-- R386, R387, R324, R467: the readers of the event log, of the journal and of the error records write the records from the
sequence that the slot names on, at most as many as it asks for and as fit, and count them. -/
def Obligations.RecordReadersComplete : Prop :=
  ∀ (c : Slot) (s u : State) (r : List (Nat × List Byte)), u = s.taken c → u.reaches c →
    (Sound s 0x0801 .chip c anywhere → Clean c [(12, 20)] [] → c.extLen ≠ 0 → c.extLen.toNat % 64 = 0 →
      r = pickRecords (u.aq.events.map (fun e => (e.seq, e.bytes))) (arg c 0 8) (min (arg c 8 4) (c.extLen.toNat / 64)) →
      exec (.readEvents c) s = .next ((u.extWrite c (r.map (·.2)).flatten).reply 0x0801 c stDone r.length
        ((r.map (·.1)).headD 0))) ∧
    (Sound s 0x0804 .chip c anywhere → Clean c [(12, 20)] [] → c.extLen ≠ 0 → c.extLen.toNat % 64 = 0 →
      r = pickRecords u.aq.journal (arg c 0 8) (min (arg c 8 4) (c.extLen.toNat / 64)) →
      exec (.readJournal c) s = .next ((u.extWrite c (r.map (·.2)).flatten).reply 0x0804 c stDone r.length
        ((r.map (·.1)).headD 0))) ∧
    (Sound s 0x0802 .chip c anywhere → Clean c [(9, 3), (16, 16)] [(8, 1)] → c.extLen ≠ 0 → c.extLen.toNat % 328 = 0 →
      r = pickRecords (if arg c 8 1 = 1 then u.flash.cper else u.aq.cper) (arg c 0 8)
        (min (arg c 12 4) (c.extLen.toNat / 328)) →
      exec (.readCper c) s = .next ((u.extWrite c (r.map (·.2)).flatten).reply 0x0802 c stDone r.length
        ((r.map (·.1)).headD 0)))

/-- R383: GET_STATE returns the committed step, or all ones in profiles 1 to 3; the detail is laid out as Table 15.10 shows,
and the state block is written when Ext is given. -/
def Obligations.GetStateReturnsTheCommittedStep : Prop :=
  ∀ (c : Slot) (s u t : State) (result detail : Nat), u = s.taken c →
    Sound s 0x0102 .chip c anywhere → Clean c [(0, 32)] [] →
    (result = if u.chip.profile = 0 then u.train.committed else 2 ^ 64 - 1) →
    (detail = u.chip.st.code + 16 * u.chip.profile + 64 * b2n u.flash.suspect + 128 * b2n u.time.valid
      + 256 * u.plotCode 0 + 4096 * u.plotCode 1 + 65536 * u.plotCode 2 + 1048576 * u.plotCode 3
      + 16777216 * (u.place.epoch % 256)) →
    (c.extLen = 0 ∧ t = u ∨ 64 ≤ c.extLen.toNat ∧ u.reaches c ∧ t = u.extWrite c
      (slice (leBytes 8 u.train.committed ++ leBytes 1 u.train.variant ++ leBytes 1 (u.train.image.elim 0 (·.mode))
        ++ leBytes 2 u.train.absentLast
        ++ leBytes 1 (b2n u.train.carry + 2 * b2n u.train.satAccept + 4 * b2n u.train.carryPending)
        ++ leBytes 1 (u.snap.hamper.elim 0 (fun h => if h.draining then 2 else 1)) ++ zeros 2
        ++ u.place.map.map (fun b => BitVec.ofNat 8 b) ++ zeros 31) 0 64)) →
    exec (.getState c) s = .next (t.reply 0x0102 c stDone detail result)

/-- R429: READ_THERMAL writes the record of Table 17.11, and its result is a sensor's reading that none exceeds; every
sensor's highest reading starts over. -/
def Obligations.ReadThermalReturnsTheHighestReading : Prop :=
  ∀ (c : Slot) (s u : State) (x : Sensor), u = s.taken c →
    Sound s 0x0A02 .chip c anywhere → Clean c [(0, 32)] [] → 200 ≤ c.extLen.toNat → u.reaches c →
    x ∈ u.power.sensors → (∀ y ∈ u.power.sensors, y.value ≤ x.value) →
    exec (.readThermal c) s = .next (({ u.extWrite c (leBytes 2 1 ++ leBytes 2 24 ++ zeros 4
        ++ (u.power.sensors.map (fun (y : Sensor) => leBytes 2 (twos 16 y.value) ++ leBytes 2 (twos 16 y.peak) ++ leBytes 1 y.st
          ++ zeros 3)).flatten) with
      power := { u.power with sensors := u.power.sensors.map (fun (y : Sensor) => { y with peak := y.value }) } } : State).reply 0x0A02 c stDone 0
        (twos 64 x.value))

/-- Table 15.8 (R379, R261, R251, R381, R333, R313, R401, R406, R391): each of these commands takes its effect at once and
completes DONE; SELECT_VARIANT and SET_POLICY on a plot that runs wait for their step. -/
def Obligations.SettingsComplete : Prop :=
  ∀ (c : Slot) (s u : State), u = s.taken c → c.extLen = 0 →
    (Sound s 0x0503 .chip c (fun u => trainIn [.empty, .loaded] u && u.ports.all (fun p => p.st == 0 || p.st == 3)) →
      Clean c [(16, 16)] [] → coordBad c = none →
      exec (.setCoord c) s = .next (({ u with place := { u.place with coord := some ⟨arg c 0 1, arg c 1 1, arg c 2 1, arg c 3 1,
        [arg c 4 1, arg c 5 1, arg c 6 1, arg c 7 1], [arg c 8 1, arg c 9 1, arg c 10 1, arg c 11 1], arg c 12 1,
        [arg c 13 1, arg c 14 1, arg c 15 1]⟩ } } : State).reply 0x0503 c stDone 0 0)) ∧
    (Sound s 0x0504 .chip c (trainIn [.empty, .loaded]) → Clean c [(1, 31)] [] →
      exec (.setRouteEpoch c) s = .next ((u.newEpoch (arg c 0 1)).reply 0x0504 c stDone 0 0)) ∧
    (Sound s 0x0505 .chip c anywhere → Clean c [(4, 28)] [] →
      (arg c 0 2 = 0 ∧ arg c 2 2 = 0 ∨ 0 < arg c 0 2 ∧ arg c 0 2 < arg c 2 2 ∧ arg c 2 2 ≤ 8192) →
      exec (.setSluice c) s = .next ((u.onBgp (fun b => { b with
        newMarks := some (if arg c 0 2 = 0 then (1024, 2048) else (arg c 0 2, arg c 2 2)) })).reply 0x0505 c stDone 0 0)) ∧
    (∀ i, Sound s 0x0405 .plot c (trainIn [.armed, .running]) → Clean c [(9, 23)] [] → u.stepArgOk (arg c 0 8) →
      u.train.image = some i → (i.variant? (arg c 8 1)).isSome → (arg c 8 1 = u.train.variant ∨
        arg c 8 1 = 0 ∧ u.train.variant = 2 ∧ u.place.map = i.map ∨ arg c 8 1 = 2 ∧ u.train.variant = 0) →
      exec (.selectVariant c) s = .next ((if u.plot0.st = .running then u.onTrain (fun t =>
          { t with changes := t.changes ++ [.variant (arg c 0 8) (arg c 8 1)] })
        else (if arg c 8 1 ≠ u.train.variant ∧ u.snap.hamper.any (·.draining) then u.endHamper else u).onTrain (fun t =>
          { t with variant := arg c 8 1 })).reply 0x0405 c stDone 0 0)) ∧
    (Sound s 0x0406 .plot c (trainIn [.loaded, .armed, .running, .parked]) → Clean c [(10, 22)] [] →
      u.stepArgOk (arg c 0 8) → arg c 8 1 ∈ [0, 1, 0xFF] → (arg c 8 1 = 1 → u.carryOk) → arg c 9 1 ∈ [0, 1, 0xFF] →
      exec (.setPolicy c) s = .next ((u.onTrain (fun t => if u.plot0.st = .running then
          { t with changes := t.changes ++ [.policy (arg c 0 8) (arg c 8 1) (arg c 9 1)] }
          else t.policy (arg c 8 1) (arg c 9 1))).reply 0x0406 c stDone 0 0)) ∧
    (Sound s 0x0803 .chip c (fun u => u.chip.profile != 0 || u.plot0.st == .empty) → Clean c [(0, 32)] [] →
      ∃ t : State, exec (.clearSuspect c) s = .next (t.reply 0x0803 c stDone 0 0) ∧ t.flash.suspect = false ∧
        t.faultN = (u.chip.st == .hold) ∧ t.train.suspectSince = none) ∧
    (Sound s 0x0305 .plot c (fun u => u.chip.profile != 0 && plotIn [.loaded] u c && u.time.locked && u.cool) →
      Clean c [(0, 32)] [] → ∀ p, u.plot? c.target.toNat = some p →
      exec (.plotStart c) s = .next (((u.restoreContext c.target.toNat p).onPlot c.target.toNat (fun p => { p with
        st := .running, time := 0, posts := [], pending := 0, pass := none, stopping := none })).reply 0x0305 c stDone 0 0)) ∧
    (Sound s 0x0902 .chip c anywhere → Clean c [(1, 31)] [] → arg c 0 1 = 1 → u.flash.inactive.valid →
      exec (.fwActivate c) s = .next (({ u with flash := { u.flash with activateNext := true } } : State).reply 0x0902 c stDone 0 0))

/-- R373, R393, R390, R391, R396, R422, R456 to R459, R57, R400: each of these commands, sound and with parameters that its
row takes, is accepted, and keeps what its work needs. -/
def Obligations.ConfigurationsAreAccepted : Prop :=
  ∀ (c : Slot) (s u : State), u = s.taken c →
    (Sound s 0x0301 .chip c (fun u => u.plots.all (fun p => p.st == .empty)) → Clean c [(1, 31)] [] → c.extLen = 0 →
      arg c 0 1 ≤ 3 → exec (.setProfile c) s = .next (u.accept 0x0301 c)) ∧
    (∀ b, Sound s 0x0303 .chip c anywhere → Clean c [(1, 31)] [] → c.extLen = 64 → arg c 0 1 ≤ 3 →
      u.extBytes c = some b → profileBad (arg c 0 1) b = none → exec (.writeProfile c) s = .next (u.accept 0x0303 c)) ∧
    (∀ b g p n, Sound s 0x0306 .plot c (fun u => u.chip.profile != 0 && plotIn [.empty, .loaded] u c
        && (u.plot? c.target.toNat).any (fun p => !p.bad)) → Clean c [(0, 32)] [] → n = c.extLen.toNat →
      n % 16 = 0 ∧ 80 ≤ n ∧ n ≤ 65600 → u.extBytes c = some b → configBad b = none → u.plot? c.target.toNat = some p →
      imageBad (u.programTarget p) g = none →
      exec (.plotReconfig c (some g)) s = .next ((u.onPlot c.target.toNat (fun p => { p with
        config := some (fieldAt b 4 1 == 1, g) })).accept 0x0306 c)) ∧
    (∀ g n, Sound s 0x0401 .plot c (trainIn [.empty, .loaded]) → Clean c [(0, 32)] [] → n = c.extLen.toNat →
      n % 16 = 0 ∧ 16 ≤ n ∧ n ≤ 65536 → u.reaches c →
      exec (.loadImage c (some g)) s = .next ((u.onTrain (fun t => { t with loading := some g })).accept 0x0401 c)) ∧
    (Sound s 0x0201 .either c (fun u => (if c.target == 0xFF then allPlotsIn [.empty] u else plotIn [.empty] u c)
        && u.cool) → Clean c [(2, 30)] [(1, 1)] → c.extLen = 0 → arg c 0 1 ≤ 1 → (arg c 1 1 = 1 → c.target = 0xFF) →
      ∃ t : State, exec (.runSelftest c) s = .next (t.accept 0x0201 c) ∧ t.chip.test = some ⟨c.target.toNat, arg c 0 1,
        arg c 0 1 == 1, 2, false, false, 0, (List.range 10).filter (fun p => arg c 1 1 == 1 || (u.port p).st == 0
          || (u.port p).st == 3)⟩ ∧ ∀ p, p ∈ t.ports → arg c 1 1 = 1 → p.st = 0) ∧
    (∀ b, Sound s 0x0203 .either c (fun u => if c.target == 0xFF then allPlotsIn [.empty, .loaded] u
        else plotIn [.empty, .loaded] u c) → Clean c [(1, 31)] [(0, 1)] → 64 ≤ c.extLen.toNat → u.extBytes c = some b →
      setBad b c.extLen.toNat (u.vectorScope c.target.toNat).length = none →
      exec (.runVectors c) s = .next (({ u with vec := some ⟨c.target.toNat, arg c 0 1 == 1, b, 0, 64, 0, 0, []⟩ } :
        State).accept 0x0203 c)) ∧
    (Sound s 0x0902 .chip c anywhere → Clean c [(1, 31)] [] → c.extLen = 0 → arg c 0 1 = 0 → u.flash.inactive.valid →
      u.snap.hamper.any (·.draining) = false → exec (.fwActivate c) s = .next (({ u with chip := { u.chip with
        restart := some (1 - u.flash.active, true) } } : State).accept 0x0902 c))

/-- R390: FW_STAGE adds its bytes to the image that is being staged: a first piece begins a new one and empties the inactive
bank, a last piece is accepted, and any other is done.

R390: at the end of staging a valid image fills the inactive bank, and the result is its version; any other leaves that
bank invalid and completes BAD_PARAM with the check that failed. -/
def Obligations.FirmwareIsStagedAndChecked : Prop :=
  (∀ (c : Slot) (s u : State) (b old : List Byte) (first : Bool), u = s.taken c →
    Sound s 0x0901 .chip c anywhere → Clean c [(17, 15)] [(16, 3)] → c.extLen ≠ 0 → arg c 8 8 ≤ 24 * 2 ^ 20 →
    (arg c 16 1 % 2 = 1 ∧ first = true ∧ old = [] ∧ arg c 0 8 = 0 ∨
      arg c 16 1 % 2 = 0 ∧ first = false ∧ (∃ g, u.flash.staging = some g ∧ g.data = old) ∧ arg c 0 8 = old.length) →
    u.extBytes c = some b →
    ∃ t : State, exec (.fwStage c) s = .next (if 2 ≤ arg c 16 1 then t.accept 0x0901 c else t.reply 0x0901 c stDone 0 0) ∧
      t.flash.staging = some ⟨arg c 8 8, old ++ b⟩ ∧
      t.flash.banks = (if first then u.flash.banks.set (1 - u.flash.active) ⟨false, 0, 0⟩ else u.flash.banks) ∧
      t.flash.activateNext = (u.flash.activateNext && !first)) ∧
  (∀ (s : State) (j : Job) (g : Staging), s.job? 0x0901 = some j → s.flash.staging = some g →
    ∃ t : State, t.flash.staging = none ∧
      exec .fwStageEnd s = .next (match fwBad g.length g.data with
        | some d => t.endJob j stBadParam d 0
        | none => t.endJob j stDone 0 (fieldAt g.data 28 4)) ∧
      t.flash.banks = s.flash.banks.set (1 - s.flash.active) (match fwBad g.length g.data with
        | some _ => ⟨false, 0, 0⟩
        | none => ⟨true, BitVec.ofNat 32 (fieldAt g.data 28 4), BitVec.ofNat 32 (fieldAt g.data 32 4)⟩))

/-- R50, R67, R68, R29, R317, R311: the commands that rule the training job are accepted, and what they ask for waits for
its step or its tick. -/
def Obligations.TrainingCommandsAreAccepted : Prop :=
  ∀ (c : Slot) (s u : State), u = s.taken c → c.extLen = 0 →
    (Sound s 0x0402 .plot c (fun u => trainIn [.loaded] u && u.time.valid && !u.flash.suspect && u.cool) →
      Clean c [(0, 32)] [] → exec (.arm c) s = .next (u.accept 0x0402 c)) ∧
    (Sound s 0x0403 .plot c (fun u => trainIn [.armed, .parked] u && u.cool && !u.train.updateHalted &&
        !(u.plot0.st == .parked && (u.train.shiftAborted || u.shift.isSome))) → Clean c [(8, 24)] [] →
      u.fabric + ticksPerMs ≤ arg c 0 8 → exec (.start c) s = .next (((u.abortJobs (fun j => j.opcode == 0x0403) 0 0).onTrain
        (fun t => { t with next := some (arg c 0 8) })).accept 0x0403 c)) ∧
    (Sound s 0x0404 .plot c (trainIn [.running]) → Clean c [(8, 24)] [] → u.leadOk (arg c 0 8) →
      exec (.stop c) s = .next ((u.onTrain (fun t => { t with changes := t.changes ++ [.stop (arg c 0 8)] })).accept
        0x0404 c)) ∧
    (Sound s 0x0506 .chip c (trainIn [.empty, .loaded]) → Clean c [(10, 22)] [(9, 3)] → arg c 0 4 ≤ 60000 →
      ∃ t : State, exec (.timeArm c) s = .next (t.accept 0x0506 c) ∧ t.time.valid = false ∧ t.time.armed ∧
        t.time.syncSeen = false ∧ t.time.slips = 0 ∧ t.ports = u.ports.map (fun p => { p with minMargin := 0x7FF }) ∧
        t.time.arming = some ⟨arg c 4 4, (List.range 10).filter (fun p => if arg c 8 2 = 0 then (u.port p).st == 2
          else (arg c 8 2).testBit p), [], u.time.cyc + (if arg c 0 4 = 0 then 1000 else arg c 0 4) * Config.cyclesPerMs,
          false, false⟩) ∧
    (∀ r, Sound s 0x0704 .plot c (fun u => trainIn [.running] u && !u.flash.suspect) → Clean c [(9, 7)] [] →
      (arg c 8 1 = 0 ∧ u.leadOk (arg c 0 8) ∧ arg c 24 8 = 0 ∨ arg c 8 1 = 1 ∧ u.isSpare ∧ u.leadOk (arg c 24 8)) →
      arg c 16 8 % 64 = 0 → regionAt (u.regions 0) (arg c 16 8) (u.auditRoom (arg c 8 1)) = some r →
      r.2.kind = 0 → exec (.audit c) s = .next ((u.onTrain (fun t => { t with changes := t.changes ++
        [.audit (arg c 0 8) (arg c 8 1) (arg c 16 8) (arg c 24 8)] })).accept 0x0704 c)) ∧
    (Sound s 0x0701 .plot c (trainIn [.armed, .running]) → Clean c [(9, 7), (24, 8)] [(8, 3)] →
      u.fabric + ticksPerMs ≤ arg c 0 8 → u.sealBad c = none → ∀ w, w = ((u.onTrain (fun x => { x with changes := x.changes ++
        [.recall (arg c 0 8) (sealDests c).1 (sealDests c).2] })).accept 0x0701 c) →
      exec (.recallNotice c) s = .next (w.dropLaterStops (w.haltTickOf (arg c 0 8))))

/-- R328, R329, R330, R336, R339, Table 14.6: HAMPER_SEAL waits for its step on a plot that is not PARKED and captures the
committed state at once on one that is; HAMPER_RESTORE is accepted from either source; HAMPER_LIST stages a slot through
an NVMe read or deallocates it; SET_MIRROR records the intervals and takes the ring into use. -/
def Obligations.HamperCommandsTakeEffect : Prop :=
  ∀ (c : Slot) (s u : State), u = s.taken c →
    (Sound s 0x0601 .plot c (trainIn [.armed, .running, .parked]) → Clean c [(9, 7), (24, 8)] [(8, 3)] → c.extLen = 0 →
      arg c 8 1 ≠ 0 → u.snap.hamper.any (·.draining) = false → (∀ x ∈ u.train.changes, ∀ n f a, x ≠ .seal n f a) →
      u.sealBad c = none →
      (u.plot0.st ≠ .parked → u.leadOk (arg c 0 8) → u.shadowsOk → exec (.hamperSeal c) s = .next ((u.onTrain (fun t =>
        { t with changes := t.changes ++ [.seal (arg c 0 8) (sealDests c).1 (sealDests c).2] })).accept 0x0601 c)) ∧
      (u.plot0.st = .parked → u.train.updateHalted = false →
        exec (.hamperSeal c) s = .next ((u.accept 0x0601 c).sealParked c 0x0601))) ∧
    (Sound s 0x0602 .plot c (fun u => if auditLoad c then trainIn [.running] u && u.isSpare
        else trainIn [.loaded, .parked] u) → Clean c [(2, 2), (16, 16)] [(1, 1)] → c.extLen = 0 →
      (arg c 0 1 = 1 → u.stagingOk 0 (arg c 8 8) 256 → exec (.hamperRestore c) s = .next (u.accept 0x0602 c)) ∧
      (∀ r x, arg c 0 1 = 0 → u.flashFailed = false → u.ring? = some r → r.slots[arg c 4 4]? = some x →
        exec (.hamperRestore c) s = .next ((u.nvmeIssue ⟨2, r.lbaOf (arg c 4 4), max 1 (ceilDiv (fieldAt x.data 112 8) 4096),
          [], false, r.ns, 3, arg c 4 4⟩).accept 0x0602 c))) ∧
    (∀ r x, Sound s 0x0603 .plot c anywhere → Clean c [(1, 3), (16, 16)] [] → c.extLen = 0 → u.flashFailed = false →
      u.ring? = some r → r.slots[arg c 4 4]? = some x → u.slotBusy (arg c 4 4) = false →
      (arg c 0 1 = 1 → x.st = 1 → u.stagingOk c.target.toNat (arg c 8 8) (fieldAt x.data 112 8) →
        exec (.hamperList c) s = .next ((u.nvmeIssue ⟨2, r.lbaOf (arg c 4 4), ceilDiv (fieldAt x.data 112 8) 4096, [], false,
          r.ns, 2, arg c 4 4⟩).accept 0x0603 c)) ∧
      (arg c 0 1 = 2 → r.newest ≠ some (arg c 4 4) → exec (.hamperList c) s = .next (((u.onSlot (arg c 4 4)
        (fun _ => ⟨0, 0, 0, []⟩)).nvmeIssue ⟨9, r.lbaOf (arg c 4 4), r.lbas, [], false, r.ns, 4, 0⟩).reply 0x0603 c stDone
          0 0))) ∧
    (∀ ns count lba most, ns = arg c 8 1 → count = arg c 12 4 → lba = (nth u.host.nsLbas (ns - 1) 0 - 16) / max count 1 →
      most = ({ u with snap := { u.snap with cursor := arg c 16 8 } } : State).hamperMost →
      Sound s 0x0604 .plot c (trainIn [.loaded, .armed, .running]) → Clean c [(9, 3), (24, 8)] [] → c.extLen = 0 →
      (u.modeOf 0 = 0 ∧ arg c 0 4 = 0 ∨ u.modeOf 0 = 1 ∧ arg c 0 4 = 1 ∨
        2 ≤ u.modeOf 0 ∧ 1 ≤ arg c 0 4 ∧ arg c 0 4 ≤ 65535) →
      (ns = 0 ∨ ns ≤ 4 ∧ u.flashFailed = false ∧ u.host.flState = 2 ∧ bit u.host.nsUsable (ns - 1) ∧ 1 ≤ count ∧ count ≤ 64
        ∧ most ≤ lba * 4096) →
      (arg c 16 8 = 0 ∨ arg c 16 8 % 64 = 0 ∧ ∃ r, regionAt (u.regions 0) (arg c 16 8) 65540 = some r ∧ r.2.kind = 0) →
      (u.modeOf 0 = 2 → u.partnerPlaces most ≠ 0) → u.relabels ns count lba = false →
      ∃ t : State, exec (.setMirror c) s = .next (t.reply 0x0604 c stDone 0 0) ∧ t.snap.np = arg c 0 4 ∧
        t.snap.nf = arg c 4 4 ∧ t.snap.cursor = arg c 16 8 ∧ t.snap.ns = ns)

/-- R405, R212, R344, R388, R419: each of these commands answers first, and its effect follows the answer. -/
def Obligations.EffectsFollowTheFirstCompletion : Prop :=
  ∀ (c : Slot) (s u : State), u = s.taken c →
    (Sound s 0x0304 .plot c (fun u => u.chip.profile != 0 && plotIn [.running] u c) → Clean c [(1, 31)] [] → c.extLen = 0 →
      arg c 0 1 ≤ 1 → exec (.plotStop c) s = .next (((u.onPlot c.target.toNat (fun p => if arg c 0 1 = 1 then
          { p with st := .draining, stopping := some p.pending, pending := 0, posts := [] }
          else { p with st := .draining, stopping := some 0 })).accept 0x0304 c).stopIfDone c.target.toNat)) ∧
    (Sound s 0x0501 .chip c (trainIn [.empty, .loaded, .parked]) → Clean c [(3, 1), (8, 24)] [(1, 3)] → c.extLen = 0 →
      u.place.coord.isSome → arg c 2 1 ∈ [8, 12, 16] → (∀ p ∈ trainMask c, arg c 2 1 ≤ maxLanes p) →
      ∀ pin, pin = (if arg c 4 2 = 0 then 160 else arg c 4 2) → 96 ≤ pin ∧ pin ≤ 2047 → arg c 6 2 ≤ 10000 →
      exec (.linkTrain c) s = .next ((((trainMask c).foldl (fun s p => (s.onPort p (fun q => q.startTraining (arg c 2 1)
        pin)).onCheck p (fun k => { PortCheck.reset with digTx := k.digTx, digRx := k.digRx })) u).accept 0x0501
          c).linkTrainEnd)) ∧
    (∀ b e i map, Sound s 0x0702 .plot c (fun u => trainIn [.parked] u && !u.flash.suspect && u.modeOf 0 != 0) →
      Clean c [(30, 2)] [(27, 1)] → 64 ≤ c.extLen.toNat → u.extBytes c = some b → 64 + 32 * fieldAt b 0 4 = c.extLen.toNat →
      tableBad b (fieldAt b 0 4) = none → arg c 0 8 = u.train.committed + 1 → u.train.image = some i →
      i.variant? (arg c 26 1) = some e → arg c 26 1 ∈ [0, 2, 3, 4] →
      (arg c 26 1 = 4 → u.train.variant = 3 ∨ u.train.variant = 4) → map = (slice c.inl 8 17).map (·.toNat) →
      mapOk map e.active (nth i.shape 3 1 + i.spare) → (arg c 27 1 = 1 → u.modeOf 0 = 2) →
      exec (.planeShift c) s = .next ((u.accept 0x0702 c).shiftBegin c b)) ∧
    (Sound s 0x0703 .plot c (fun u => trainIn [.empty, .loaded, .parked] u
        && !u.shift.any (fun h => h.persReaders != 0 || h.partReaders != 0)) → Clean c [(1, 31)] [(0, 1)] → c.extLen = 0 →
      ∃ t : State, exec (.leaveSlice c) s = .next t ∧ t.place.map = List.replicate 17 0xFD ∧ t.place.epoch = 0 ∧
        t.train.image = none ∧ t.snap.partners = [] ∧ t.snap.snap = [] ∧ t.snap.hamper = none) ∧
    (Sound s 0x0B01 .either c anywhere → Clean c [(2, 30)] [] → c.extLen = 0 →
      (∀ b, arg c 0 1 = 0 → arg c 1 1 = b → b ≤ 1 → c.target = 0xFF → ∀ w, w = u.reply 0x0B01 c stDone 0 0 →
        exec (.reset c) s = .next ({ w with chip := { w.chip with resetDue := some (b == 1) } } : State)) ∧
      (arg c 0 1 = 1 → arg c 1 1 = 0 → c.target = 0xFF →
        exec (.reset c) s = .next (u.reply 0x0B01 c stDone 0 0).controllerReset) ∧
      (arg c 0 1 = 2 → arg c 1 1 = 0 → c.target ≠ 0xFF →
        exec (.reset c) s = .next ((u.reply 0x0B01 c stDone 0 0).plotReset c.target.toNat)))

/-- R396, R393, R400, R57, R59, R60, R391: the work of each of these commands ends, its effect is there, and its job
leaves with the final completion of its row. -/
def Obligations.ConfigurationsEnd : Prop :=
  ∀ (s : State) (j : Job),
    (∀ b n, s.job? 0x0301 = some j → n = arg j.slot 0 1 → s.flash.profile? n = some b →
      exec .setProfileEnd s = .next ((s.switchProfile n b).endJob j stDone 0 n)) ∧
    (∀ b n, s.job? 0x0303 = some j → n = arg j.slot 0 1 → s.extBytes j.slot = some b → profileBad n b = none →
      exec (.writeProfileEnd true) s = .next (({ s with flash := { s.flash with
        prof0 := s.flash.prof0.set n b, prof1 := s.flash.prof1.set n b } } : State).endJob j stDone 0 0)) ∧
    (∀ k p z b, s.plot? k = some p → s.plotJob 0x0306 k = some j → p.config = some (z, b) →
      exec (.plotReconfigEnd k) s = .next ((s.reconfigure k p z b).endJob j stDone 0 0)) ∧
    (∀ b i, s.job? 0x0401 = some j → s.train.loading = some b → i = parseImage b →
      (∀ e, imageBad trainTarget b = some e → exec .loadImageValidationEnd s = .next (s.unload.endJob j stInvalid e.detail
        e.off)) ∧
      (∀ e, imageBad trainTarget b = none → s.fitBad i = some e → exec .loadImageValidationEnd s =
        .next (s.unload.endJob j stMismatch e.detail e.off)) ∧
      (imageBad trainTarget b = none → s.fitBad i = none → ∃ t : State, exec .loadImageValidationEnd s =
        .next (t.endJob j stDone 0 i.id) ∧ t.train.image = some i ∧ t.train.carry = i.carry ∧ t.train.satAccept = i.satAccept
          ∧ t.place.map = i.map ∧ t.snap.partners = [])) ∧
    (∀ i, s.job? 0x0402 = some j → s.train.image = some i → s.fitBad i = none → ∃ t : State, exec .armEnd s =
      .next (t.endJob j stDone 0 s.train.committed) ∧ (∀ p, t.plots[0]? = some p → p.st = .armed) ∧
        t.train.records = (if s.train.restored then s.train.records
          else i.records.map (fun r => (ScaleRec.ofBytes r).fresh))) ∧
    (∀ b, s.chip.restart = some (b, true) → s.job? 0x0902 = some j → ∃ t : State, exec .controllerRestartEnd s =
      .next (t.endJob j stDone 0 0) ∧ t.chip.restart = none ∧ t.flash.active = b) ∧
    (∀ b, s.chip.restart = some (b, true) → s.job? 0x0902 = some j → ∃ t : State, exec .fwRevertTimeout s =
      .next (t.endJob j stHwFault 0 0) ∧ t.chip.restart = none ∧ t.flash = s.flash)

/-- R29, R30, R212, R215, R350, R349, R388, R342: what a wait limit, the close of a window or the end of the work does to the
command that waits for it. -/
def Obligations.WaitsEnd : Prop :=
  ∀ (s : State) (j : Job),
    (∀ a, s.time.arming = some a → s.job? 0x0506 = some j → a.edge = false → a.deadline ≤ s.time.cyc →
      exec .timeArmWaitExpiry s = .next ((s.onTime (fun t => { t with armed := false, arming := none })).endJob j stDeadline
        0 0)) ∧
    (∀ a, s.time.arming = some a → s.job? 0x0506 = some j → a.edge → s.time.valid → 16 ≤ s.time.tick →
      (∀ bad, bad = a.mask.filter (fun p => decide (a.seen.filter (fun x => x.1 == p) ≠ [(p, true)])) →
      (bad = [] → exec .epochCheckWindowClose s = .next ((s.onTime (fun t => { t with arming := none })).endJob j stDone
        0 0)) ∧
      (bad ≠ [] → exec .epochCheckWindowClose s = .next ((s.onTime (fun t => { t with
        arming := none, valid := false, checkFail := true })).endJob j stAborted (bad.map (fun p => 2 ^ p)).sum 0)))) ∧
    (s.job? 0x0501 = some j → j.began + trainWait j.slot * Config.cyclesPerMs ≤ s.time.cyc →
      exec .linkTrainWaitExpiry s = .next ((trainMask j.slot).foldl (fun s p => s.onPort p (fun q =>
        if q.st == 1 then q.fail 0x0C else q)) s).linkTrainEnd) ∧
    (∀ h, s.shift = some h → s.job? 0x0702 = some j → h.moves.all (·.finished) → h.persReaders = 0 → h.partReaders = 0 →
      ∃ t : State, exec .planeShiftDone s = .next (t.endJob j stDone 0 h.bytes) ∧ t.shift = none ∧
        t.train.nextAbsent = h.absent ∧ ∀ p, t.plots[0]? = some p → p.st = .armed) ∧
    (∀ h, s.shift = some h → s.job? 0x0702 = some j → h.deadline ≤ s.time.cyc →
      ∃ t : State, exec .planeShiftWaitExpiry s = .next (t.endJob j stAborted 1 h.bytes) ∧ t.shift = none ∧
        t.train.shiftAborted) ∧
    (s.job? 0x0703 = some j → exec .leaveSliceEnd s = .next ((if arg j.slot 0 1 % 2 = 1 then (s.stacksOf 0).foldl
      (fun s k => s.onMem (fun m => { m with hbm := clearStack m.hbm k })) s else s).endJob j stDone 0 0)) ∧
    (∀ tr, s.recallTick = some tr → (s.train.run = none ∧ tr ≤ s.time.tick ∨ ∃ r, s.train.run = some r ∧
        (tr < s.updateTick r ∧ s.time.tick < s.updateTick r ∧ tr ≤ s.time.tick ∨
          s.updateTick r ≤ s.time.tick ∧ tr ≤ r.base + r.period ∧ s.runOver r)) →
      exec .recallHalt s = .next (s.recallNow tr))

/-- R339, Table 14.7: a hamper that passes every check is written, its scale records and its step taken over, and the plot
is LOADED; an audit load takes its pages, its records and its replica, and leaves the committed step. One that fails a check
completes with the status and the reason of the first. -/
def Obligations.RestoreEndsWithTheHampersState : Prop :=
  ∀ (s v : State) (j : Job) (b : List Byte) (room : Nat) (ok : Bool), s.job? 0x0602 = some j →
    s.host.nvme.any (fun c => c.use_ == 3) = false → s.restoreSource j.slot = (b, room, ok, v) →
    (∀ e, v.hamperBad b room ok (auditLoad j.slot) = some e → exec .hamperRestoreEnd s = .next (v.endJob j e.1 e.2 0)) ∧
    (v.hamperBad b room ok (auditLoad j.slot) = none → ∃ t : State, exec .hamperRestoreEnd s =
      .next (t.endJob j stDone 0 (fieldAt b 8 8)) ∧ t.train.records = hamperRecords b ∧
      (auditLoad j.slot = true → t.mem.hbm = (v.writePages b).mem.hbm ∧ t.train.auditReplica = fieldAt b 27 1 ∧
        t.train.committed = v.train.committed) ∧
      (auditLoad j.slot = false → t.train.committed = fieldAt b 8 8 ∧ t.train.restored ∧ t.train.updateHalted = false ∧
        t.snap.snap = [] ∧ ∀ p, t.plots[0]? = some p → p.st = .loaded))

/-- R459, R460, Table 20.5: a vector that ends writes its result entry into the result area and moves the run on; the last
one ends the command.

R422 to R424: a self-test step that passes leads to the next one; the last step of the power-on set makes the chip READY,
and that of a commanded one ends RUN_SELFTEST; a step that fails ends RUN_SELFTEST with its number and puts the chip in
HOLD, or marks the plot bad. -/
def Obligations.TestsEndStepByStep : Prop :=
  (∀ (s : State) (v : VecRun) (j : Job) (r : VRec) (fired : Option Nat), s.vec = some v → s.job? 0x0203 = some j →
    parseRecord v.set (s.vectorScope v.scope).length (fieldAt v.set 16 8) v.pos = .ok r →
    ∀ x, x = s.nextVector j v r fired.toList →
      x.2.index = v.index + 1 ∧ x.2.pos = v.pos + r.len ∧
      (v.index + 1 < fieldAt v.set 8 4 → exec (.vectorRunEnd fired) s = .next ({ x.1 with vec := some x.2 } : State)) ∧
      (v.index + 1 = fieldAt v.set 8 4 → exec (.vectorRunEnd fired) s = .next (x.1.endVectors j x.2))) ∧
  (∀ (s : State) (t : SelfTest) (r : StepResult), s.chip.test = some t → t.dipped = false →
    (stepFails s t r = false → t.step ≠ 6 → t.step ≠ 0 → ∃ u : State, exec (.selftestStepEnd r) s = .next u ∧
      u.chip.st = s.chip.st ∧ u.chip.test = some { t with
        step := if t.scope ≠ 0xFF ∧ t.step = 3 then 5 else t.step + 1, ms := t.ms + r.ms, restarted := false }) ∧
    (stepFails s t r = false → t.step = 6 → t.kind = 2 → ∃ u : State, exec (.selftestStepEnd r) s = .next u ∧
      u.chip.st = .ready ∧ u.chip.test = none ∧ u.chip.report.outcome = 0 ∧ u.chip.flPerst = false) ∧
    (∀ j, stepFails s t r = false → t.step = 6 → t.kind ≠ 2 → s.job? 0x0201 = some j → ∃ u : State,
      exec (.selftestStepEnd r) s = .next (u.endJob j stDone 0 (t.ms + r.ms)) ∧ u.chip.test = none) ∧
    (stepFails s t r = true → t.scope = 0xFF → ∃ u : State, exec (.selftestStepEnd r) s = .next u ∧ u.chip.st = .hold ∧
      u.chip.test = none ∧ u.chip.report.step = t.step ∧ u.chip.report.outcome = 1) ∧
    (stepFails s t r = true → t.scope ≠ 0xFF → t.kind ≠ 2 → ∃ u : State, exec (.selftestStepEnd r) s = .next u ∧
      u.chip.st = s.chip.st ∧ u.chip.test = none ∧ u.chip.report.step = t.step ∧ u.chip.report.outcome = 1))

/-- R360 to R363: enabling a stopped pair starts it with empty rings, or sets its configuration error; disabling stops it; a
doorbell and a completion head move within the ring alone; a slot that PCIe cannot read stops the pair.

R362: a completion goes to host memory where CQTAIL points, then the tail's write-back follows, then the vector's signal;
a write that PCIe refuses stops the pair. -/
def Obligations.QueuePairsWork : Prop :=
  (∀ (n : Nat) (s : State) (p : Pair) (v : W32) (size : Nat), n ≤ 7 → p = s.pair n →
    (∀ f : Pair → Pair, f = (fun p => { p with
        sqHead := 0, sqTail := 0, cqHead := 0, cqTail := 0, running := true, gen := p.gen + 1, waiting := [], visible := [] }) →
      p.running = false → s.pairExists n → p.valid → exec (.mgtQueueEnable n) s = .next ({ s with aq := { s.aq with
        pairs := s.aq.pairs.modify n f, memory := s.aq.memory.filter (fun r => decide (r.src ≠ .pair n)) } } : State)) ∧
    (p.running = false → s.pairExists n → p.valid = false →
      exec (.mgtQueueEnable n) s = .next (s.onPair n (fun p => { p with configErr := true }))) ∧
    (p.running → exec (.mgtQueueEnable n) s = .next s ∧ exec (.mgtQueueDisable n) s = .next (s.onPair n (fun p =>
      { p with running := false, gen := p.gen + 1, waiting := [], visible := [] }))) ∧
    (p.running → exec (.mgtSqtailDoorbell n v false) s = .next (s.onPair n (fun p =>
      { p with running := false, gen := p.gen + 1, waiting := [], visible := [], ringFault := true }))) ∧
    (∀ more, p.running → size = p.sqSize.toNat → v.toNat < size → more = (v.toNat + size - p.sqTail.toNat) % size →
      p.visible.length + more ≤ size - 1 → exec (.mgtSqtailDoorbell n v true) s = .next (s.onPair n (fun p =>
        { p with sqTail := v, visible := p.visible ++ List.replicate more s.time.cyc }))) ∧
    (p.running → size = p.cqSize.toNat → v.toNat < size →
      (v.toNat + size - p.cqHead.toNat) % size ≤ (p.cqTail.toNat + size - p.cqHead.toNat) % size →
      exec (.mgtCqheadWrite n v) s = .next (s.onPair n (fun p => { p with cqHead := v }))) ∧
    (p.running = false → exec (.mgtQueueDisable n) s = .next s ∧ exec (.mgtSqtailDoorbell n v true) s = .next s ∧
      exec (.mgtCqheadWrite n v) s = .next s)) ∧
  (∀ (n : Nat) (s t : State) (p : Pair) (w : Waiting) (rest : List Waiting), n ≤ 7 → p = s.pair n → p.running →
    p.waiting = w :: rest → 0 < p.ringFree → t = s.onPair n (fun p => { p with
      cqTail := BitVec.ofNat 32 ((p.cqTail.toNat + 1) % p.cqSize.toNat), waiting := rest }) →
    (∀ fn, fn = (if n ≤ 3 then 0 else n - 3) → ∀ u, u = t.emits
        [.hostWrite fn (p.cqBase.toNat + 32 * p.cqTail.toNat) w.entry.bytes,
          .hostWrite fn p.cqWb.toNat (leBytes 4 ((p.cqTail.toNat + 1) % p.cqSize.toNat) ++ zeros 4)] →
      exec (.completionWrite n true) s = .next (if w.signal then u.signal fn (if n ≤ 3 then n + 1 else 1) else u)) ∧
    exec (.completionWrite n false) s = .next (s.onPair n (fun p =>
      { p with running := false, gen := p.gen + 1, waiting := [], visible := [], ringFault := true })))

/-- R171 to R176, R168, R169: a copy queue starts empty, takes its doorbell while it runs, drains to the tail it finds, starts
the entry at its head, moves one group of 1 KiB at a time, and completes the entry with the bytes done.

R176, R175, R174: the end of a copy writes what is left of it, records its status and its bytes in the completion ring, and
frees the queue; an abort ends the entry in progress with its own status, lets those not started end ABORTED as they are taken,
and leaves a queue with none of either STOPPED. -/
def Obligations.CopyQueuesWork : Prop :=
  (∀ (q k : Nat) (s : State) (d : DmaQueue), q ≤ 4 → d = s.dmaQ q → s.queuePlot q = some k →
    (d.st = 0 → exec (.dmaQueueEnable q) s = .next (s.onQ q (fun d => { d with
      head := 0, tail := 0, cTail := 0, st := 1, phase := true }))) ∧
    (d.st ≠ 0 → exec (.dmaQueueEnable q) s = .next s) ∧
    (∀ v, d.st = 1 → v.toNat < d.size.toNat → q < s.dma.queues.length →
      ∃ t : State, exec (.dmaQtailDoorbell q v) s = .next t ∧ t.dmaQ q = { d with tail := v } ∧
        ∀ r, r ≠ q → t.dmaQ r = s.dmaQ r) ∧
    (d.st = 1 → q < s.dma.queues.length → ∃ t : State, exec (.dmaQueueDrain q) s = .next t ∧
      t.dmaQ q = { d with drainTo := d.tail, st := if d.head = d.tail ∧ s.copyJob? q = none then 0 else 2 }) ∧
    (∀ r : CopyStart, d.st = 1 ∧ d.head ≠ d.tail ∨ d.st = 2 ∧ d.head ≠ d.drainTo → s.copyJob? q = none →
      (r.entry = none → exec (.hostCopyEntryStart q r) s = .next (s.onQ q (fun d => { d with st := 0, ringFault := true }))) ∧
      (∀ e u, r.entry = some e → s.copyWaits k e = false → u = s.onQ q (fun d => { d with
        head := BitVec.ofNat 32 ((d.head.toNat + 1) % max d.size.toNat 1) }) →
        (entryBad s k e = false → (e.kind = 1 → e.dst + (permSpans e).2 ≤ e.src ∨ e.src + (permSpans e).1 ≤ e.dst) →
          (e.kind = 3 ∨ s.hostMayWrite k e.dst (copySpans e).2) → ∃ t : State, exec (.hostCopyEntryStart q r) s = .next t ∧
            t.copyJob? q = some ⟨e, 0, stDone, []⟩ ∧ t.dmaQ q = u.dmaQ q) ∧
        (entryBad s k e → exec (.hostCopyEntryStart q r) s = .next (u.copyPost q d.head.toNat e.tag.toNat e.signal
          stBadParam 0 0 r.ringOk)))) ∧
    (∀ (r : CopyStart) (e : CopyEntry), d.st = 3 → d.head ≠ d.tail → s.copyJob? q = none → r.entry = some e →
      exec (.hostCopyEntryStart q r) s = .next ((s.onQ q (fun d => { d with
        head := BitVec.ofNat 32 ((d.head.toNat + 1) % max d.size.toNat 1) })).copyPost q d.head.toNat e.tag.toNat e.signal
          stAborted 0 0 r.ringOk)) ∧
    (∀ j, s.copyJob? q = some j → j.status = stDone → s.copyWaits k j.entry = false →
      (j.entry.kind = 3 ∨ s.hostMayWrite k j.entry.dst (copySpans j.entry).2) →
      exec (.unscheduledCopyGroup q) s = .next (s.moveCopy q k j 1024) ∧
      ∃ i, (s.moveCopy q k j 1024).copyJob? q = some i ∧ i.entry = j.entry ∧ i.status = stDone ∧
        i.bytes = j.bytes + min 1024 (j.entry.b - j.bytes))) ∧
  (∀ (q k : Nat) (s : State) (j : CopyJob), q ≤ 4 → s.copyJob? q = some j → s.queuePlot q = some k →
    (∀ f stop u i, stop = f.elim j.entry.b (fun n => max j.bytes (min n j.entry.b)) →
      u = finishCopy q k stop (stop / 1024 + 2) s → u.copyJob? q = some i →
      (i.status ≠ stDone ∨ f.isSome ∨ j.entry.b ≤ i.bytes) → ∀ st, st = (if i.status ≠ stDone then i.status
        else if f.isSome then stHwFault else if i.poisoned = [] then stDone else stPoisoned) →
      exec (.hostCopyComplete q f true) s = .next (((u.setCopyJob q none).copyDone q (u.dmaQ q).inFlight j.entry.tag.toNat
        j.entry.signal st (if st = stPoisoned then i.poisoned.length else 0) i.bytes).drained q) ∧
      exec (.hostCopyComplete q f false) s = .next ((u.setCopyJob q none).onQ q (fun d =>
        { d with st := 0, ringFault := true }))) ∧
    (∀ n, (s.dmaQ q).st = 1 ∨ (s.dmaQ q).st = 2 → ∃ (t : State) (i : CopyJob), exec (.dmaQueueAbort q n) s = .next t ∧
      t.copyJob? q = some i ∧ i.entry = j.entry ∧ i.status ≠ stDone)) ∧
  (∀ (q n : Nat) (s : State), q ≤ 4 → q < s.dma.queues.length → (s.dmaQ q).st = 1 ∨ (s.dmaQ q).st = 2 →
    s.copyJob? q = none → ∃ t : State, exec (.dmaQueueAbort q n) s = .next t ∧
      t.dmaQ q = { s.dmaQ q with st := if (s.dmaQ q).head = (s.dmaQ q).tail then 0 else 3 })

/-- R262, R263, R174: the send queue starts empty, takes its doorbell while it runs, drains, and starts the entry at its head as a
stream or as a fetch; ABORT ends what runs, and an entry that is taken after it ends ABORTED. -/
def Obligations.TheSendQueueStartsItsEntries : Prop :=
  ∀ (s : State) (d : DmaQueue), d = s.dma.send →
    (d.st = 0 → exec .sendQueueEnable s = .next ({ s with dma := { s.dma with
      send := { d with head := 0, tail := 0, cTail := 0, st := 1, phase := true }, sendNext := 0 } } : State)) ∧
    (∀ v, d.st = 1 → v.toNat < d.size.toNat → exec (.sendQtailDoorbell v) s = .next ({ s with dma := { s.dma with
      send := { d with tail := v } } } : State)) ∧
    (d.st = 1 → exec .sendQueueDrain s = .next ({ s with dma := { s.dma with send := { d with
      drainTo := d.tail, st := if d.head = d.tail ∧ s.dma.sendJobs = [] then 0 else 2 } } } : State)) ∧
    (d.st = 1 ∨ d.st = 2 → exec .sendQueueAbort s = .next (((s.onQ 5 (fun d => { d with st := 3 })).abortSends).drained 5)) ∧
    (d.st = 1 ∨ d.st = 2 → s.dma.sendJobs = [] → exec .sendQueueAbort s = .next ({ s with dma := { s.dma with send := { d with
      st := if d.head = d.tail then 0 else 3 } } } : State)) ∧
    (∀ e u ok, d.st = 3 → d.head ≠ d.tail → s.dma.sendJobs.length < 256 → s.bgp.streams.length < 4096 →
      u = ({ s with dma := { s.dma with
        send := { d with head := BitVec.ofNat 32 ((d.head.toNat + 1) % max d.size.toNat 1) },
        sendNext := s.dma.sendNext + 1 } } : State) →
      exec (.sendEntryStart ⟨some e, ok⟩) s = .next (u.copyPost 5 d.head.toNat e.tag.toNat e.signal stAborted 1 0 ok)) ∧
    (∀ e u id ok, d.st = 1 ∧ d.head ≠ d.tail ∨ d.st = 2 ∧ d.head ≠ d.drainTo → s.dma.sendJobs.length < 256 →
      s.bgp.streams.length < 4096 → u = ({ s with dma := { s.dma with
        send := { d with head := BitVec.ofNat 32 ((d.head.toNat + 1) % max d.size.toNat 1) },
        sendNext := s.dma.sendNext + 1, sendJobs := s.dma.sendJobs ++ [(s.dma.sendNext, e)] } } : State) →
      s.planeOn → s.sendBad e = false → id = u.pickId e.chip →
      exec (.sendEntryStart ⟨some e, ok⟩) s = .next (if e.kind = 0 then
        id.2.openStream (freshStream e.chip id.1 1 0 (ceilDiv e.b 224) e.localAddr e.b e.remote (.host s.dma.sendNext))
      else id.2.onBgp (fun b => { b with
        fetches := b.fetches ++ [⟨e.chip, id.1, e.remote, e.b, e.localAddr, s.dma.sendNext, true, 0, 0, 0, false⟩] })))

/-- R33, R433, Table 18.2: reading the low half of a time or of a sequence latches the rest of it and answers the low half; a
read of the high half, and of TIM_CYCLE, then answers what was latched. A VF has no LNK, BGP or PWR block and no window: they
read zero. What TIM_CYCLE latches while VALID is clear is the model's choice (log 92). -/
def Obligations.LatchedReadsAnswer : Prop :=
  ∀ (fn n : Nat) (s : State), fn ≤ 4 →
    (n = (if s.time.valid then s.time.tick else 2 ^ 64 - 1) → ∀ t, t = ({ s with
      time := { s.time with latchHi := BitVec.ofNat 32 (n / 2 ^ 32), latchCycle := if s.time.valid then s.time.cycle else 0 },
      out := s.out ++ [.regRead fn 0x30000 (n % 2 ^ 32)] } : State) → exec (.timNowLoRead fn) s = .next t ∧
      t.readReg fn 0x30004 = n / 2 ^ 32 % 2 ^ 32 ∧ t.readReg fn 0x30008 = if s.time.valid then s.time.cycle else 0) ∧
    (n = s.aq.enext - 1 → ∀ t, t = ({ s with
      host := { s.host with eventHi := BitVec.ofNat 32 (n / 2 ^ 32) },
      out := s.out ++ [.regRead fn 0x10 (n % 2 ^ 32)] } : State) → exec (.hstEventSeqLoRead fn) s = .next t ∧
      t.readReg fn 0x14 = n / 2 ^ 32 % 2 ^ 32) ∧
    (n = s.aq.jnext - 1 → ∀ t, t = ({ s with
      host := { s.host with journalHi := BitVec.ofNat 32 (n / 2 ^ 32) },
      out := s.out ++ [.regRead fn 0x18 (n % 2 ^ 32)] } : State) → exec (.hstJournalSeqLoRead fn) s = .next t ∧
      t.readReg fn 0x1C = n / 2 ^ 32 % 2 ^ 32) ∧
    (∀ off, 0 < fn → off / 0x10000 ∈ [4, 5, 6] ∨ 0x100000 ≤ off → s.readReg fn off = 0)

/-- R432, R27, R238, R434, R438: a register write of 4 bytes on a multiple of 4 writes its register, one of 8 bytes on a
multiple of 8 writes the low register and then the high one, and any other changes nothing; here for the registers that
a write of one clears, for APBASE, and for the mask of a vector that has a message pending. -/
def Obligations.RegisterWritesReachTheirRegisters : Prop :=
  ∀ (fn off w : Nat) (v : W64) (s : State), fn ≤ 4 → fn ≤ s.host.vfs → s.chip.held = ⟨false, false, false⟩ →
    (off % 4 = 0 → exec (.registerWrite fn off 4 v) s = .next (s.freshSends (s.writeReg fn off (v.setWidth 32)
      State.sendAbort))) ∧
    (off % 8 = 0 → exec (.registerWrite fn off 8 v) s = .next (s.freshSends ((s.writeReg fn off (v.setWidth 32)
      State.sendAbort).writeReg fn (off + 4) ((v >>> 32).setWidth 32) State.sendAbort))) ∧
    ((w ≠ 4 ∨ off % 4 ≠ 0) → (w ≠ 8 ∨ off % 8 ≠ 0) → exec (.registerWrite fn off w v) s = .next s) ∧
    (off = 0x3000C → exec (.registerWrite fn off 4 v) s = .next ({ s with time := { s.time with
      beaconFail := s.time.beaconFail && !v.getLsbD 6, checkFail := s.time.checkFail && !v.getLsbD 5,
      refLost := s.time.refLost && !v.getLsbD 4 } } : State)) ∧
    (∀ p, p < 10 → fn = 0 → off = 0x40000 + 0x40 * p → exec (.registerWrite fn off 4 v) s = .next (s.onPort p (fun q =>
      { q with fault := q.fault && !v.getLsbD 12 }))) ∧
    (off = 0x70000 → fn < s.host.apbase.length → ∃ t : State, exec (.registerWrite fn off 8 v) s = .next t ∧
      nth t.host.apbase fn 0 = v &&& 0x0000FFFFFFE00000 ∧ t.host.msix = s.host.msix) ∧
    (∀ k e a d, off = 0xF000C + 16 * k → k < 0x800 → s.host.msix[fn]? = some e → e[k]? = some (a, d, true, true) →
      v.getLsbD 0 = false → ∃ t : State, exec (.registerWrite fn off 4 v) s = .next (t.emit (.msix fn k)) ∧
        t.out = s.out ∧ t.host.msix = s.host.msix.set fn (e.set k (a, d, false, false)))

/-- R435 to R437, R17, R18, R42: a BAR2 access of a function reaches its plot's HBM from APBASE on. A read is answered with the
plot's committed bytes, or held while a stack is in self-refresh or an update phase of the run must end first; a write that Table 7.2 allows is made,
and any other is discarded with an event. -/
def Obligations.Bar2ReachesThePlotsMemory : Prop :=
  ∀ (fn off k a n : Nat) (data : List Byte) (s : State), fn ≤ 4 → fn ≤ s.host.vfs → s.chip.st = .ready → s.spaceOf fn = some k →
    a = (nth s.host.apbase fn 0).toNat + off →
    (n = data.length → s.hostMayWrite k a n → exec (.bar2Write fn off data) s = .next (s.hbmWrite k a (clean data))) ∧
    (n = data.length → s.hostMayWrite k a n = false →
      exec (.bar2Write fn off data) s = .next (s.event 0x29 0 0 (leBytes 8 a ++ leBytes 4 n ++ leBytes 1 fn))) ∧
    (s.mustWait k a n → exec (.bar2Read fn off n) s = .next ({ s with host := { s.host with
      reads := s.host.reads ++ [⟨fn, off, a, n⟩] } } : State)) ∧
    (s.mustWait k a n = false → a + n ≤ hbmBytes (s.stacksOf k) → ∀ r, r = s.hostRead k a n →
      exec (.bar2Read fn off n) s = .next (r.2.2.emit (.bar2 fn off r.1 r.2.1))) ∧
    (s.mustWait k a n = false → hbmBytes (s.stacksOf k) ≤ a → ∃ (t : State) (z : Bool),
      exec (.bar2Read fn off n) s = .next (t.emit (.bar2 fn off (List.replicate n 0xFF) z))) ∧
    (s.mustWait k a n = true ↔ (∃ x ∈ s.stacksOf k, (s.stack x).refresh = .selfRefresh) ∨
      k = 0 ∧ s.chip.profile = 0 ∧ s.mustHold a n)

/-- R364, R365: the sideband's buffer of 64 KiB takes at most 1,024 bytes at a time, acknowledges each write, and gives back
what was written last; an assignment of the endpoint's ID is answered.

R364, R370: an assigned endpoint ID is taken and answered; a new one forgets the endpoints' sequences and no pair's. -/
def Obligations.TheSidebandAnswers : Prop :=
  (∀ (eid : Byte) (off : Nat) (data : List Byte) (s : State), s.aq.eid.isSome → 1 ≤ data.length → data.length ≤ 1024 →
    off + data.length ≤ 65536 →
    ∃ t : State, exec (.bufWrite eid off data) s = .next t ∧
      t.out = s.out ++ [.sideband eid 6 (leBytes 4 off ++ leBytes 2 data.length ++ zeros 2 ++ [0])] ∧
      (∀ i, i < data.length → (cellGet t.aq.buf (off + i)).getD 0 = nth data i 0) ∧
      (∀ a, a < off ∨ off + data.length ≤ a → cellGet t.aq.buf a = cellGet s.aq.buf a) ∧
      exec (.bufRead eid off data.length) t = .next (t.emit (.sideband eid 5 (leBytes 4 off ++ leBytes 2 data.length ++ zeros 2
        ++ data)))) ∧
  (∀ (eid : Byte) (s : State), ∃ t : State, exec (.setEndpointId eid) s = .next (t.emit (.mctpAssigned eid)) ∧
    t.aq.eid = some eid ∧ t.out = s.out ∧ (s.aq.eid = some eid → t.aq.memory = s.aq.memory) ∧
    (s.aq.eid ≠ some eid → ∀ r, r ∈ t.aq.memory ↔ r ∈ s.aq.memory ∧ ∃ n, r.src = .pair n))

/-- R29, R32, R37: the edge of FTSYNC that an armed chip waits for makes fabric time VALID at tick 0, cycle 0, and starts
every port's counts and digests over; an edge on an armed grid's boundary changes nothing, and one off it counts a slip.

R30, R237: at tick 8, cycle 0 after the edge, each ACTIVE port of the mask has an EPOCH_CHECK cell to send, with the token,
the tick and the port; once only.

R27, R41, R416: losing the reference clears LOCKED and VALID, sets REF_LOST and leaves the PLL in holdover; it leaves
holdover for PCIE_REFCLK, and locks to FTREF when no plot runs. -/
def Obligations.FabricTimeFollowsItsEdges : Prop :=
  (∀ s : State, s.time.locked →
    (s.time.armed → ∃ t : State, exec .ftsyncRisingEdge s = .next t ∧ t.time.armed = false ∧ t.time.valid ∧ t.time.syncSeen ∧
      t.time.tick = 0 ∧ t.time.cycle = 0 ∧ t.time.cyc = s.time.cyc ∧ t.time.slips = s.time.slips ∧
      t.time.arming = s.time.arming.map (fun a => { a with edge := true }) ∧
      t.ports = s.ports.map (fun p => { p with seqTx := 0, seqRx := 0 }) ∧
      t.checks = s.checks.map (fun k => { k with digTx := 0, digRx := 0 })) ∧
    (s.time.armed = false → s.time.valid → s.time.cycle = 0 → exec .ftsyncRisingEdge s = .next s) ∧
    (s.time.armed = false → s.time.valid → s.time.cycle ≠ 0 → exec .ftsyncRisingEdge s = .next ((s.onTime (fun t => { t with
      slips := min (t.slips + 1) 255 })).event 0x20 0 0 (leBytes 2 s.time.cycle))) ∧
    (s.time.armed = false → s.time.valid = false → exec .ftsyncRisingEdge s = .next s)) ∧
  (∀ (s : State) (a : Arming), s.time.arming = some a → a.edge → a.sent = false → s.time.valid → s.time.tick = 8 →
    s.time.cycle = 0 → a.mask.Nodup → s.ports.length = 10 → ∃ t : State, exec .epochCheckSend s = .next t ∧
      t.time = { s.time with arming := some { a with sent := true } } ∧
      ∀ p, p < 10 → t.port p = (if p ∈ a.mask ∧ (s.port p).st = 2 then { s.port p with ctl := (s.port p).ctl ++
        [⟨ctlCell 4 (leBytes 4 a.token ++ zeros 4 ++ leBytes 8 8 ++ leBytes 1 p), s.time.cyc, none⟩] } else s.port p)) ∧
  (∀ s : State,
    (s.time.locked ∨ s.time.ftref → ∃ t : State, exec .refLost s = .next t ∧ t.time.pll = .holdover ∧ t.time.locked = false ∧
      t.time.ftref = false ∧ t.time.valid = false ∧ t.time.refLost) ∧
    (s.time.pll = .ftref ∨ (∀ p ∈ s.plots, p.st ≠ .running ∧ p.st ≠ .draining) → ∃ t : State, exec .corePllLock s = .next t ∧
      t.time = { s.time with ftref := true, pll := .ftref, locked := true } ∧
      (s.time.pll = .holdover → s.chip.trained → s.chip.st ≠ .hold → ∀ k, k < 8 → k < s.mem.hstacks.length →
        (t.stack k).refresh = .controller)) ∧
    (s.time.pll ≠ .ftref → (∃ p ∈ s.plots, p.st = .running ∨ p.st = .draining) → exec .corePllLock s = .next ({ s with
      time := { s.time with ftref := true } } : State)) ∧
    (s.time.pll = .holdover → ∃ t : State, exec .pllReferenceSwitch s = .next t ∧ t.time = { s.time with pll := .pcie } ∧
      (s.chip.trained → s.chip.st ≠ .hold → ∀ k, k < 8 → k < s.mem.hstacks.length →
        (t.stack k).refresh = .controller)) ∧
    (s.time.pll ≠ .holdover → exec .pllReferenceSwitch s = .next s))

/-- R67, R309, R341, R342, R380: at S0, and at the boundary after a run that is over, the plot parks, halts or stops where it
must, and else a run begins: of the step after the committed one, with the index after the failed run's.

R63, R67: a phase whose tick has come begins, the update phase only once the vote is decided: draw counts, abandoned
tiles and claims start over on every tile. -/
def Obligations.BoundariesAndPhasesBegin : Prop :=
  (∀ (s : State) (n : Nat), s.time.valid → n = s.train.committed + 1 →
    (∀ t0, s.train.run = none → s.train.next = some t0 → t0 ≤ s.time.tick →
      (∀ tr, s.recallTick = some tr → tr ≤ t0 → exec .stepBoundary s = .next (s.recallNow tr)) ∧
      ((∀ tr, s.recallTick = some tr → t0 < tr) → ∃ (t : State) (r : Run), exec .stepBoundary s = .next t ∧
        t.train.run = some r ∧ r.step = n ∧ r.idx = 0 ∧ r.base = t0 ∧ r.begun = 0 ∧ r.passed = none ∧ t.train.next = none)) ∧
    (∀ q base, s.train.run = some q → s.runOver q → base = q.base + q.period →
      (s.train.mustPark → exec .stepBoundary s = .next (s.park false)) ∧
      (s.train.mustPark = false → (∀ tr, s.recallTick = some tr → tr ≤ base → exec .stepBoundary s = .next
        (s.recallNow tr)) ∧
        ((∀ tr, s.recallTick = some tr → base < tr) →
          (s.stopDue n → exec .stepBoundary s = .next (s.stopNow n)) ∧
          (s.stopDue n = false → ∃ (t : State) (r : Run), exec .stepBoundary s = .next t ∧ t.train.run = some r ∧
            r.step = n ∧ r.base = base ∧ r.idx = (if n = q.step then q.idx + 1 else 0) ∧ r.begun = 0 ∧ r.passed = none))))) ∧
  (∀ (s : State) (r : Run) (ph : PhaseEntry), s.train.run = some r → s.phases[r.begun]? = some ph → s.time.valid →
    r.base + ph.start ≤ s.time.tick → (ph.kind = 3 → r.passed.isSome) →
    ∃ t : State, exec .phaseStart s = .next t ∧ t.train.run.map (·.begun) = some (r.begun + 1) ∧
      ∀ x ∈ t.mem.tiles, x.w = 0 ∧ x.abandoned = false ∧ x.claims = [])

/-- R15, R286, R294, R309: at the end of the update phase of a run whose vote passed, its step is the committed one, and the
count of failed runs starts over. -/
def Obligations.StepsCommit : Prop :=
  ∀ (s : State) (r : Run) (ph : PhaseEntry), s.train.run = some r → s.phases[r.begun - 1]? = some ph → ph.kind = 3 →
    r.begun ≠ 0 → r.passed = some true → s.train.committed < r.step → s.time.valid →
    r.base + ph.start + ph.length ≤ s.time.tick →
    ∃ t : State, exec .stepCommit s = .next t ∧ t.train.committed = r.step ∧ t.train.failedRuns = 0 ∧
      t.train.nextAbsent = 0 ∧ t.train.nextRaised = false ∧
      t.train.absentLast = r.final.elim r.absent (fun w => (0xFFFF ^^^ w.pAnd) &&& (2 ^ s.replicas - 1))

/-- R292, R295, R309: at the last cycle of the vote phase a run that nothing has decided fails on this side and makes the
plot park, unless the slice is this one chip, whose own word decides; a run that was decided stays as it was.

R38 to R40: at the deadline of the oldest beacon that a port waits for, a port that has not shown its neighbor's beacon of that
phase fails its check in that phase, once. -/
def Obligations.DeadlinesOfAPhaseDecide : Prop :=
  (∀ (s : State) (r : Run) (ph : PhaseEntry), s.train.run = some r → s.phases[r.begun - 1]? = some ph → ph.kind = 2 →
    0 < r.begun → r.phaseOver = false → r.phaseStart ph + ph.length * 1024 ≤ s.fabricCycle + 1 →
    ∃ (t : State) (q : Run), exec .votePhaseEnd s = .next t ∧ t.train.run = some q ∧ q.phaseOver ∧
      (∀ b, r.passed = some b → q.passed = some b) ∧
      (r.passed = none → ((s.axesFrom 0).isEmpty = false ∨ s.isSpare) → q.passed = some false ∧ t.train.mustPark) ∧
      (r.passed = none → (s.axesFrom 0).isEmpty → s.isSpare = false → ∃ w, q.final = some w ∧
        q.passed = some (s.votePasses w) ∧ (r.own = none → w = s.formWord))) ∧
  (∀ (p : Nat) (s u : State) (b : BeaconDue) (bs : List BeaconDue), p ≤ 9 → (s.check p).beacons = b :: bs →
    (b.expected / 1024 + 1) * 1024 ≤ s.fabricCycle + 1 → u = s.onCheck p (fun k => { k with beacons := bs }) →
    (b.got = some true → exec (.beaconDeadline p) s = .next u) ∧
    (∀ r, b.got ≠ some true → s.train.run = some r → r.base = b.base → exec (.beaconDeadline p) s =
      .next ((u.onTime (fun x => { x with beaconFail := true })).failCheckIn b.phase 0x06 (Site.port p b.slot) false)))

/-- R78: a fetch keeps the groups whose descriptors may still run and adds the group of that number that is due in the list
of the tile, with its bytes as HBM holds them, unless it is poisoned (log 85); and no other tile changes.

R92, R93: a refresh window that the image gives a stack, or the controller's refresh of a stack in its care, sets the
cycle of the last refresh and nothing else. R402: in serving the window is one of the pass's, of the stack as the program
numbers it.

R65, R154, R329: a copy window of the armed update phase copies a protected page of its region into a free page of the
region's shadow and records the pair. -/
def Obligations.FetchesRefreshesAndCopyWindowsRun : Prop :=
  (∀ (k tile group phys now : Nat) (p : Plot) (ls : List (Nat × Sched)) (s : State), s.plots[k]? = some p →
    tile < 16 * p.clusters.length → phys = p.tileAt tile → s.fetchLists k = some (now, ls) →
    ∃ t : State, exec (.descriptorFetch k tile group) s = .next t ∧ (∀ i, i ≠ phys → t.tile i = s.tile i) ∧
      (t.tile phys).sram = (s.tile phys).sram ∧ (t.tile phys).banks = (s.tile phys).banks ∧
      ((s.tile phys).groups.length ≤ 128 → (t.tile phys).groups.length ≤ 128) ∧
      (∀ x b u f, ls = [x] → u = s.onTile phys (fun y => { y with groups := s.keptGroups tile now ls y }) →
        (x.2.list tile)[16 * group]? = some b → (parseHead b).start ≤ now + 256 → (u.tile phys).groups.length < 128 →
        (∀ g ∈ (u.tile phys).groups, g.1 ≠ x.1 + group) → f = u.fetchGroup k tile (x.1 + group) group (x.2.list tile) →
        t = f.1.elim f.2 (fun bs => f.2.onTile phys (fun y => { y with groups := y.groups ++ [(x.1 + group, bs)] })))) ∧
  (∀ (k : Nat) (s : State), k ≤ 7 →
    ((s.stack k).refresh = .controller → exec (.hbmControllerRefresh k) s = .next (s.onStack k (fun x =>
      { x with lastRef := s.time.cyc }))) ∧
    ((s.stack k).refresh ≠ .controller → exec (.hbmControllerRefresh k) s = .next s) ∧
    (∀ r i, s.train.run = some r → s.train.image = some i → (s.stack k).refresh = .image → r.base ≤ s.time.tick →
      s.time.tick - r.base ∈ i.windows (if r.armedForm then armedVar s.train.variant else baseVar s.train.variant) k →
      exec (.hbmRefreshWindow k) s = .next (s.onStack k (fun x => { x with lastRef := s.time.cyc }))) ∧
    (∀ (p : Plot) x i, s.train.run = none → s.chip.profile ≠ 0 → p ∈ s.plots → p.pass = some x → p.program = some i →
      k ∈ p.hstacks → (s.stack k).refresh = .image → (s.time.cyc - x.began) / 1024 ∈ i.windows 0 (p.hstacks.idxOf k) →
      exec (.hbmRefreshWindow k) s = .next (s.onStack k (fun x => { x with lastRef := s.time.cyc })))) ∧
  (∀ (e page q : Nat) (s : State) (g : Nat × Region) (r : List TByte × State), e ≤ 15 → s.inArmedUpdate → s.isSpare = false →
    s.windowsBegun (some e) true ≠ 0 → s.snap.copied.length < s.windowsBegun none false → page ∈ s.snap.snap →
    (∀ c ∈ s.snap.copied, c.1 ≠ page) → page ∈ s.windowPages →
    regionAt (s.regions 0) (page * Config.pageBytes) 1 = some g → s.freeShadow g.2.shadow = some q →
    r = s.copyRead 0 (page * Config.pageBytes) Config.pageBytes →
    exec (.copyWindow e page) s = .next ((r.2.hbmWrite 0 (q * Config.pageBytes) r.1).onSnap (fun n => { n with
      copied := n.copied ++ [(page, q)] })))

/-- R66, R71, R72, R102 to R118, R141 to R146, R178 to R201, R298, R302, R315: a descriptor of the matrix or the vector
unit that runs now reads its scale record through the record store's code where it has one, takes the effect of its operation on
its tile, and then a check that failed while it ran is judged; without a record and a failed check the effect is all. -/
def Obligations.ComputingDescriptorsRun : Prop :=
  ∀ (x : At) (h : DHead) (s u : State) (d : Dc) (fin : Op → (Dc → State → State) → State), u = s.struck d x.hw →
    fin = (fun o eff => (u.withRecord d o eff).arithFaults d o x.hw) →
    (∀ o, s.runs x h (.matMul o) = some d → exec (.matrixMultiply x h o) s = .next (fin (.matMul o) (State.matMul o))) ∧
    (∀ o, s.runs x h (.conv o) = some d → exec (.formatConversion x h o) s = .next (fin (.conv o) (State.convert o))) ∧
    (∀ o, s.runs x h (.digest o) = some d → exec (.digestDescriptor x h o) s = .next (fin (.digest o) (State.digest o))) ∧
    (∀ o, s.runs x h (.vec o) = some d → exec (.vectorFunction x h o) s = .next (fin (.vec o) (State.vector o))) ∧
    (∀ o, s.runs x h (.upd o) = some d → exec (.updateDescriptor x h o) s = .next (fin (.upd o) (State.update o))) ∧
    (∀ o, s.runs x h (.pair o) = some d → exec (.pairCheck x h o) s = .next (fin (.pair o) (State.pairCheck o))) ∧
    (s.runs x h .scale = some d → exec (.scaleRecordUpdate x h) s = .next (fin .scale State.scaleUpdate)) ∧
    (∀ o, s.runs x h (.handoff o) = some d → (s.chip.profile = 0 ∨ ∀ p, s.plots[x.plot]? = some p →
      x.tile + 1 ≠ 16 * p.clusters.length) → exec (.chainHandoff x h o) s = .next (fin (.handoff o) (State.handoff o))) ∧
    (∀ o eff, x.hw.tally = none → x.hw.residue = false → o.usesRecord = false ∨ d.record = 0xFFFF →
      fin o eff = eff d u) ∧
    (x.hw.hbmFlips = [] → x.hw.sramFlips = [] → x.hw.recFlips = [] → u = s)

/-- R66, R147, R148, R155 to R170, R305: a descriptor that moves data and runs now moves it, and a check that failed
meanwhile is judged; WAIT changes nothing but what the physical faults of its time do. -/
def Obligations.MovingDescriptorsRun : Prop :=
  ∀ (x : At) (h : DHead) (s u : State) (d : Dc) (fin : Op → (Dc → State → State) → State), u = s.struck d x.hw →
    fin = (fun o eff => (u.withRecord d o eff).arithFaults d o x.hw) →
    (∀ o, s.runs x h (.dmaIn o) = some d → exec (.tileDmaIn x h o) s = .next (fin (.dmaIn o) (State.dmaIn o))) ∧
    (∀ o, s.runs x h (.dmaOut o) = some d → exec (.tileDmaOut x h o) s = .next (fin (.dmaOut o) (State.dmaOut o))) ∧
    (∀ o, s.runs x h (.perm o) = some d → exec (.tileDmaPermute x h o) s = .next (fin (.perm o) (State.permute o))) ∧
    (∀ o, s.runs x h (.gather o) = some d → exec (.gather x h o) s = .next (fin (.gather o) (State.gather o))) ∧
    (∀ o, s.runs x h (.scatter o) = some d → exec (.scatter x h o) s = .next (fin (.scatter o) (State.scatter o))) ∧
    (∀ o, s.runs x h (.copy o) = some d → o.engine < 2 * (s.stacksOf x.plot).length →
      exec (.copyEngine x h o) s = .next (fin (.copy o) (State.copyDesc o))) ∧
    (∀ off, s.runs x h (.save off) = some d → exec (.contextSave x h off) s =
      .next (fin (.save off) (State.contextSave off))) ∧
    (∀ off, s.runs x h (.restore off) = some d → exec (.contextRestore x h off) s =
      .next (fin (.restore off) (State.contextRestore off))) ∧
    (∀ unit, s.runs x h (.wait unit) = some d → exec (.wait x h unit) s = .next u ∧
      (x.hw.hbmFlips = [] → x.hw.sramFlips = [] → x.hw.recFlips = [] → u = s))

/-- R225, R232, R266 to R290: in profile 0 a descriptor that runs now queues cells, claims them, or takes its step of a
collective, and a check that failed meanwhile is judged; in a serving program none of these exists, and the manual rejects such a program when it is loaded (R399). -/
def Obligations.FabricDescriptorsRun : Prop :=
  ∀ (x : At) (h : DHead) (s u : State) (d : Dc) (fin : Op → (Dc → State → State) → State), u = s.struck d x.hw →
    fin = (fun o eff => (u.withRecord d o eff).arithFaults d o x.hw) →
    (s.chip.profile = 0 →
      (∀ o, s.runs x h (.egress o) = some d → exec (.cellEgress x h o) s = .next (fin (.egress o) (State.egress o))) ∧
      (∀ o, s.runs x h (.ingress o) = some d → exec (.cellIngress x h o) s = .next (fin (.ingress o) (State.ingress o))) ∧
      (∀ o, s.runs x h (.coll 0 o) = some d → exec (.collectivePack x h o) s = .next (fin (.coll 0 o) (State.pack o))) ∧
      (∀ o, s.runs x h (.coll 1 o) = some d → exec (.collectiveRound x h o) s = .next (fin (.coll 1 o) (State.round o))) ∧
      (∀ o, s.runs x h (.coll 2 o) = some d → exec (.collectiveCheck x h o) s =
        .next (fin (.coll 2 o) (State.collCheck o))) ∧
      (∀ o, s.runs x h (.coll 3 o) = some d → exec (.place x h o) s = .next (fin (.coll 3 o) (State.placeDesc o))) ∧
      (∀ o, s.runs x h (.coll 4 o) = some d → exec (.combine x h o) s = .next (fin (.coll 4 o) (State.combine o)))) ∧
    (s.chip.profile ≠ 0 → ∀ o c, exec (.cellEgress x h o) s = .fault (.rejectedAtLoad 0x15) ∧
      exec (.cellIngress x h o) s = .fault (.rejectedAtLoad 0x15) ∧
      exec (.collectivePack x h c) s = .fault (.rejectedAtLoad 0x15) ∧
      exec (.collectiveRound x h c) s = .fault (.rejectedAtLoad 0x15) ∧
      exec (.collectiveCheck x h c) s = .fault (.rejectedAtLoad 0x15) ∧
      exec (.place x h c) s = .fault (.rejectedAtLoad 0x15) ∧ exec (.combine x h c) s = .fault (.rejectedAtLoad 0x15))

/-- R215, R233, R218: a port that trains goes on to codeword lock when its lanes are trained and fails with PMD_TRAIN when they
are not; past its last stage it becomes ACTIVE; the loss of a lane's signal is a link fault on an ACTIVE port and the
end of a training; an idle cell is discarded.

R213, R233: a lane's group that passes its check on an ACTIVE port keeps the lane locked and is counted by the FEC; more
than 8 uncorrectable codewords within 1,024 ticks, three bad groups in a row, or skew out of bounds end in a link fault. -/
def Obligations.LinksFollowTheirLanes : Prop :=
  (∀ (p : Nat) (s : State) (q : Port), p ≤ 9 → q = s.port p →
    (∀ t, q.train = some t → t.stage = 1 → exec (.pmdTrainingEnd p true) s = .next (s.onPort p (fun q => { q with
        train := q.train.map (fun t => { t with stage := 2 }) })) ∧
      exec (.pmdTrainingEnd p false) s = .next ((s.onPort p (fun q => q.fail 0x02)).linkTrainEnd)) ∧
    (∀ t, q.train = some t → t.stage = 5 → exec (.linkTrainPortActive p) s = .next ((s.onPort p (fun q => { q with
      st := 2, train := none })).linkTrainEnd)) ∧
    (∀ lane, lane < q.lanes → (q.st = 2 → exec (.laneSignalLoss p lane) s = .next (s.linkFault p 0x01)) ∧
      (q.st = 1 → exec (.laneSignalLoss p lane) s = .next ((s.onPort p (fun q => q.fail 0x01)).linkTrainEnd)) ∧
      (q.st ≠ 1 → q.st ≠ 2 → exec (.laneSignalLoss p lane) s = .next s)) ∧
    (∀ b, exec (.idleCellReceive p b) s = .next s)) ∧
  (∀ (g : GroupRx) (s u : State) (q : Port) (r : Bool × LaneRx) (w : List Nat), g.port ≤ 9 → q = s.port g.port → q.st = 2 →
    q.train = none → g.lane < q.lanes →
    r = groupCheck g.port g.lane (nth (s.check g.port).lanes g.lane LaneRx.reset) g.group →
    w = (s.check g.port).uncorr.filter (fun t => decide (s.ownTick < t + 1024)) ++ List.replicate g.uncorrectable s.ownTick →
    u = (s.onPort g.port (fun q => { q with fecCorr := sat32 (q.fecCorr + g.corrected), fecUncorr := sat32 (q.fecUncorr
      + g.uncorrectable) })).onCheck g.port (fun k => { k with lanes := k.lanes.set g.lane r.2, uncorr := w }) →
    ((r.2.locked = false ∨ r.2.bad < 3) → g.skewOk → w.length ≤ 8 → exec (.linbyGroupReceive g) s = .next u) ∧
    ((r.2.locked = false ∨ r.2.bad < 3) → g.skewOk → 8 < w.length → exec (.linbyGroupReceive g) s =
      .next (u.linkFault g.port 0x0A)) ∧
    ((r.2.locked ∧ 3 ≤ r.2.bad ∨ g.skewOk = false) → w.length ≤ 8 → exec (.linbyGroupReceive g) s =
      .next (u.linkFault g.port 0x03)))

/-- R34, R35, R216, R236, R237, R30: a link-control cell that passes its checks is taken by its subtype: IDENTITY, CAL_REQ and
CAL_RESP while the port trains, EPOCH_CHECK at any time; one that fails them is counted, and one in a slot that is
reserved for ingress fails that slot's cell. -/
def Obligations.LinkControlCellsAreTakenBySubtype : Prop :=
  ∀ (p tick sub : Nat) (slot : ControlAt) (b body : List Byte) (s : State) (q : Port), p ≤ 9 → q = s.port p →
    body = slice b 8 240 → sub = fieldAt b 1 1 → tick = (s.fabricCycle - q.pinned) / 1024 →
    (∀ e k ph x, q.st = 2 → s.time.valid → s.ingressEntry p tick slot.slot = some e → s.phaseAt tick = some (k, ph) →
      s.runAt tick = some x → exec (.linkControlCellReceive p b slot) s =
        .next ((s.missed p slot.slot k ph x.run e slot.voteDue).onPort p (fun q => { q with seqRx := q.seqRx + 1 }))) ∧
    (q.st = 1 ∨ q.st = 2 ∧ (s.time.valid = false ∨ s.ingressEntry p tick slot.slot = none) →
      ((cellCheckOk b = false ∨ cellKind b ≠ 3 ∨ sub = 0 ∨ 4 < sub) → exec (.linkControlCellReceive p b slot) s =
        .next (s.onPort p (fun q => { q with cellErr := sat32 (q.cellErr + 1) }))) ∧
      (cellCheckOk b → cellKind b = 3 →
        (sub = 1 → q.st = 1 → exec (.linkControlCellReceive p b slot) s = .next (s.takeIdentity p body)) ∧
        (sub = 2 → q.st = 1 → exec (.linkControlCellReceive p b slot) s = .next (s.onPort p (fun q => { q with
          ctl := q.ctl ++ [⟨ctlCell 3 (slice body 0 2 ++ zeros 6 ++ slice body 8 8 ++ leBytes 8 s.time.cyc), s.time.cyc + 64,
            some 32⟩] }))) ∧
        (sub = 3 → q.st = 1 → exec (.linkControlCellReceive p b slot) s = .next (s.takeCalResp p body)) ∧
        (sub = 4 → exec (.linkControlCellReceive p b slot) s = .next (s.takeEpochCheck p body))))

/-- R222, R223, R236: at its cycle of the tick a slot of an ACTIVE port carries what its entry reserves it for, else a
link-control cell that may leave, else, while the background plane is enabled (R238), a packet that was given the slot, with
the hop and the whole ticks it has waited in its header (R245), else the idle cell. -/
def Obligations.SlotsCarryWhatIsDue : Prop :=
  ∀ (p slot : Nat) (s : State) (q : Port), p ≤ 9 → q = s.port p → q.st = 2 → q.train = none → slot < q.slots →
    (if s.time.valid then s.time.cycle else s.time.cyc % 1024) = slot * 1024 / max q.slots 1 →
    (∀ e, s.time.valid → s.egressEntry p s.time.tick slot = some e →
      exec (.slotDeparture p slot) s = .next (s.reserved p slot e)) ∧
    (s.time.valid = false ∨ s.egressEntry p s.time.tick slot = none →
      (∀ c, q.ctl.find? (fun c => decide (c.notBefore ≤ s.time.cyc)) = some c → exec (.slotDeparture p slot) s =
        .next ((s.onPort p (fun q => { q with ctl := q.ctl.erase c })).passSlot p slot (some (c.stamped s.time.cyc)))) ∧
      ((∀ c ∈ q.ctl, s.time.cyc < c.notBefore) →
        (∀ b, s.planeOn → q.bg.find? (fun x => x.1 == slot) = some b → exec (.slotDeparture p slot) s = .next ((s.onPort p
          (fun q => { q with bg := q.bg.erase b })).passSlot p slot (some (b.2.departed s.time.cyc)))) ∧
        ((s.planeOn = false ∨ ∀ b ∈ q.bg, b.1 ≠ slot) →
          exec (.slotDeparture p slot) s = .next (s.passSlot p slot (some idleCell)))))

/-- R37, R52, R221: in its slot the beacon of a phase leaves, the port's sequence counts it, and the digest of what was sent
starts over. -/
def Obligations.BeaconsLeaveInTheirSlot : Prop :=
  ∀ (p slot k : Nat) (s : State) (q : Port) (e : SlotEntry) (ph : PhaseEntry), p ≤ 9 → p < s.ports.length →
    p < s.checks.length → q = s.port p → q.st = 2 → q.train = none → slot < q.slots → s.time.valid →
    s.time.cycle = slot * 1024 / max q.slots 1 → s.egressEntry p s.time.tick slot = some e →
    s.phaseAt s.time.tick = some (k, ph) → e.kind = 3 → e.tick = 0 → e.slot = ph.beacon →
    ∃ t : State, exec (.slotDeparture p slot) s = .next t ∧ (t.port p).seqTx = q.seqTx + 1 ∧ (t.port p).beaconDue = false ∧
      (t.check p).digTx = 0 ∧ (.cell p slot (schedCell 0 e.phase e.tag 0 s.place.epoch s.time.tick (s.beaconPayload p e.phase)
        (q.seqTx + 1))) ∈ t.out

/-- R36, R38, R219, R221, R222: at the release cycle of a slot its cell is judged against its entry; a beacon that passes is
compared with what the phase, the epoch and the digest of what was received say, and the sequence counts it. -/
def Obligations.CellsAreReleasedAfterThePinnedLatency : Prop :=
  ∀ (p slot tick : Nat) (a : Arrival) (s : State) (q : Port), p ≤ 9 → q = s.port p → s.time.valid → slot < q.slots →
    q.pinned ≤ s.fabricCycle → tick = (s.fabricCycle - q.pinned) / 1024 →
    (s.fabricCycle - q.pinned) % 1024 = slot * 1024 / max q.slots 1 →
    exec (.scheduledCellReceive p slot a) s = .next (s.arrive p tick slot a) ∧
    (∀ e k ph x c, q.st = 2 → p < s.ports.length → p < s.checks.length → s.ingressEntry p tick slot = some e →
      s.phaseAt tick = some (k, ph) → s.runAt tick = some x → e.isBeacon ph → a.cell = some c → 0 ≤ a.margin →
      a.drift = false → s.cellOk p k tick e c → ∀ t, t = s.arrive p tick slot a →
        (t.check p).beacons = (s.check p).beacons.map (fun b => if b.base = x.run.base ∧ b.phase = k then
          { b with got := some (s.beaconMatches p x.run.step k tick (slice c 8 240)) } else b) ∧ (t.check p).digRx = 0 ∧
        t.port p = { q with seqRx := q.seqRx + 1, minMargin := min q.minMargin a.margin.toNat })

/-- R214, R241: the router of a chip takes a cell by these rules in their order: the port is not ACTIVE, the plane is off, the FEC failed, the header is
bad, the epoch is stale, no port leads there, it is for this chip, its hops are used up; any other goes into transit. -/
def Obligations.ReceptionFollowsItsRules : Prop :=
  ∀ (p : Nat) (b : List Byte) (bad : Bool) (h : PktHead) (s : State), p ≤ 9 → h = headOf b →
    exec (.backgroundCellReceive p b bad) s = .next (
      if (s.port p).st ≠ 2 then s
      else if s.planeOn = false then s.countBgp 6
      else if bad then s.countBgp 5
      else if headOk b = false then s.countBgp 4
      else if h.epoch ≠ s.place.epoch then s.countBgp 2
      else if s.unroutable h.dst then s.countBgp 3
      else if h.dst = s.selfChip then
        (if s.bgp.eject.length < 4096 then s.onBgp (fun x => { x with eject := x.eject ++ [⟨b, s.time.cyc⟩] })
        else (s.onBgp (fun x => { x with transit := x.transit ++ [⟨b, s.time.cyc⟩] })).countBgp 13)
      else if h.hops = 1023 then
        (s.countBgp 1).event 0x23 4 0 (leBytes 3 h.src ++ leBytes 2 h.stream ++ leBytes 3 h.seq)
      else s.onBgp (fun x => { x with transit := x.transit ++ [⟨b, s.time.cyc⟩] }))

/-- R244, R250, R251: at a new tick the router takes the marks that a command set and sets the sluice by its occupancy, and while
the plane is on it assigns the tick's slots; a second time in one tick it does nothing. -/
def Obligations.TheRouterAssignsSlotsOnceATick : Prop :=
  ∀ (s t : State) (now : Nat), now = (if s.time.valid then s.time.tick else s.ownTick) → t = s.takeMarks →
    (s.bgp.lastTick = some now → exec .routerTick s = .next s) ∧
    (s.bgp.lastTick ≠ some now → exec .routerTick s = .next (if s.planeOn then
      t.shiftPass.partnerPass.setSluiceState.assignSlots else t.setSluiceState)) ∧
    t.bgp.lastTick = some now ∧ t.bgp.newMarks = none ∧ (t.bgp.low, t.bgp.high) = s.bgp.newMarks.getD (s.bgp.low, s.bgp.high)

/-- R247, R248, R253 to R256: the ejection unit finishes packets oldest first; a packet of a stream whose tracker entry is not
OPEN counts as a duplicate and is acknowledged again. -/
def Obligations.EjectionFinishesTheOldestPackets : Prop :=
  ∀ (n : Nat) (s : State), exec (.ejectionWrite n) s = .next (ejectPackets (min n s.bgp.eject.length) ⟨s, [], []⟩).finish ∧
    ∀ x rest h t, s.bgp.eject = x :: rest → h = headOf x.bytes → h.cls = 1 ∨ h.cls = 3 → s.track? h.src h.stream = some t →
      t.st ≠ 1 → exec (.ejectionWrite 1) s = .next ((((s.onBgp (fun b => { b with eject := rest })).onTrack h.src h.stream
        (fun t => { t with last := s.ownTick, ackFrom := some (t.ackFrom.getD s.ownTick) })).countBgp 7).sendAck h.src h.stream)

/-- R256, R257, R260, Table 11.5: each timer of the background plane, once its ticks have passed: a delayed ACK is sent, an
entry that is not OPEN is freed, a packet is sent again or after eight times ends its stream, a FETCH goes out again.

R348, R350: a REQUEST that NOT_READY answered goes out again after 1,024 ticks; one that nothing answered goes out again
after 16,384, and the eighth time ends the plane shift. -/
def Obligations.TimersOfThePlaneAct : Prop :=
  (∀ (chip id : Nat) (s : State),
    (∀ t a, s.track? chip id = some t → t.ackFrom = some a → a + 256 ≤ s.ownTick →
      exec (.ackTimer chip id) s = .next (s.sendAck chip id)) ∧
    (∀ t, s.track? chip id = some t → t.st ≠ 1 → t.last + 16384 ≤ s.ownTick →
      exec (.trackerIdleExpiry chip id) s = .next (s.onBgp (fun b => { b with
        tracker := b.tracker.filter (fun t => decide (¬(t.chip = chip ∧ t.stream = id))) }))) ∧
    (∀ x f, s.stream? chip id = some x → x.flight.find? (fun g => g.1 == f.1) = some f → f.2.1 + 16384 ≤ s.ownTick →
      f.1 ∉ x.again → f.2.2 < 8 → exec (.retransmitTimeout chip id f.1) s = .next (s.onStream chip id (fun x => { x with
        again := x.again ++ [f.1] }))) ∧
    (∀ x f, s.stream? chip id = some x → x.flight.find? (fun g => g.1 == f.1) = some f → f.2.1 + 16384 ≤ s.ownTick →
      f.1 ∉ x.again → 8 ≤ f.2.2 → ∃ u : State, exec (.retransmitTimeout chip id f.1) s = .next (u.streamFailed x stAborted 3) ∧
        u.bgp = s.bgp) ∧
    (∀ f, s.bgp.fetches.find? (fun f => f.stream == id && !f.toSend && f.reason == 0 && !f.answered
        && decide (f.sentAt + 16384 ≤ s.ownTick)) = some f →
      exec (.fetchTimeout id) s = .next (s.onFetch f.chip id (fun f => { f with toSend := true }))) ∧
    (∀ f, s.bgp.fetches.find? (fun f => f.stream == id && f.reason != 0 && decide (f.sentAt + 1024 ≤ s.ownTick)) = some f →
      (f.reason = 1 → exec (.fetchRetryTimer id) s = .next (s.onFetch f.chip id (fun f => { f with
        toSend := true, reason := 0, tries := f.tries + 1 }))) ∧
      (f.reason ≠ 1 → ∃ u : State, exec (.fetchRetryTimer id) s = .next (u.onBgp (fun b => { b with fetches := b.fetches ++
        [{ f with stream := (s.pickId f.chip).1, toSend := true, reason := 0, answered := false, tries := f.tries + 1 }] })) ∧
        ∀ g ∈ u.bgp.fetches, ¬(g.chip = f.chip ∧ g.stream = id)))) ∧
  (∀ (s : State) (h : Shift) (q : Request), s.shift = some h → h.request = some q →
    (q.notReady → q.since + 1024 ≤ s.ownTick → ∃ u : State, exec (.shiftRetryTimer q.run) s = .next (u.sendRequest h { q with
      tries := 0, since := s.ownTick, notReady := false }) ∧
      u.shift = some { h with request := some { q with tries := 0, since := s.ownTick, notReady := false } }) ∧
    (q.notReady = false → q.since + 16384 ≤ s.ownTick →
      (7 ≤ q.tries → exec (.shiftRetryTimer q.run) s = .next (s.shiftAbort 2)) ∧
      (q.tries < 7 → ∃ u : State, exec (.shiftRetryTimer q.run) s = .next (u.sendRequest h { q with
        tries := q.tries + 1, since := s.ownTick, notReady := false }) ∧
        u.shift = some { h with request := some { q with tries := q.tries + 1, since := s.ownTick, notReady := false } })))

/-- R331, R332, Table 14.2: a page of a draining hamper, once, is read as the drain reads it and enters the directory with its
region, its digest and its poison; what the drain can do next follows. -/
def Obligations.DrainedPagesEnterTheDirectory : Prop :=
  ∀ (page k g : Nat) (h : Hamper) (s : State) (e : List Byte) (r : List Byte × Nat × Bool × State), s.snap.hamper = some h → h.draining →
    h.pages.findIdx? (fun p => p.1 == page) = some k → h.pages[k]? = some (page, g) → (∀ e ∈ h.dir, e.1 ≠ page) →
    (h.flashSlot = none ∨ h.stage = 2) → r = s.drainRead page →
    e = leBytes 8 (page * Config.pageBytes) ++ leBytes 1 g ++ leBytes 1 (b2n (r.2.1 != 0) + 2 * b2n r.2.2.1) ++ zeros 2
      ++ leBytes 4 (sat32 r.2.1) ++ leBytes 8 (payloadDigest r.1) ++ zeros 8 →
    ∃ u : State, exec (.hamperDrain page) s = .next (u.stageFront.flashNext.settlePages.hamperEnd) ∧
      u.snap.hamper = some { h with dir := h.dir ++ [(page, e)], poison := h.poison || r.2.1 != 0 }

/-- R401 to R406: a pass of a serving plot begins at the tick that its oldest post allows, with its tiles' draw counts
and claims and its records' working fields started over; it ends after the period of the program, is counted, and
signals its function's vector.

R403: posts to a plot that runs wait with the tick of their post, up to 65,535 in all; any other post is refused. -/
def Obligations.PostsLeadToPasses : Prop :=
  (∀ (k : Nat) (s : State) (p : Plot), s.plots[k]? = some p →
    (s.chip.profile ≠ 0 → p.st = .running ∨ p.st = .draining → p.pass = none → p.time % 1024 = 0 →
      (∃ t rest, p.posts = t :: rest ∧ t + 2 ≤ p.time / 1024) → ∃ t : State, exec (.passStart k) s = .next t ∧
        t.plots[k]? = some { p with
          pass := some ⟨s.time.cyc, false, false, []⟩, pending := p.pending - 1, posts := p.posts.tail,
          records := p.records.map ScaleRec.fresh } ∧
        ∀ i ∈ p.physTiles, i < s.mem.tiles.length → (t.tile i).w = 0 ∧ (t.tile i).claims = [] ∧
          (t.tile i).sram = (s.tile i).sram) ∧
    (∀ x, p.pass = some x → x.began + p.period * 1024 ≤ s.time.cyc → ∃ t : State, exec (.passEnd k) s =
      .next ((t.signal p.fn 3).stopIfDone k) ∧ t.plots[k]? = some { p with
        pass := none, done := p.done + 1, lastFault := x.failed, fault := p.fault || x.failed, sat := p.sat || x.sat } ∧ t.host = s.host)) ∧
  (∀ (fn count k : Nat) (p q : Plot) (s : State), 1 ≤ fn → fn ≤ 4 → count < 65536 → s.spaceOf fn = some k →
    s.plots[k]? = some p →
    q = (if p.st = .running ∧ p.pending + count ≤ 65535 then
        { p with pending := p.pending + count, posts := p.posts ++ List.replicate count (p.time / 1024) }
      else { p with refused := true }) →
    exec (.hstPassPost fn count) s = .next ({ s with plots := s.plots.set k q } : State))

/-- R418, R419, R420, Table 17.5: a chip reset puts the chip in BOOT with its cause and its count in the reset record, no
image, no step and no command in progress; the journal, configuration flash and the straps stay, and the journal goes
only when VIO was lost. -/
def Obligations.ChipResetsClearTheChip : Prop :=
  ∀ (s : State) (cause : Nat) (c : Instr) (full : Bool),
    (c = .pinReset ∧ cause = 1 ∧ full = false ∧ s.chip.held.power = false ∧ s.chip.held.trip = false ∨
      c = .supplyReset false ∧ cause = 2 ∧ full = false ∨ c = .supplyReset true ∧ cause = 3 ∧ full = false ∨
      c = .thermalTrip ∧ cause = 4 ∧ full = false ∨ c = .commandChipReset ∧ cause = 5 ∧ s.chip.resetDue = some full ∨
      c = .powerOnReset false ∧ cause = 0 ∧ full = false ∨
      (∃ d, c = .supplyDipTimeout ∧ s.power.dip = some d ∧ cause = d.rail ∧ full = false ∧
        d.began + 10 * Config.cyclesPerMs ≤ s.time.cyc)) →
    ∃ t : State, exec c s = .next t ∧ t.chip.st = .boot ∧ t.chip.cause = cause ∧ t.chip.count = min (s.chip.count + 1) 65535 ∧
      t.chip.fullNext = full ∧ t.chip.profsel = s.chip.profsel ∧ t.chip.slotId = s.chip.slotId ∧
      t.train = State.reset.train ∧ t.aq.jobs = [] ∧ t.aq.journal = s.aq.journal ∧ t.aq.jnext = s.aq.jnext ∧
      t.aq.events = [] ∧ t.flash.suspect = s.flash.suspect ∧ t.flash.prof0 = s.flash.prof0 ∧ t.flash.cper = s.flash.cper ∧
      t.ports = State.reset.ports ∧ t.time.valid = false ∧ t.time.locked = false ∧ t.shift = none ∧ t.snap.hamper = none

/-- Table 17.5, R410, R427, R446, R447: losing VIO clears the journal and starts the reset record over; while PWR_OK is low
the chip is held and its reset record stays; a thermal trip asserts THERMTRIP_N and holds the chip; a pin reset holds it
until RESET_N rises, when the straps are sampled and PROFSEL selects the profile. -/
def Obligations.HeldChipsWait : Prop :=
  ∀ (s : State) (p n : Nat),
    (∃ t : State, exec (.powerOnReset true) s = .next t ∧ t.aq.journal = [] ∧ t.chip.count = 1 ∧ t.chip.cause = 0 ∧
      t.tap = .idcode ∧ t.chip.held = ⟨false, true, false⟩ ∧ t.chip.thermTrip = false) ∧
    (∃ t : State, exec .pwrOkDeassert s = .next t ∧ t.chip.held = ⟨true, s.chip.held.pin, false⟩ ∧ t.chip.st = .boot ∧
      t.chip.cause = s.chip.cause ∧ t.chip.count = s.chip.count ∧ t.aq.journal = s.aq.journal ∧ t.flash.cper = s.flash.cper) ∧
    (∃ t : State, exec .thermalTrip s = .next t ∧ t.chip.thermTrip ∧ t.chip.held.trip) ∧
    (∃ t : State, exec .pinReset s = .next t ∧ t.chip.held = { s.chip.held with pin := true }) ∧
    (s.chip.held.pin → p < 4 → n < 64 → ∃ t : State, exec (.resetNDeassert p n) s = .next t ∧
      t.chip.held = { s.chip.held with pin := false } ∧ t.chip.profsel = p ∧ t.chip.profile = p ∧ t.chip.slotId = n ∧
      (∀ b, s.flash.profile? p = some b → t.plots = plotsOf b) ∧ t.train = s.train ∧ t.mem = s.mem) ∧
    (s.chip.held.pin = false → exec (.resetNDeassert p n) s = .next s)

/-- R411, R421, R389: BOOT sets VCORE over AVSBus and runs the active bank, or the other when its signature alone holds, into
the power-on self-test; a supply that does not follow, or two bad banks, end in HOLD. -/
def Obligations.BootLeadsToSelftestOrHold : Prop :=
  ∀ (s : State) (i : BootInfo) (ok : Nat → Bool) (b : Nat), s.chip.st = .boot → s.chip.held = ⟨false, false, false⟩ →
    ok = (fun n => if n = 0 then i.bank0Ok else i.bank1Ok) →
    b = (if ok s.flash.active then s.flash.active else 1 - s.flash.active) →
    (i.avsAnswers → i.readBackMv ≤ setpointMv + 10 → setpointMv ≤ i.readBackMv + 10 → ok b → ∃ t : State,
      exec (.bootComplete i) s = .next t ∧ t.chip.st = .selftest ∧ t.flash.active = b ∧ t.chip.setpoint = setpointMv ∧
      t.out = s.out ++ [.avs setpointMv] ∧ t.chip.ucode = (nth s.flash.banks b ⟨false, 0, 0⟩).ucode ∧
      t.chip.test = some ⟨0xFF, 2, s.chip.fullNext, 1, false, false, 0, List.range 10⟩) ∧
    (i.avsAnswers = false ∨ setpointMv + 10 < i.readBackMv ∨ i.readBackMv + 10 < setpointMv ∨ ok b = false →
      ∃ t : State, exec (.bootComplete i) s = .next t ∧ t.chip.st = .hold ∧ t.chip.report.step = 0 ∧
        t.chip.report.outcome = 1 ∧ t.chip.setpoint = setpointMv ∧ .avs setpointMv ∈ t.out)

/-- R413 to R415: a dip begins once, on a chip that is not held, with the voltage and the cycle of its crossing, and its rail
counts it; at its end the rail has kept the lowest voltage, and no dip is in progress.

R425, R428, R411: samples: the sensors are read in their order, and readings below every warning level leave the sensors
normal; a power sample sets every rail's voltage, current and power, and adds to the energy. -/
def Obligations.SupplyAndHeatAreWatched : Prop :=
  (∀ (s : State) (v : Bool) (mv : Nat),
    (s.chip.held = ⟨false, false, false⟩ → s.power.dip = none → ∃ (t : State) (d : Dip), exec (.supplyDipBegin v mv) s = .next t ∧
      t.power.dip = some d ∧ d.rail = (if v then 3 else 2) ∧ d.lowest = mv ∧ d.began = s.time.cyc ∧
      t.power.rails = s.power.rails.modify d.rail (fun r => { r with dips := r.dips + 1, lowest := min r.lowest mv }) ∧
      ∀ r, s.train.run = some r → s.chip.st = .ready → s.chip.profile = 0 → s.voted = false →
        t.train.dipStep ∧ t.train.run.map (·.suspectMark) = some true) ∧
    (s.power.dip.isSome → exec (.supplyDipBegin v mv) s = .next s) ∧
    (∀ d, s.power.dip = some d → ∃ t : State, exec (.supplyDipEnd mv) s = .next t ∧ t.power.dip = none ∧
      t.power.rails = s.power.rails.modify d.rail (fun r => { r with lowest := min r.lowest (min d.lowest mv) }))) ∧
  (∀ (s : State) (rs : List Int) (mv ma : List Nat),
    (s.power.sensors.length = 24 → rs.length = 24 → (∀ x ∈ s.power.sensors, x.st = 0) →
      (∀ i r, rs[i]? = some r → r < warnLevel i) → ∃ t : State, exec (.thermalSample rs) s = .next t ∧
        t.power.sensors = List.zipWith (fun (x : Sensor) r => ⟨r, if x.fresh then r else max x.peak r, 0, r, false⟩)
          s.power.sensors rs ∧ t.aq = s.aq ∧ t.plots = s.plots ∧ t.train = s.train) ∧
    (∀ rails, rails = s.power.rails.zipIdx.map (fun x => { x.1 with
        mv := nth mv x.2 0, ma := nth ma x.2 0, mw := nth mv x.2 0 * nth ma x.2 0 / 1000,
        lowest := if s.power.sampled then min x.1.lowest (nth mv x.2 0) else nth mv x.2 0 }) →
      exec (.powerSample mv ma) s = .next ({ s with power := { s.power with
        rails := rails, energy := s.power.energy + (rails.map (·.mw)).sum, sampled := true } } : State)))

/-- R439 to R441: the device comes up once after READY; a completion with an error is tried once more, and its second error
ends the command that it serves; a timeout resets the NVMe controller, and a second one within ten minutes, like a link
that stays down, fails the device. The status field with which a timeout fails commands is a free value (log 4). -/
def Obligations.TheFlashDeviceServesItsCommands : Prop :=
  ∀ (s : State) (status : Nat) (c : Nvme) (rest : List Nvme) (t : State), t = s.onHost (fun h => { h with nvme := rest }) →
    (∀ i : FlashInfo, s.chip.st = .ready → s.host.flState = 1 → exec (.flashInit i) s = .next (s.onHost (fun h => { h with
      flWidth := i.width, flSpeed := i.speed, nsUsable := if i.ok then i.nsUsable % 16 else 0,
      nsLbas := if i.ok then i.nsLbas else [], nvmePairs := if i.ok then min 16 i.granted else 0,
      nvmeEntries := if i.ok then min 1024 (i.mqes + 1) else 0, flState := if i.ok then 2 else if i.width = 0 then 0 else 3 }))) ∧
    (s.host.nvme = c :: rest → status < 32768 →
      (status ≠ 0 → c.retried = false → exec (.nvmeCompletion status) s = .next (t.nvmeIssue { c with retried := true })) ∧
      (status ≠ 0 → c.retried → exec (.nvmeCompletion status) s = .next (t.nvmeFail c status)) ∧
      (status = 0 → c.use_ = 2 → exec (.nvmeCompletion status) s = .next (t.staged c)) ∧
      (status = 0 → c.use_ = 3 ∨ c.use_ = 4 → exec (.nvmeCompletion status) s = .next t) ∧
      (status = 0 → c.use_ < 2 → exec (.nvmeCompletion status) s = .next (t.flashNext.settlePages.hamperEnd))) ∧
    (s.host.nvme ≠ [] → ∀ again : Bool, again = s.host.lastTimeout.any (fun x => decide (s.time.cyc < x + tenMinutes)) →
      exec .nvmeTimeout s = .next (({ s with
        out := s.out ++ [.nvmeReset], free := s.free + 1,
        host := { s.host with lastTimeout := some s.time.cyc, flState := if again then 3 else s.host.flState } } :
          State).failAllNvme (if again then flashDead else Config.freeNat s.free % 32768))) ∧
    (s.host.flState ≠ 0 → exec (.flashLinkDown false) s = .next ((s.onHost (fun h => { h with
      flState := 3, flWidth := 0, flSpeed := 0 })).failAllNvme flashDead)) ∧
    exec (.flashLinkDown true) s = .next s

/-- R431, R419, R391: a reset of the host link is a controller reset: the controller restarts from the active bank, and no hamper
is left; a function-level reset of a VF stops its queue pair, and aborts its copy queue: a copy in progress ends with a status
of its own, and the queue is STOPPED once no entry is left (R175).

R447: TRST selects IDCODE; EXTEST, SAMPLE and INTEST act only while RESET_N is low, and whatever else is BYPASS; IDCODE
captures 0x15900B9F. -/
def Obligations.HostResetsAndTheTapAct : Prop :=
  (∀ (s : State) (vf : Nat), (∃ t : State, exec .hostLinkReset s = .next t ∧ t.chip.restart = some (s.flash.active, false) ∧
      t.snap.hamper = none ∧ t.chip.st = s.chip.st ∧ t.time.valid = s.time.valid) ∧
    (1 ≤ vf → vf ≤ 4 → vf < s.dma.queues.length → s.aq.pairs.length = 8 → ∃ t : State, exec (.vfFlr vf) s = .next t ∧
      (t.pair (3 + vf)).running = false ∧ (∀ n, n ≠ 3 + vf → t.pair n = s.pair n) ∧
      ((s.dmaQ vf).st = 1 ∨ (s.dmaQ vf).st = 2 →
        (s.copyJob? vf = none → (t.dmaQ vf).st = if (s.dmaQ vf).head = (s.dmaQ vf).tail then 0 else 3) ∧
        (∀ j, s.copyJob? vf = some j → (t.dmaQ vf).st = 3 ∧ ∃ i, t.copyJob? vf = some i ∧ i.entry = j.entry ∧
          i.status ≠ stDone)))) ∧
  (∀ (s : State) (i : TapInstr),
    exec (.tapInstruction i true) s = .next ({ s with tap := .idcode, out := s.out ++ [.tap 1 0x15900B9F] } : State) ∧
    exec (.tapInstruction .idcode false) s = .next ({ s with tap := .idcode, out := s.out ++ [.tap 1 0x15900B9F] } : State) ∧
    (i ∈ [.extest, .sample, .intest] → s.chip.held.pin →
      exec (.tapInstruction i false) s = .next ({ s with tap := i, out := s.out ++ [.tap 2 0] } : State)) ∧
    (i ≠ .idcode → i ∉ [.extest, .sample, .intest] ∨ s.chip.held.pin = false →
      exec (.tapInstruction i false) s = .next ({ s with tap := .bypass, out := s.out ++ [.tap 0 0] } : State)))

/-- The invariant holds right after reset. -/
def Obligations.ResetHasTheInvariant : Prop :=
  State.reset.Inv

/-- Every step keeps the invariant: the fabric cycle stays within its tick (R28), the event log and the journal within what
the chip keeps (R386, R387), and HBM and every tile's SRAM in the one canonical form of a memory (log 6). -/
def Obligations.EveryStepKeepsTheInvariant : Prop :=
  ∀ s t : State, s.Inv → step s = .next t → t.Inv

/-- A command leaves the queue alone and takes back nothing of what the chip has sent out (log 3), and no command is refused. -/
def Obligations.CommandsKeepTheQueueAndWhatWasSent : Prop :=
  ∀ (i : Instr) (s : State), (∀ t, exec i s = .next t → t.pending = s.pending ∧ s.out <+: t.out) ∧
    ∀ r, exec i s ≠ .refused r

/-- On an empty queue a step is one core cycle (log 2, DESIGN CHOICE: the manual has no such command): the free-running counter
counts, and while VALID is set the cycle index runs from 0 to 1,023 within each tick (R28, R34); a final vote word that is
due is written, and decides the run (R293, R295). -/
def Obligations.AnEmptyQueueIsOneCycle : Prop :=
  ∀ s : State, s.pending = [] → ∃ t : State, step s = .next t ∧ t.time.cyc = s.time.cyc + 1 ∧ t.mem = s.mem ∧
    (s.train.run.bind (·.due) = none → t.train = s.train ∧ t.aq = s.aq ∧ t.out = s.out) ∧
    (∀ r w at_, s.train.run = some r → r.due = some (w, at_, false) → r.passed = none → at_ ≤ t.fabricCycle →
      ∃ q, t.train.run = some q ∧ q.due = none ∧ q.final = some w ∧ q.passed = some (s.votePasses w)) ∧
    (s.time.valid = false → t.time.tick = s.time.tick ∧ t.time.cycle = s.time.cycle) ∧
    (s.time.valid → s.time.cycle < 1023 → t.time.tick = s.time.tick ∧ t.time.cycle = s.time.cycle + 1) ∧
    (s.time.valid → s.time.cycle = 1023 → t.time.tick = s.time.tick + 1 ∧ t.time.cycle = 0)

/-- R361, R365, R367, R368 steps 1 and 3, R370, R387: a command slot always answers a next state; a pair's slot that cannot be
taken changes nothing; one of the sideband waits among at most four, and a fifth completes BUSY; one whose CRC is wrong
completes BAD_PARAM with the detail of R368, journaled; one whose opcode the table does not have completes BAD_OPCODE,
journaled; and the source remembers neither of the two. -/
def Obligations.SlotsAnswerOrWait : Prop :=
  (∀ (i : Instr) (c : Slot) (s : State), slotOf i = some c → (∃ t, exec i s = .next t) ∧
    (∀ n, c.src = .pair n → s.takeable c = false → exec i s = .next s) ∧
    (∀ e, c.src = .endpoint e → (∀ op d, i ≠ .badOpcode op d) →
      (s.takeable c = false → s.aq.eid.isNone ∨ (∃ t, (c, t) ∈ s.aq.arrived) → exec i s = .next s) ∧
      (s.takeable c = false → s.aq.eid.isSome → (∀ t, (c, t) ∉ s.aq.arrived) →
        (s.sidebandBusy = false → exec i s = .next (s.onAq (fun a => { a with arrived := a.arrived ++ [(c, s.time.cyc)] }))) ∧
        (s.sidebandBusy → s.chip.st ≠ .boot → s.chip.restart = none → exec i s =
          .next (s.emit (.sideband e 2 (⟨c.tag.toNat, stBusy, 0, 0, s.fabric, 0⟩ : Completion).bytes)))) ∧
      (s.takeable c → (s.take c).sidebandBusy → exec i s =
        .next ((s.take c).emit (.sideband e 2 (⟨c.tag.toNat, stBusy, 0, 0, s.fabric, 0⟩ : Completion).bytes))))) ∧
  (∀ (op : W16) (c : Slot) (s u : State), s.takeable c → u = s.take c →
    (∀ e, c.src = .endpoint e → u.sidebandBusy = false) →
    ∀ m : Nat → Completion, m = (fun st => ⟨c.tag.toNat, st, if st = stBadParam then 0x8000001C else 0, 0, u.fabric,
      u.aq.jnext % 2 ^ 32⟩) →
    (crcOk c op.toNat = false → exec (.badOpcode op c) s = .next ((u.journal op.toNat stBadParam 2 c).deliver c
      (u.srcGen c.src) (m stBadParam))) ∧
    (crcOk c op.toNat → c.flags &&& 0xFC = 0 → op.toNat ∉ tableOpcodes →
      exec (.badOpcode op c) s = .next ((u.journal op.toNat stBadOpcode 0 c).deliver c (u.srcGen c.src) (m stBadOpcode))))

/-- R383, R360 to R363, R171 to R175, R262, R403, R365, R431: each of these commands completes with its own effect, on every state
and operands that meet the conditions named here, which are conditions on them alone. -/
def Obligations.CommandsCompleteOnConditionsOfTheirOwn : Prop :=
  ∀ s : State,
    (∀ c, Sound s 0x0102 .chip c anywhere → Clean c [(0, 32)] [] → c.extLen = 0 → ∃ detail, exec (.getState c) s =
      .next ((s.taken c).reply 0x0102 c stDone detail (if s.chip.profile = 0 then s.train.committed else 2 ^ 64 - 1))) ∧
    (∀ n, n ≤ 7 → n < s.aq.pairs.length →
      ((s.pair n).running = false → s.pairExists n → (s.pair n).valid →
        ∃ t, exec (.mgtQueueEnable n) s = .next t ∧ (t.pair n).running ∧ (t.pair n).sqHead = 0 ∧ (t.pair n).cqTail = 0) ∧
      ((s.pair n).running → (∃ t, exec (.mgtQueueDisable n) s = .next t ∧ (t.pair n).running = false) ∧
        (∀ v : W32, v.toNat < (s.pair n).sqSize.toNat → (s.pair n).visible.length + (v.toNat + (s.pair n).sqSize.toNat
            - (s.pair n).sqTail.toNat) % (s.pair n).sqSize.toNat ≤ (s.pair n).sqSize.toNat - 1 →
          ∃ t, exec (.mgtSqtailDoorbell n v true) s = .next t ∧ (t.pair n).sqTail = v) ∧
        (∀ v : W32, v.toNat < (s.pair n).cqSize.toNat → (v.toNat + (s.pair n).cqSize.toNat - (s.pair n).cqHead.toNat)
            % (s.pair n).cqSize.toNat ≤ ((s.pair n).cqTail.toNat + (s.pair n).cqSize.toNat - (s.pair n).cqHead.toNat)
            % (s.pair n).cqSize.toNat → ∃ t, exec (.mgtCqheadWrite n v) s = .next t ∧ (t.pair n).cqHead = v) ∧
        (∀ w rest, (s.pair n).waiting = w :: rest → 0 < (s.pair n).ringFree →
          ∃ t, exec (.completionWrite n true) s = .next t ∧ (t.pair n).waiting = rest ∧
            .hostWrite (if n ≤ 3 then 0 else n - 3) ((s.pair n).cqBase.toNat + 32 * (s.pair n).cqTail.toNat) w.entry.bytes
              ∈ t.out))) ∧
    (∀ q k, q ≤ 4 → q < s.dma.queues.length → s.queuePlot q = some k →
      ((s.dmaQ q).st = 0 → ∃ t, exec (.dmaQueueEnable q) s = .next t ∧ (t.dmaQ q).st = 1 ∧ (t.dmaQ q).head = 0) ∧
      (∀ j, s.copyJob? q = some j → j.status = stDone → j.entry.b ≤ j.bytes →
        ∃ t, exec (.hostCopyComplete q none true) s = .next t ∧ t.copyJob? q = none) ∧
      ((s.dmaQ q).st = 1 → (s.dmaQ q).head ≠ (s.dmaQ q).tail →
        (∀ v : W32, v.toNat < (s.dmaQ q).size.toNat →
          ∃ t, exec (.dmaQtailDoorbell q v) s = .next t ∧ (t.dmaQ q).tail = v) ∧
        (∃ t, exec (.dmaQueueDrain q) s = .next t ∧ (t.dmaQ q).st = 2 ∧ (t.dmaQ q).drainTo = (s.dmaQ q).tail) ∧
        (∀ n, s.copyJob? q = none → ∃ t, exec (.dmaQueueAbort q n) s = .next t ∧ (t.dmaQ q).st = 3) ∧
        (∀ e, s.copyJob? q = none → s.copyWaits k e = false → entryBad s k e = false → e.kind ≠ 1 →
          (e.kind = 3 ∨ s.hostMayWrite k e.dst (copySpans e).2) → ∃ t, exec (.hostCopyEntryStart q ⟨some e, true⟩) s = .next t ∧
            t.copyJob? q = some ⟨e, 0, stDone, []⟩))) ∧
    ((s.dma.send.st = 0 → ∃ t, exec .sendQueueEnable s = .next t ∧ t.dma.send.st = 1) ∧
      (s.dma.send.st = 1 → s.dma.send.head ≠ s.dma.send.tail →
        (∀ v : W32, v.toNat < s.dma.send.size.toNat → ∃ t, exec (.sendQtailDoorbell v) s = .next t ∧ t.dma.send.tail = v) ∧
        (∃ t, exec .sendQueueDrain s = .next t ∧ t.dma.send.st = 2) ∧
        (s.dma.sendJobs = [] → ∃ t, exec .sendQueueAbort s = .next t ∧ t.dma.send.st = 3) ∧
        (∀ e ok, s.dma.sendJobs.length < 256 → s.bgp.streams.length < 4096 → s.planeOn → s.sendBad e = false →
          ∃ t, exec (.sendEntryStart ⟨some e, ok⟩) s = .next t ∧
            t.dma.sendJobs = s.dma.sendJobs ++ [(s.dma.sendNext, e)]))) ∧
    (∀ fn k count p, 1 ≤ fn → fn ≤ 4 → s.spaceOf fn = some k → s.plots[k]? = some p → p.st = .running →
      p.pending + count ≤ 65535 → ∃ t, exec (.hstPassPost fn count) s = .next t ∧ t.plots[k]? = some { p with
        pending := p.pending + count, posts := p.posts ++ List.replicate count (p.time / 1024) }) ∧
    (∀ eid off n, s.aq.eid.isSome → 1 ≤ n → n ≤ 1024 → off + n ≤ 65536 → ∃ data : List Byte, data.length = n ∧
      exec (.bufRead eid off n) s = .next (s.emit (.sideband eid 5 (leBytes 4 off ++ leBytes 2 n ++ zeros 2 ++ data)))) ∧
    (∀ vf, 1 ≤ vf → vf ≤ 4 → 3 + vf < s.aq.pairs.length → ∃ t, exec (.vfFlr vf) s = .next t ∧
      (t.pair (3 + vf)).running = false)

/-- Frames of the command slots: whatever becomes of the slot, these commands change nothing but the controller's tables
and rings, what is sent out, and the parts named for each. -/
def Obligations.SlotCommandsChangeOnlyTheirParts : Prop :=
  ∀ (c : Slot) (p : Option (List Byte)) (i : Instr) (s t : State), exec i s = .next t →
    (i ∈ [.getInfo c, .getState c, .readSelftest c, .readProfile c, .linkState c, .readEvents c, .readCper c, .readJournal c,
        .setProfile c, .writeProfile c, .arm c] → t = { s with aq := t.aq, out := t.out }) ∧
    (i ∈ [.readPower c, .readThermal c] → t = { s with aq := t.aq, out := t.out, power := t.power }) ∧
    (i ∈ [.loadImage c p, .start c, .stop c, .setPolicy c, .audit c] →
      t = { s with aq := t.aq, out := t.out, train := t.train }) ∧
    (i = .selectVariant c → t = { s with aq := t.aq, out := t.out, train := t.train, snap := t.snap, host := t.host, bgp := t.bgp }
      ∧ (s.snap.hamper.any (·.draining) = false → t = { s with aq := t.aq, out := t.out, train := t.train })) ∧
    (i = .setCoord c → t = { s with aq := t.aq, out := t.out, place := t.place }) ∧
    (i = .setSluice c → t = { s with aq := t.aq, out := t.out, bgp := t.bgp }) ∧
    (i = .timeArm c → t = { s with aq := t.aq, out := t.out, time := t.time, ports := t.ports }) ∧
    (i = .runVectors c → t = { s with aq := t.aq, out := t.out, vec := t.vec }) ∧
    (i = .plotReconfig c p → t = { s with aq := t.aq, out := t.out, plots := t.plots }) ∧
    (i = .fwStage c → t = { s with aq := t.aq, out := t.out, flash := t.flash }) ∧
    (i = .fwActivate c → t = { s with aq := t.aq, out := t.out, flash := t.flash, chip := t.chip }) ∧
    (i = .runSelftest c → t = { s with aq := t.aq, out := t.out, chip := t.chip, ports := t.ports }) ∧
    (i = .hamperRestore c → t = { s with aq := t.aq, out := t.out, host := t.host })

/-- Frames of the registers and of time: these commands change nothing but the parts named for each; a queue pair's registers
reach that pair's alone, and a refresh reaches no byte of memory. -/
def Obligations.RegisterCommandsChangeOnlyTheirParts : Prop :=
  ∀ (n : Nat) (v : W32) (b : Bool) (i : Instr) (s t : State), exec i s = .next t →
    (i ∈ [.mgtQueueEnable n, .mgtQueueDisable n, .mgtSqtailDoorbell n v b, .mgtCqheadWrite n v] →
      t = { s with aq := t.aq } ∧ t.aq.journal = s.aq.journal ∧ t.aq.events = s.aq.events ∧ t.aq.jobs = s.aq.jobs ∧
        ∀ k, k ≠ n → t.pair k = s.pair k) ∧
    (i ∈ [.dmaQueueEnable n, .dmaQueueDrain n, .dmaQtailDoorbell n v, .sendQueueEnable, .sendQueueDrain, .sendQtailDoorbell v] →
      t = { s with dma := t.dma }) ∧
    (i = .timNowLoRead n → t = { s with time := t.time, out := t.out }) ∧
    (i ∈ [.hstEventSeqLoRead n, .hstJournalSeqLoRead n] → t = { s with host := t.host, out := t.out }) ∧
    (i = .corePllLock → s.time.pll ≠ .holdover → t = { s with time := t.time }) ∧
    (i = .epochCheckSend → t = { s with time := t.time, ports := t.ports }) ∧
    (i = .hstPassPost n v.toNat → t = { s with plots := t.plots }) ∧
    (i ∈ [.hbmRefreshWindow n, .hbmControllerRefresh n] → t = { s with mem := t.mem } ∧ t.mem.hbm = s.mem.hbm ∧
      t.mem.tiles = s.mem.tiles ∧ t.mem.residual = s.mem.residual) ∧
    (∀ m k, i = .descriptorFetch m k n → t.mem.tiles.map (·.sram) = s.mem.tiles.map (·.sram) ∧
      t.mem.tiles.map (·.banks) = s.mem.tiles.map (·.banks) ∧ t.mem.residual = s.mem.residual ∧
      (s.chip.profile ≠ 0 → t = { s with mem := t.mem } ∧ t.mem.hbm = s.mem.hbm ∧ t.mem.hstacks = s.mem.hstacks)) ∧
    (∀ m k, i = .powerSample m k → t = { s with power := t.power }) ∧
    (∀ x, i = .tapInstruction x b → t = { s with tap := t.tap, out := t.out })

/-- Table 11.1: a packet's header with every field at any value that fits is read back as it was written, and passes its own
check where its class and its length are legal. -/
def Obligations.PacketHeadersRoundTrip : Prop :=
  ∀ (h : PktHead) (b : List Byte), h.dst < 2 ^ 20 → h.src < 2 ^ 20 → h.cls < 256 → h.stream < 2 ^ 16 → h.seq < 2 ^ 24 →
    h.index < 2 ^ 24 → h.total < 2 ^ 24 → h.addr < 2 ^ 48 → h.len < 256 → h.flags < 16 → h.age < 1024 → h.hops < 1024 →
    h.epoch < 256 → headOf (packet h b) = h ∧ (h.cls ≤ 4 → h.len ≤ 224 → headOk (packet h b)) ∧
      payloadOf (packet h b) = slice b 0 224 ∧ (packet h b).length = 256

/-- R87: on 2, 4 or 8 stacks the stack of a data address is the XOR of the digits of its group index in base k, and the
rest of the group index is its place in the stack, whose channel is the XOR of the digits in base 32; the map is one-to-one,
and each aligned run of k groups (32 groups of a stack) covers each stack (each channel) once. Address 0x2400 is the check. -/
def Obligations.PlacesOfDataAddressesAreOneToOne : Prop :=
  (∀ (k : Nat) (ks : List Nat), k = 2 ∨ k = 4 ∨ k = 8 → ks.length = k → ks.Nodup → (∀ x ∈ ks, x < 8) →
    (∀ a, a < hbmBytes ks → place a k = (xorDigits k 64 (a / 1024), a / 1024 / k, a % 1024) ∧
      hbmKey ks a = (nth ks (place a k).1 0 * Config.groupsPerStack + (place a k).2.1) * 1024 + (place a k).2.2) ∧
    (∀ a b, a < hbmBytes ks → b < hbmBytes ks → hbmKey ks a = hbmKey ks b → a = b) ∧
    (∀ g, k ∣ g → ∀ s, s < k → ∃ i, i < k ∧ (place (1024 * (g + i)) k).1 = s ∧
      ∀ j, j < k → (place (1024 * (g + j)) k).1 = s → j = i)) ∧
  (∀ q, 32 ∣ q → ∀ c, c < 32 → ∃ i, i < 32 ∧ channelOf (q + i) = c ∧ ∀ j, j < 32 → channelOf (q + j) = c → j = i) ∧
  (∀ k x, k = 2 ∨ k = 4 ∨ k = 8 ∨ k = 32 → x < 2 ^ 64 →
    xorDigits k 64 x = if x = 0 then 0 else (x % k) ^^^ xorDigits k 64 (x / k)) ∧
  place 0x2400 8 = (0, 1, 0) ∧ channelOf 1 = 1

/-- R301, R302: an error of any value in any one byte of a codeword, check bytes among them, is corrected: a read delivers
the 64 data bytes that were written. -/
def Obligations.OneByteErrorsAreCorrected : Prop :=
  ∀ (m : Mem) (cw i : Nat) (v : Byte), i < 68 → v ≠ 0 → m.errOf cw = errAt i v →
    m.caseOf cw = .corrected (errAt i v) ∧ m.deliver cw = m.datas (64 * cw) 64

/-- R304, R302, R74, R306: a write of a whole codeword replaces any poison mark; one of fewer bytes into a poisoned codeword
changes nothing; into a correctable one it merges with the corrected data; into an uncorrectable one it writes no data
bytes and leaves the found pattern. -/
def Obligations.PartialWritesKeepPoison : Prop :=
  ∀ (m t : Mem) (cw : Nat) (x : Seen) (p : List (Option TByte)), p.length = 64 → (∀ b, some b ∈ p → b.2 = false) →
    m.storeCw cw p = (t, x) →
    ((∀ o ∈ p, o.isSome) → t.caseOf cw = .good ∧ t.deliver cw = p.map (fun o => (o.getD (0, false)).1)) ∧
    (none ∈ p →
      (m.caseOf cw = .found ∨ m.caseOf cw = .carried → t = m) ∧
      ((m.caseOf cw = .good ∨ ∃ e, m.caseOf cw = .corrected e) → t.caseOf cw = .good ∧
        t.deliver cw = List.zipWith (fun o d => (o.map (·.1)).getD d) p (m.deliver cw)) ∧
      (m.caseOf cw = .uncorrectable → t.caseOf cw = .found ∧ x.uncorrectable = [cw] ∧
        t.datas (64 * cw) 64 = m.deliver cw)) ∧
    (∀ c, c ≠ cw → t.caseOf c = m.caseOf c ∧ t.deliver c = m.deliver c)

/-- The values that the manual publishes: Table 6.3 (R136), Table 13.3 (R301) and Table 12.7 (R279). -/
def Obligations.PublishedValuesComeOut : Prop :=
  gen ⟨1, 3, 0x42⟩ 0 0 32 64 9 = 0x68CC ∧ gen ⟨1, 3, 0x42⟩ 1 0 32 65 9 = 0xB989 ∧ gen ⟨1, 3, 0x42⟩ 0 1 32 64 9 = 0x646E ∧
    checkBytes (zeros 64) = [0, 0, 0, 0] ∧ checkBytes (zeros 63 ++ [1]) = [0x0F, 0x36, 0x78, 0x40] ∧
    checkBytes (zeros 62 ++ [1, 0]) = [0x63, 0x57, 0xD2, 0xE7] ∧
    elemDigest [7, -2, 100, 0] = 105 ∧ elemDigest [-10, 4, 1, 1] = 2305843009213693947 ∧
    elemDigest [1, 1, 1, -200] = 2305843009213693754 ∧ elemDigest [-2, 3, 102, -199] = 2305843009213693855 ∧
    elemDigest [-2, 3, 102 + 2 ^ 40, -199] = 1099511627680
end

