-- ==== Sys2Proof/Laws/Aqvel.lean ====
section
/-! SUPPORT. What the shared paths do when nothing stops them: a sound command slot reaches its opcode's own part, and a
descriptor that runs now takes its effect. -/
namespace Sys2Proof.Machine

@[simp] theorem State.take_chip (s : State) (c : Slot) : (s.take c).chip = s.chip := by
  unfold State.take
  split <;> rfl

@[simp] theorem State.take_plots (s : State) (c : Slot) : (s.take c).plots = s.plots := by
  unfold State.take
  split <;> rfl

@[simp] theorem State.take_memory (s : State) (c : Slot) : (s.take c).aq.memory = s.aq.memory := by
  unfold State.take
  split <;> rfl

@[simp] theorem State.take_jobs (s : State) (c : Slot) : (s.take c).aq.jobs = s.aq.jobs := by
  unfold State.take
  split <;> rfl

/-- A slot that is sound for its opcode reaches the opcode's own part on the taken state, and what that answers is posted. -/
theorem aqvel_sound {opcode : Nat} {extOk : State → Slot → Bool} {kind : TargetKind} {allowed : State → Slot → Bool}
    {body : State → Slot → Reply} {c : Slot} {s : State}
    (h : Sound s opcode kind c (fun u => allowed u c) = true) (he : extOk (s.take c) c = true) :
    aqvel opcode extOk kind allowed body c s =
      .next ((s.taken c).answer opcode c (body (s.taken c) c)) := by
  simp only [Sound, Bool.and_eq_true] at h
  obtain ⟨⟨⟨⟨⟨⟨⟨⟨⟨h1, h2⟩, h3⟩, h4⟩, h5⟩, h6⟩, h7⟩, h8⟩, h9⟩, h10⟩ := h
  have hb : ∀ e, c.src = .endpoint e → (s.take c).sidebandBusy = false := by
    intro e hc
    rw [hc] at h2
    simpa using h2
  have hx : (s.taken c).execute opcode c allowed body = (s.taken c).answer opcode c (body (s.taken c) c) := by
    unfold State.execute
    unfold State.permits at h9
    have hn := Option.isNone_iff_eq_none.1 h10
    rw [hn]
    revert h9
    cases (s.taken c).chip.st <;> intro h9 <;> simp_all
  have hs : (s.take c).sequenced opcode c (s.waited c) (fun t => t.execute opcode c allowed body) =
      (s.taken c).answer opcode c (body (s.taken c) c) := by
    unfold State.sequenced
    have hl : (c.deadline.toNat != 0 && decide (c.deadline.toNat ≤ s.waited c)) = false := by
      rw [Bool.or_eq_true] at h8
      rcases h8 with h | h
      · have : c.deadline = 0 := by simpa using h
        simp [this]
      · have : s.waited c < c.deadline.toNat := by simpa using h
        simp
        omega
    simp only [hl]
    by_cases hz : c.seq = 0
    · have ht : s.taken c = s.take c := by simp [State.taken, State.rememberSeq, hz]
      rw [ht] at hx
      simp [hz, hx, ht]
    · have hz' : (c.seq == 0) = false := by simpa using hz
      simp only [hz']
      have hm : (s.take c).memoryOf c.src = s.memoryOf c.src := by simp [State.memoryOf]
      rw [hm]
      unfold State.freshSeq at h7
      simp only [hz', Bool.false_or] at h7
      cases e : s.memoryOf c.src with
      | none => exact hx
      | some r =>
        rw [e] at h7
        simp only [Bool.and_eq_true] at h7
        have e1 : (r.seq == c.seq.toNat) = false := by simpa using h7.1
        simp only [e1, h7.2]
        exact hx
  have hk : (s.take c).checked opcode c (fun t =>
      if c.inlineLen != 32 then t.reject opcode c stBadLength 6 0 (isJournaled opcode c)
      else if !extOk t c then t.reject opcode c stBadLength 16 0 (isJournaled opcode c)
      else if !targetOk t kind c.target.toNat then t.reject opcode c stBadTarget 4 0 (isJournaled opcode c)
      else t.sequenced opcode c (s.waited c) (fun t => t.execute opcode c allowed body)) =
      (s.taken c).answer opcode c (body (s.taken c) c) := by
    unfold State.checked
    have e4 : (c.flags &&& 0xFC != 0) = false := by simpa using h4
    have e5 : (c.inlineLen != 32) = false := by simpa using h5
    simp only [h3, e4, e5, he, h6]
    exact hs
  unfold aqvel
  simp only [h1]
  rw [← hk]
  cases hc : c.src with
  | pair n => rfl
  | endpoint e =>
    rw [hb e hc]
    rfl

/-- The same with the state asked for under its own name, and with what the opcode's own part answers. -/
theorem aqvel_answers {opcode : Nat} {extOk : State → Slot → Bool} {kind : TargetKind} {allowed : State → Slot → Bool}
    {body : State → Slot → Reply} {c : Slot} {s u : State} {ok : State → Bool} {r : Reply} (hu : u = s.taken c)
    (h : Sound s opcode kind c ok = true) (ho : ∀ t, ok t = allowed t c) (he : extOk (s.take c) c = true) (hr : body u c = r) :
    aqvel opcode extOk kind allowed body c s = .next (u.answer opcode c r) := by
  obtain rfl : ok = fun t => allowed t c := funext ho
  subst hu
  rw [aqvel_sound h he, hr]

/-- A clean slot reaches its opcode's own checks. -/
theorem guarded_clean {c : Slot} {l m : List (Nat × Nat)} {k : Unit → Reply} (h : Clean c l m = true) :
    guarded c l m k = k () := by
  simp only [Clean, Bool.and_eq_true, Option.isNone_iff_eq_none] at h
  simp [guarded, h.1.1, h.1.2, h.2]

/-- A reachable extended buffer is written. -/
theorem writesExt_reaches {s : State} {c : Slot} {bs : List Byte} {k : State → Reply} (h : s.reaches c = true) :
    writesExt s c bs k = k (s.extWrite c bs) := by
  obtain ⟨b, hb⟩ := Option.isSome_iff_exists.1 h
  simp [writesExt, hb]

/-- A readable extended buffer is read. -/
theorem readsExt_some {s : State} {c : Slot} {k : List Byte → Reply} {b : List Byte} (h : s.extBytes c = some b) :
    readsExt s c k = k b := by
  simp [readsExt, h]

/-- A descriptor that runs now takes its effect, then its arithmetic checks are judged. -/
theorem runDesc_runs {s : State} {x : At} {h : DHead} {o : Op} {eff : Dc → State → State} {d : Dc}
    (r : s.runs x h o = some d) :
    s.runDesc x h o eff = .next (((s.struck d x.hw).withRecord d o eff).arithFaults d o x.hw) := by
  unfold State.runs at r
  unfold State.runDesc
  cases hp : s.plot? x.plot with
  | none => rw [hp] at r; cases r
  | some p =>
    rw [hp] at r
    dsimp only at r ⊢
    by_cases ht : 16 * p.clusters.length ≤ x.tile
    · rw [if_pos ht] at r; cases r
    · rw [if_neg ht] at r ⊢
      cases hg : s.gate x h o p with
      | none => rw [hg] at r; cases r
      | some e =>
        rw [hg] at r
        dsimp only at r ⊢
        cases hb : opBad (s.descCtx x.plot e.update) h o with
        | some v => rw [hb] at r; cases r
        | none =>
          rw [hb] at r
          dsimp only [Option.isSome] at r ⊢
          rw [if_neg (by decide)] at r
          split at r
          · cases r
          · rename_i hn
            rw [if_neg hn]
            cases r
            rfl

end Sys2Proof.Machine
end

