-- ==== Sys2Proof/Laws/Mem.lean ====
section
/-! SUPPORT. The laws of the memories: the canonical form is kept by every memory operation, a byte written reads back as
written, and every other byte reads as before. -/
namespace Sys2Proof.Machine

/-! ### Cell lists -/

theorem cellsRising_iff (l : List Host.Cell) : cellsRising l = true ↔ l.Pairwise (fun a b => a.1 < b.1) := by
  induction l with
  | nil => simp [cellsRising]
  | cons a l ih =>
    cases l with
    | nil => simp [cellsRising]
    | cons b l =>
      rw [cellsRising, Bool.and_eq_true, decide_eq_true_eq, ih, List.pairwise_cons (a := a)]
      constructor
      · rintro ⟨h, p⟩
        refine ⟨fun c hc => ?_, p⟩
        rcases List.mem_cons.1 hc with rfl | hc
        · exact h
        · exact lt_trans h ((List.pairwise_cons.1 p).1 c hc)
      · rintro ⟨h, p⟩
        exact ⟨h b (by simp), p⟩

theorem cellDel_rising {l : List Host.Cell} (h : cellsRising l = true) (a : Nat) : cellsRising (cellDel l a) = true := by
  rw [cellsRising_iff] at *
  exact h.sublist List.filter_sublist

theorem mem_cellPut {l : List Host.Cell} {a : Nat} {v : Byte} {c : Host.Cell} (h : c ∈ cellPut l a v) :
    c = (a, v) ∨ c ∈ l := by
  induction l with
  | nil => simpa [cellPut] using h
  | cons d l ih =>
    simp only [cellPut] at h
    split at h
    · simpa using h
    · split at h
      · rcases List.mem_cons.1 h with h | h
        · exact .inl h
        · exact .inr (List.mem_cons_of_mem _ h)
      · rcases List.mem_cons.1 h with h | h
        · exact .inr (by simp [h])
        · exact (ih h).imp id (List.mem_cons_of_mem _)

theorem cellPut_rising {l : List Host.Cell} (h : cellsRising l = true) (a : Nat) (v : Byte) :
    cellsRising (cellPut l a v) = true := by
  rw [cellsRising_iff] at *
  induction l with
  | nil => simp [cellPut]
  | cons d l ih =>
    obtain ⟨hd, hl⟩ := List.pairwise_cons.1 h
    simp only [cellPut]
    split
    · rename_i hlt
      refine List.pairwise_cons.2 ⟨fun c hc => ?_, h⟩
      rcases List.mem_cons.1 hc with rfl | hc
      · exact hlt
      · exact lt_trans hlt (hd c hc)
    · split
      · rename_i heq
        exact List.pairwise_cons.2 ⟨fun c hc => by rw [heq]; exact hd c hc, hl⟩
      · rename_i h1 h2
        refine List.pairwise_cons.2 ⟨fun c hc => ?_, ih hl⟩
        rcases mem_cellPut hc with rfl | hc
        · exact lt_of_le_of_ne (Nat.le_of_not_lt h1) (fun e => h2 e.symm)
        · exact hd c hc

theorem cellGet_put_same (l : List Host.Cell) (a : Nat) (v : Byte) : cellGet (cellPut l a v) a = some v := by
  induction l with
  | nil => simp [cellPut, cellGet]
  | cons d l ih =>
    simp only [cellPut]
    split
    · simp [cellGet]
    · split
      · simp [cellGet]
      · rename_i h1 h2
        have : d.1 ≠ a := fun e => h2 e.symm
        simp [cellGet, this, ih]

theorem cellGet_put_other (l : List Host.Cell) {a b : Nat} (v : Byte) (h : b ≠ a) :
    cellGet (cellPut l a v) b = cellGet l b := by
  have h' : a ≠ b := fun e => h e.symm
  induction l with
  | nil => simp [cellPut, cellGet, h']
  | cons d l ih =>
    simp only [cellPut]
    split
    · simp [cellGet, h']
    · split
      · rename_i h1 h2
        have : d.1 ≠ b := fun e => h (by rw [h2, e])
        simp [cellGet, h', this]
      · simp [cellGet, ih]

theorem cellDel_cons (d : Host.Cell) (l : List Host.Cell) (a : Nat) :
    cellDel (d :: l) a = if d.1 = a then cellDel l a else d :: cellDel l a := by
  unfold cellDel
  rw [List.filter_cons]
  by_cases h : d.1 = a <;> simp [h]

theorem cellGet_del_same (l : List Host.Cell) (a : Nat) : cellGet (cellDel l a) a = none := by
  induction l with
  | nil => rfl
  | cons d l ih =>
    rw [cellDel_cons]
    split
    · exact ih
    · rename_i h
      simp [cellGet, h, ih]

theorem cellGet_del_other (l : List Host.Cell) {a b : Nat} (h : b ≠ a) : cellGet (cellDel l a) b = cellGet l b := by
  induction l with
  | nil => rfl
  | cons d l ih =>
    rw [cellDel_cons]
    split
    · rename_i h1
      have h2 : d.1 ≠ b := fun e => h (by rw [← e, h1])
      simp [cellGet, h2, ih]
    · simp [cellGet, ih]

/-! ### Bytes -/

@[simp] theorem Mem.putData_err (m : Mem) (a : Nat) (v : Byte) : (m.putData a v).err = m.err := rfl
@[simp] theorem Mem.putData_bg (m : Mem) (a : Nat) (v : Byte) : (m.putData a v).bg = m.bg := rfl
@[simp] theorem Mem.putErr_cells (m : Mem) (a : Nat) (v : Byte) : (m.putErr a v).cells = m.cells := rfl
@[simp] theorem Mem.putErr_bg (m : Mem) (a : Nat) (v : Byte) : (m.putErr a v).bg = m.bg := rfl

/-- A data byte written reads back as written. -/
@[simp] theorem Mem.data_putData_same (m : Mem) (a : Nat) (v : Byte) : (m.putData a v).data a = v := by
  unfold Mem.data Mem.putData
  split <;> simp_all [cellGet_del_same, cellGet_put_same]

/-- Every other data byte is as before. -/
theorem Mem.data_putData_other (m : Mem) {a b : Nat} (v : Byte) (h : b ≠ a) : (m.putData a v).data b = m.data b := by
  unfold Mem.data Mem.putData
  split <;> simp [cellGet_del_other _ h, cellGet_put_other _ _ h]

/-- An error byte written reads back as written. -/
@[simp] theorem Mem.errB_putErr_same (m : Mem) (k : Nat) (v : Byte) : (m.putErr k v).errB k = v := by
  unfold Mem.errB Mem.putErr
  split <;> simp_all [cellGet_del_same, cellGet_put_same]

/-- Every other error byte is as before. -/
theorem Mem.errB_putErr_other (m : Mem) {a b : Nat} (v : Byte) (h : b ≠ a) : (m.putErr a v).errB b = m.errB b := by
  unfold Mem.errB Mem.putErr
  split <;> simp [cellGet_del_other _ h, cellGet_put_other _ _ h]

@[simp] theorem Mem.errB_putData (m : Mem) (a k : Nat) (v : Byte) : (m.putData a v).errB k = m.errB k := rfl
@[simp] theorem Mem.data_putErr (m : Mem) (a k : Nat) (v : Byte) : (m.putErr k v).data a = m.data a := rfl

/-! ### The canonical form -/

theorem Mem.wf_iff (m : Mem) : m.wf = true ↔ cellsRising m.cells = true ∧ cellsRising m.err = true ∧
    (∀ c ∈ m.cells, c.2 ≠ background m.bg c.1) ∧ ∀ c ∈ m.err, c.2 ≠ 0 := by
  simp [Mem.wf, and_assoc]

@[simp] theorem Mem.zero_wf : Mem.zero.wf = true := rfl

@[simp] theorem Mem.putData_wf {m : Mem} (h : m.wf = true) (a : Nat) (v : Byte) : (m.putData a v).wf = true := by
  rw [Mem.wf_iff] at *
  obtain ⟨h1, h2, h3, h4⟩ := h
  unfold Mem.putData
  split
  · refine ⟨cellDel_rising h1 a, h2, fun c hc => h3 c (List.mem_of_mem_filter hc), h4⟩
  · rename_i hv
    refine ⟨cellPut_rising h1 a v, h2, fun c hc => ?_, h4⟩
    rcases mem_cellPut hc with rfl | hc
    · exact hv
    · exact h3 c hc

@[simp] theorem Mem.putErr_wf {m : Mem} (h : m.wf = true) (k : Nat) (v : Byte) : (m.putErr k v).wf = true := by
  rw [Mem.wf_iff] at *
  obtain ⟨h1, h2, h3, h4⟩ := h
  unfold Mem.putErr
  split
  · refine ⟨h1, cellDel_rising h2 k, h3, fun c hc => h4 c (List.mem_of_mem_filter hc)⟩
  · rename_i hv
    refine ⟨h1, cellPut_rising h2 k v, h3, fun c hc => ?_⟩
    rcases mem_cellPut hc with rfl | hc
    · exact hv
    · exact h4 c hc

@[simp] theorem Mem.putDatas_wf {m : Mem} (h : m.wf = true) (a : Nat) (bs : List Byte) : (m.putDatas a bs).wf = true := by
  induction bs generalizing m a with
  | nil => exact h
  | cons b bs ih => exact ih (Mem.putData_wf h a b) (a + 1)

@[simp] theorem Mem.putErrs_wf {m : Mem} (h : m.wf = true) (k : Nat) (bs : List Byte) : (m.putErrs k bs).wf = true := by
  induction bs generalizing m k with
  | nil => exact h
  | cons b bs ih => exact ih (Mem.putErr_wf h k b) (k + 1)

@[simp] theorem Mem.setCw_wf {m : Mem} (h : m.wf = true) (cw : Nat) (d e : List Byte) : (m.setCw cw d e).wf = true :=
  Mem.putErrs_wf (Mem.putDatas_wf h _ _) _ _

@[simp] theorem Mem.markFound_wf {m : Mem} (h : m.wf = true) (cw : Nat) : (m.markFound cw).wf = true :=
  Mem.setCw_wf h _ _ _

@[simp] theorem Mem.readCw_wf {m : Mem} (h : m.wf = true) (cw : Nat) : (m.readCw cw).1.wf = true := by
  unfold Mem.readCw
  split <;> simp [h]

@[simp] theorem Mem.readCws_wf {m : Mem} (h : m.wf = true) (l : List Nat) : (m.readCws l).1.wf = true := by
  induction l generalizing m with
  | nil => exact h
  | cons cw l ih => exact ih (Mem.readCw_wf h cw)

@[simp] theorem Mem.fetch_wf {m : Mem} (h : m.wf = true) (a n : Nat) : (m.fetch a n).2.1.wf = true := Mem.readCws_wf h _

@[simp] theorem Mem.storeCw_wf {m : Mem} (h : m.wf = true) (cw : Nat) (p : List (Option TByte)) :
    (m.storeCw cw p).1.wf = true := by
  unfold Mem.storeCw
  simp only
  split
  · simp [h]
  · split <;> simp [h]

@[simp] theorem Mem.storeCws_wf {m : Mem} (h : m.wf = true) (a : Nat) (bs : List TByte) (l : List Nat) :
    (m.storeCws a bs l).1.wf = true := by
  induction l generalizing m with
  | nil => exact h
  | cons cw l ih => exact ih (Mem.storeCw_wf h cw _)

@[simp] theorem Mem.store_wf {m : Mem} (h : m.wf = true) (a : Nat) (bs : List TByte) : (m.store a bs).1.wf = true :=
  Mem.storeCws_wf h _ _ _

@[simp] theorem Mem.write_wf {m : Mem} (h : m.wf = true) (a : Nat) (bs : List Byte) : (m.write a bs).wf = true :=
  Mem.store_wf h _ _

@[simp] theorem Mem.flip_wf {m : Mem} (h : m.wf = true) (f : Nat × Byte) : (m.flip f).wf = true := by
  unfold Mem.flip
  split <;> exact Mem.putErr_wf h _ _

@[simp] theorem Mem.flips_wf {m : Mem} (h : m.wf = true) (fs : List (Nat × Byte)) : (m.flips fs).wf = true := by
  unfold Mem.flips
  induction fs generalizing m with
  | nil => exact h
  | cons f fs ih => exact ih (Mem.flip_wf h f)

/-! ### HBM -/

@[simp] theorem hbmFetch_wf {m : Mem} (h : m.wf = true) (ks : List Nat) (a n : Nat) : (hbmFetch m ks a n).2.1.wf = true := by
  unfold hbmFetch
  generalize pieces a n = l
  suffices ∀ (r : List TByte × Mem × Seen), r.2.1.wf = true → (l.foldl (fun r p =>
      let f := r.2.1.fetch (hbmKey ks p.1) p.2
      (r.1 ++ f.1, f.2.1, r.2.2.add f.2.2)) r).2.1.wf = true from this _ h
  induction l with
  | nil => exact fun r hr => hr
  | cons p l ih => exact fun r hr => ih _ (Mem.fetch_wf hr _ _)

@[simp] theorem hbmStore_wf {m : Mem} (h : m.wf = true) (ks : List Nat) (a : Nat) (bs : List TByte) :
    (hbmStore m ks a bs).1.wf = true := by
  unfold hbmStore
  generalize pieces a bs.length = l
  suffices ∀ (r : Mem × Seen), r.1.wf = true → (l.foldl (fun r p =>
      let w := r.1.store (hbmKey ks p.1) ((bs.drop (p.1 - a)).take p.2)
      (w.1, r.2.add w.2)) r).1.wf = true from this _ h
  induction l with
  | nil => exact fun r hr => hr
  | cons p l ih => exact fun r hr => ih _ (Mem.store_wf hr _ _)

@[simp] theorem hbmFlips_wf {m : Mem} (h : m.wf = true) (ks : List Nat) (fs : List (Nat × Byte)) :
    (hbmFlips m ks fs).wf = true := by
  unfold hbmFlips
  induction fs generalizing m with
  | nil => exact h
  | cons f fs ih =>
    rw [List.foldl_cons]
    refine ih ?_
    split <;> exact Mem.flip_wf h _

theorem cutRange_rising {l : List Host.Cell} (h : cellsRising l = true) (lo hi : Nat) :
    cellsRising (cutRange l lo hi) = true := by
  rw [cellsRising_iff] at *
  exact h.sublist List.filter_sublist

@[simp] theorem clearStack_wf {m : Mem} (h : m.wf = true) (k : Nat) : (clearStack m k).wf = true := by
  rw [Mem.wf_iff] at *
  obtain ⟨h1, h2, h3, h4⟩ := h
  refine ⟨cutRange_rising h1 _ _, cutRange_rising h2 _ _, fun c hc => ?_, fun c hc => h4 c (List.mem_of_mem_filter hc)⟩
  simp only [clearStack, cutRange, List.mem_filter] at hc
  have hk : c.1 / (Config.groupsPerStack * 1024) ≠ k := by
    intro e
    have hp : 0 < Config.groupsPerStack * 1024 := by decide
    rcases (by simpa using hc.2) with h6 | h6
    · have : k ≤ c.1 / (Config.groupsPerStack * 1024) := le_of_eq e.symm
      rw [Nat.le_div_iff_mul_le hp] at this
      rw [← Nat.mul_assoc] at this
      omega
    · have : c.1 / (Config.groupsPerStack * 1024) < k + 1 := by omega
      rw [Nat.div_lt_iff_lt_mul hp, ← Nat.mul_assoc] at this
      omega
  have := h3 c hc.1
  have e : background (m.bg.set k 0) c.1 = background m.bg c.1 := by
    simp [background, nth, Ne.symm hk]
  show c.2 ≠ background (m.bg.set k 0) c.1
  rwa [e]

end Sys2Proof.Machine
end

