-- ==== Sys2Proof/Laws/State.lean ====
section
/-! SUPPORT. What each named update of the state leaves in each field: one lemma per field per update, so that no proof
unfolds a record update. -/
namespace Sys2Proof.Machine

variable (s : State)

/-! ### onPort -/

@[simp] theorem State.onPort_pending (p : Nat) (f : Port → Port) :
    (s.onPort p f).pending = s.pending := rfl
@[simp] theorem State.onPort_out (p : Nat) (f : Port → Port) :
    (s.onPort p f).out = s.out := rfl
@[simp] theorem State.onPort_free (p : Nat) (f : Port → Port) :
    (s.onPort p f).free = s.free := rfl
@[simp] theorem State.onPort_time (p : Nat) (f : Port → Port) :
    (s.onPort p f).time = s.time := rfl
@[simp] theorem State.onPort_chip (p : Nat) (f : Port → Port) :
    (s.onPort p f).chip = s.chip := rfl
@[simp] theorem State.onPort_flash (p : Nat) (f : Port → Port) :
    (s.onPort p f).flash = s.flash := rfl
@[simp] theorem State.onPort_power (p : Nat) (f : Port → Port) :
    (s.onPort p f).power = s.power := rfl
@[simp] theorem State.onPort_place (p : Nat) (f : Port → Port) :
    (s.onPort p f).place = s.place := rfl
@[simp] theorem State.onPort_ports (p : Nat) (f : Port → Port) :
    (s.onPort p f).ports = modifyAt s.ports p f := rfl
@[simp] theorem State.onPort_checks (p : Nat) (f : Port → Port) :
    (s.onPort p f).checks = s.checks := rfl
@[simp] theorem State.onPort_aq (p : Nat) (f : Port → Port) :
    (s.onPort p f).aq = s.aq := rfl
@[simp] theorem State.onPort_mem (p : Nat) (f : Port → Port) :
    (s.onPort p f).mem = s.mem := rfl
@[simp] theorem State.onPort_plots (p : Nat) (f : Port → Port) :
    (s.onPort p f).plots = s.plots := rfl
@[simp] theorem State.onPort_train (p : Nat) (f : Port → Port) :
    (s.onPort p f).train = s.train := rfl
@[simp] theorem State.onPort_snap (p : Nat) (f : Port → Port) :
    (s.onPort p f).snap = s.snap := rfl
@[simp] theorem State.onPort_shift (p : Nat) (f : Port → Port) :
    (s.onPort p f).shift = s.shift := rfl
@[simp] theorem State.onPort_bgp (p : Nat) (f : Port → Port) :
    (s.onPort p f).bgp = s.bgp := rfl
@[simp] theorem State.onPort_dma (p : Nat) (f : Port → Port) :
    (s.onPort p f).dma = s.dma := rfl
@[simp] theorem State.onPort_host (p : Nat) (f : Port → Port) :
    (s.onPort p f).host = s.host := rfl
@[simp] theorem State.onPort_vec (p : Nat) (f : Port → Port) :
    (s.onPort p f).vec = s.vec := rfl
@[simp] theorem State.onPort_tap (p : Nat) (f : Port → Port) :
    (s.onPort p f).tap = s.tap := rfl

/-! ### onCheck -/

@[simp] theorem State.onCheck_pending (p : Nat) (f : PortCheck → PortCheck) :
    (s.onCheck p f).pending = s.pending := rfl
@[simp] theorem State.onCheck_out (p : Nat) (f : PortCheck → PortCheck) :
    (s.onCheck p f).out = s.out := rfl
@[simp] theorem State.onCheck_free (p : Nat) (f : PortCheck → PortCheck) :
    (s.onCheck p f).free = s.free := rfl
@[simp] theorem State.onCheck_time (p : Nat) (f : PortCheck → PortCheck) :
    (s.onCheck p f).time = s.time := rfl
@[simp] theorem State.onCheck_chip (p : Nat) (f : PortCheck → PortCheck) :
    (s.onCheck p f).chip = s.chip := rfl
@[simp] theorem State.onCheck_flash (p : Nat) (f : PortCheck → PortCheck) :
    (s.onCheck p f).flash = s.flash := rfl
@[simp] theorem State.onCheck_power (p : Nat) (f : PortCheck → PortCheck) :
    (s.onCheck p f).power = s.power := rfl
@[simp] theorem State.onCheck_place (p : Nat) (f : PortCheck → PortCheck) :
    (s.onCheck p f).place = s.place := rfl
@[simp] theorem State.onCheck_ports (p : Nat) (f : PortCheck → PortCheck) :
    (s.onCheck p f).ports = s.ports := rfl
@[simp] theorem State.onCheck_checks (p : Nat) (f : PortCheck → PortCheck) :
    (s.onCheck p f).checks = modifyAt s.checks p f := rfl
@[simp] theorem State.onCheck_aq (p : Nat) (f : PortCheck → PortCheck) :
    (s.onCheck p f).aq = s.aq := rfl
@[simp] theorem State.onCheck_mem (p : Nat) (f : PortCheck → PortCheck) :
    (s.onCheck p f).mem = s.mem := rfl
@[simp] theorem State.onCheck_plots (p : Nat) (f : PortCheck → PortCheck) :
    (s.onCheck p f).plots = s.plots := rfl
@[simp] theorem State.onCheck_train (p : Nat) (f : PortCheck → PortCheck) :
    (s.onCheck p f).train = s.train := rfl
@[simp] theorem State.onCheck_snap (p : Nat) (f : PortCheck → PortCheck) :
    (s.onCheck p f).snap = s.snap := rfl
@[simp] theorem State.onCheck_shift (p : Nat) (f : PortCheck → PortCheck) :
    (s.onCheck p f).shift = s.shift := rfl
@[simp] theorem State.onCheck_bgp (p : Nat) (f : PortCheck → PortCheck) :
    (s.onCheck p f).bgp = s.bgp := rfl
@[simp] theorem State.onCheck_dma (p : Nat) (f : PortCheck → PortCheck) :
    (s.onCheck p f).dma = s.dma := rfl
@[simp] theorem State.onCheck_host (p : Nat) (f : PortCheck → PortCheck) :
    (s.onCheck p f).host = s.host := rfl
@[simp] theorem State.onCheck_vec (p : Nat) (f : PortCheck → PortCheck) :
    (s.onCheck p f).vec = s.vec := rfl
@[simp] theorem State.onCheck_tap (p : Nat) (f : PortCheck → PortCheck) :
    (s.onCheck p f).tap = s.tap := rfl

/-! ### onPorts -/

@[simp] theorem State.onPorts_pending (f : Port → Port) :
    (s.onPorts f).pending = s.pending := rfl
@[simp] theorem State.onPorts_out (f : Port → Port) :
    (s.onPorts f).out = s.out := rfl
@[simp] theorem State.onPorts_free (f : Port → Port) :
    (s.onPorts f).free = s.free := rfl
@[simp] theorem State.onPorts_time (f : Port → Port) :
    (s.onPorts f).time = s.time := rfl
@[simp] theorem State.onPorts_chip (f : Port → Port) :
    (s.onPorts f).chip = s.chip := rfl
@[simp] theorem State.onPorts_flash (f : Port → Port) :
    (s.onPorts f).flash = s.flash := rfl
@[simp] theorem State.onPorts_power (f : Port → Port) :
    (s.onPorts f).power = s.power := rfl
@[simp] theorem State.onPorts_place (f : Port → Port) :
    (s.onPorts f).place = s.place := rfl
@[simp] theorem State.onPorts_ports (f : Port → Port) :
    (s.onPorts f).ports = s.ports.map f := rfl
@[simp] theorem State.onPorts_checks (f : Port → Port) :
    (s.onPorts f).checks = s.checks := rfl
@[simp] theorem State.onPorts_aq (f : Port → Port) :
    (s.onPorts f).aq = s.aq := rfl
@[simp] theorem State.onPorts_mem (f : Port → Port) :
    (s.onPorts f).mem = s.mem := rfl
@[simp] theorem State.onPorts_plots (f : Port → Port) :
    (s.onPorts f).plots = s.plots := rfl
@[simp] theorem State.onPorts_train (f : Port → Port) :
    (s.onPorts f).train = s.train := rfl
@[simp] theorem State.onPorts_snap (f : Port → Port) :
    (s.onPorts f).snap = s.snap := rfl
@[simp] theorem State.onPorts_shift (f : Port → Port) :
    (s.onPorts f).shift = s.shift := rfl
@[simp] theorem State.onPorts_bgp (f : Port → Port) :
    (s.onPorts f).bgp = s.bgp := rfl
@[simp] theorem State.onPorts_dma (f : Port → Port) :
    (s.onPorts f).dma = s.dma := rfl
@[simp] theorem State.onPorts_host (f : Port → Port) :
    (s.onPorts f).host = s.host := rfl
@[simp] theorem State.onPorts_vec (f : Port → Port) :
    (s.onPorts f).vec = s.vec := rfl
@[simp] theorem State.onPorts_tap (f : Port → Port) :
    (s.onPorts f).tap = s.tap := rfl

/-! ### onMem -/

@[simp] theorem State.onMem_pending (f : Memories → Memories) :
    (s.onMem f).pending = s.pending := rfl
@[simp] theorem State.onMem_out (f : Memories → Memories) :
    (s.onMem f).out = s.out := rfl
@[simp] theorem State.onMem_free (f : Memories → Memories) :
    (s.onMem f).free = s.free := rfl
@[simp] theorem State.onMem_time (f : Memories → Memories) :
    (s.onMem f).time = s.time := rfl
@[simp] theorem State.onMem_chip (f : Memories → Memories) :
    (s.onMem f).chip = s.chip := rfl
@[simp] theorem State.onMem_flash (f : Memories → Memories) :
    (s.onMem f).flash = s.flash := rfl
@[simp] theorem State.onMem_power (f : Memories → Memories) :
    (s.onMem f).power = s.power := rfl
@[simp] theorem State.onMem_place (f : Memories → Memories) :
    (s.onMem f).place = s.place := rfl
@[simp] theorem State.onMem_ports (f : Memories → Memories) :
    (s.onMem f).ports = s.ports := rfl
@[simp] theorem State.onMem_checks (f : Memories → Memories) :
    (s.onMem f).checks = s.checks := rfl
@[simp] theorem State.onMem_aq (f : Memories → Memories) :
    (s.onMem f).aq = s.aq := rfl
@[simp] theorem State.onMem_mem (f : Memories → Memories) :
    (s.onMem f).mem = f s.mem := rfl
@[simp] theorem State.onMem_plots (f : Memories → Memories) :
    (s.onMem f).plots = s.plots := rfl
@[simp] theorem State.onMem_train (f : Memories → Memories) :
    (s.onMem f).train = s.train := rfl
@[simp] theorem State.onMem_snap (f : Memories → Memories) :
    (s.onMem f).snap = s.snap := rfl
@[simp] theorem State.onMem_shift (f : Memories → Memories) :
    (s.onMem f).shift = s.shift := rfl
@[simp] theorem State.onMem_bgp (f : Memories → Memories) :
    (s.onMem f).bgp = s.bgp := rfl
@[simp] theorem State.onMem_dma (f : Memories → Memories) :
    (s.onMem f).dma = s.dma := rfl
@[simp] theorem State.onMem_host (f : Memories → Memories) :
    (s.onMem f).host = s.host := rfl
@[simp] theorem State.onMem_vec (f : Memories → Memories) :
    (s.onMem f).vec = s.vec := rfl
@[simp] theorem State.onMem_tap (f : Memories → Memories) :
    (s.onMem f).tap = s.tap := rfl

/-! ### onTile -/

@[simp] theorem State.onTile_pending (t : Nat) (f : Tile → Tile) :
    (s.onTile t f).pending = s.pending := rfl
@[simp] theorem State.onTile_out (t : Nat) (f : Tile → Tile) :
    (s.onTile t f).out = s.out := rfl
@[simp] theorem State.onTile_free (t : Nat) (f : Tile → Tile) :
    (s.onTile t f).free = s.free := rfl
@[simp] theorem State.onTile_time (t : Nat) (f : Tile → Tile) :
    (s.onTile t f).time = s.time := rfl
@[simp] theorem State.onTile_chip (t : Nat) (f : Tile → Tile) :
    (s.onTile t f).chip = s.chip := rfl
@[simp] theorem State.onTile_flash (t : Nat) (f : Tile → Tile) :
    (s.onTile t f).flash = s.flash := rfl
@[simp] theorem State.onTile_power (t : Nat) (f : Tile → Tile) :
    (s.onTile t f).power = s.power := rfl
@[simp] theorem State.onTile_place (t : Nat) (f : Tile → Tile) :
    (s.onTile t f).place = s.place := rfl
@[simp] theorem State.onTile_ports (t : Nat) (f : Tile → Tile) :
    (s.onTile t f).ports = s.ports := rfl
@[simp] theorem State.onTile_checks (t : Nat) (f : Tile → Tile) :
    (s.onTile t f).checks = s.checks := rfl
@[simp] theorem State.onTile_aq (t : Nat) (f : Tile → Tile) :
    (s.onTile t f).aq = s.aq := rfl
@[simp] theorem State.onTile_mem (t : Nat) (f : Tile → Tile) :
    (s.onTile t f).mem = { s.mem with tiles := modifyAt s.mem.tiles t f } := rfl
@[simp] theorem State.onTile_plots (t : Nat) (f : Tile → Tile) :
    (s.onTile t f).plots = s.plots := rfl
@[simp] theorem State.onTile_train (t : Nat) (f : Tile → Tile) :
    (s.onTile t f).train = s.train := rfl
@[simp] theorem State.onTile_snap (t : Nat) (f : Tile → Tile) :
    (s.onTile t f).snap = s.snap := rfl
@[simp] theorem State.onTile_shift (t : Nat) (f : Tile → Tile) :
    (s.onTile t f).shift = s.shift := rfl
@[simp] theorem State.onTile_bgp (t : Nat) (f : Tile → Tile) :
    (s.onTile t f).bgp = s.bgp := rfl
@[simp] theorem State.onTile_dma (t : Nat) (f : Tile → Tile) :
    (s.onTile t f).dma = s.dma := rfl
@[simp] theorem State.onTile_host (t : Nat) (f : Tile → Tile) :
    (s.onTile t f).host = s.host := rfl
@[simp] theorem State.onTile_vec (t : Nat) (f : Tile → Tile) :
    (s.onTile t f).vec = s.vec := rfl
@[simp] theorem State.onTile_tap (t : Nat) (f : Tile → Tile) :
    (s.onTile t f).tap = s.tap := rfl

/-! ### onStack -/

@[simp] theorem State.onStack_pending (k : Nat) (f : Stack → Stack) :
    (s.onStack k f).pending = s.pending := rfl
@[simp] theorem State.onStack_out (k : Nat) (f : Stack → Stack) :
    (s.onStack k f).out = s.out := rfl
@[simp] theorem State.onStack_free (k : Nat) (f : Stack → Stack) :
    (s.onStack k f).free = s.free := rfl
@[simp] theorem State.onStack_time (k : Nat) (f : Stack → Stack) :
    (s.onStack k f).time = s.time := rfl
@[simp] theorem State.onStack_chip (k : Nat) (f : Stack → Stack) :
    (s.onStack k f).chip = s.chip := rfl
@[simp] theorem State.onStack_flash (k : Nat) (f : Stack → Stack) :
    (s.onStack k f).flash = s.flash := rfl
@[simp] theorem State.onStack_power (k : Nat) (f : Stack → Stack) :
    (s.onStack k f).power = s.power := rfl
@[simp] theorem State.onStack_place (k : Nat) (f : Stack → Stack) :
    (s.onStack k f).place = s.place := rfl
@[simp] theorem State.onStack_ports (k : Nat) (f : Stack → Stack) :
    (s.onStack k f).ports = s.ports := rfl
@[simp] theorem State.onStack_checks (k : Nat) (f : Stack → Stack) :
    (s.onStack k f).checks = s.checks := rfl
@[simp] theorem State.onStack_aq (k : Nat) (f : Stack → Stack) :
    (s.onStack k f).aq = s.aq := rfl
@[simp] theorem State.onStack_mem (k : Nat) (f : Stack → Stack) :
    (s.onStack k f).mem = { s.mem with hstacks := modifyAt s.mem.hstacks k f } := rfl
@[simp] theorem State.onStack_plots (k : Nat) (f : Stack → Stack) :
    (s.onStack k f).plots = s.plots := rfl
@[simp] theorem State.onStack_train (k : Nat) (f : Stack → Stack) :
    (s.onStack k f).train = s.train := rfl
@[simp] theorem State.onStack_snap (k : Nat) (f : Stack → Stack) :
    (s.onStack k f).snap = s.snap := rfl
@[simp] theorem State.onStack_shift (k : Nat) (f : Stack → Stack) :
    (s.onStack k f).shift = s.shift := rfl
@[simp] theorem State.onStack_bgp (k : Nat) (f : Stack → Stack) :
    (s.onStack k f).bgp = s.bgp := rfl
@[simp] theorem State.onStack_dma (k : Nat) (f : Stack → Stack) :
    (s.onStack k f).dma = s.dma := rfl
@[simp] theorem State.onStack_host (k : Nat) (f : Stack → Stack) :
    (s.onStack k f).host = s.host := rfl
@[simp] theorem State.onStack_vec (k : Nat) (f : Stack → Stack) :
    (s.onStack k f).vec = s.vec := rfl
@[simp] theorem State.onStack_tap (k : Nat) (f : Stack → Stack) :
    (s.onStack k f).tap = s.tap := rfl

/-! ### onPlot -/

@[simp] theorem State.onPlot_pending (n : Nat) (f : Plot → Plot) :
    (s.onPlot n f).pending = s.pending := rfl
@[simp] theorem State.onPlot_out (n : Nat) (f : Plot → Plot) :
    (s.onPlot n f).out = s.out := rfl
@[simp] theorem State.onPlot_free (n : Nat) (f : Plot → Plot) :
    (s.onPlot n f).free = s.free := rfl
@[simp] theorem State.onPlot_time (n : Nat) (f : Plot → Plot) :
    (s.onPlot n f).time = s.time := rfl
@[simp] theorem State.onPlot_chip (n : Nat) (f : Plot → Plot) :
    (s.onPlot n f).chip = s.chip := rfl
@[simp] theorem State.onPlot_flash (n : Nat) (f : Plot → Plot) :
    (s.onPlot n f).flash = s.flash := rfl
@[simp] theorem State.onPlot_power (n : Nat) (f : Plot → Plot) :
    (s.onPlot n f).power = s.power := rfl
@[simp] theorem State.onPlot_place (n : Nat) (f : Plot → Plot) :
    (s.onPlot n f).place = s.place := rfl
@[simp] theorem State.onPlot_ports (n : Nat) (f : Plot → Plot) :
    (s.onPlot n f).ports = s.ports := rfl
@[simp] theorem State.onPlot_checks (n : Nat) (f : Plot → Plot) :
    (s.onPlot n f).checks = s.checks := rfl
@[simp] theorem State.onPlot_aq (n : Nat) (f : Plot → Plot) :
    (s.onPlot n f).aq = s.aq := rfl
@[simp] theorem State.onPlot_mem (n : Nat) (f : Plot → Plot) :
    (s.onPlot n f).mem = s.mem := rfl
@[simp] theorem State.onPlot_plots (n : Nat) (f : Plot → Plot) :
    (s.onPlot n f).plots = modifyAt s.plots n f := rfl
@[simp] theorem State.onPlot_train (n : Nat) (f : Plot → Plot) :
    (s.onPlot n f).train = s.train := rfl
@[simp] theorem State.onPlot_snap (n : Nat) (f : Plot → Plot) :
    (s.onPlot n f).snap = s.snap := rfl
@[simp] theorem State.onPlot_shift (n : Nat) (f : Plot → Plot) :
    (s.onPlot n f).shift = s.shift := rfl
@[simp] theorem State.onPlot_bgp (n : Nat) (f : Plot → Plot) :
    (s.onPlot n f).bgp = s.bgp := rfl
@[simp] theorem State.onPlot_dma (n : Nat) (f : Plot → Plot) :
    (s.onPlot n f).dma = s.dma := rfl
@[simp] theorem State.onPlot_host (n : Nat) (f : Plot → Plot) :
    (s.onPlot n f).host = s.host := rfl
@[simp] theorem State.onPlot_vec (n : Nat) (f : Plot → Plot) :
    (s.onPlot n f).vec = s.vec := rfl
@[simp] theorem State.onPlot_tap (n : Nat) (f : Plot → Plot) :
    (s.onPlot n f).tap = s.tap := rfl

/-! ### setPlot0 -/

@[simp] theorem State.setPlot0_pending (p : PlotState) :
    (s.setPlot0 p).pending = s.pending := rfl
@[simp] theorem State.setPlot0_out (p : PlotState) :
    (s.setPlot0 p).out = s.out := rfl
@[simp] theorem State.setPlot0_free (p : PlotState) :
    (s.setPlot0 p).free = s.free := rfl
@[simp] theorem State.setPlot0_time (p : PlotState) :
    (s.setPlot0 p).time = s.time := rfl
@[simp] theorem State.setPlot0_chip (p : PlotState) :
    (s.setPlot0 p).chip = s.chip := rfl
@[simp] theorem State.setPlot0_flash (p : PlotState) :
    (s.setPlot0 p).flash = s.flash := rfl
@[simp] theorem State.setPlot0_power (p : PlotState) :
    (s.setPlot0 p).power = s.power := rfl
@[simp] theorem State.setPlot0_place (p : PlotState) :
    (s.setPlot0 p).place = s.place := rfl
@[simp] theorem State.setPlot0_ports (p : PlotState) :
    (s.setPlot0 p).ports = s.ports := rfl
@[simp] theorem State.setPlot0_checks (p : PlotState) :
    (s.setPlot0 p).checks = s.checks := rfl
@[simp] theorem State.setPlot0_aq (p : PlotState) :
    (s.setPlot0 p).aq = s.aq := rfl
@[simp] theorem State.setPlot0_mem (p : PlotState) :
    (s.setPlot0 p).mem = s.mem := rfl
@[simp] theorem State.setPlot0_plots (p : PlotState) :
    (s.setPlot0 p).plots = modifyAt s.plots 0 (fun q => { q with st := p }) := rfl
@[simp] theorem State.setPlot0_train (p : PlotState) :
    (s.setPlot0 p).train = s.train := rfl
@[simp] theorem State.setPlot0_snap (p : PlotState) :
    (s.setPlot0 p).snap = s.snap := rfl
@[simp] theorem State.setPlot0_shift (p : PlotState) :
    (s.setPlot0 p).shift = s.shift := rfl
@[simp] theorem State.setPlot0_bgp (p : PlotState) :
    (s.setPlot0 p).bgp = s.bgp := rfl
@[simp] theorem State.setPlot0_dma (p : PlotState) :
    (s.setPlot0 p).dma = s.dma := rfl
@[simp] theorem State.setPlot0_host (p : PlotState) :
    (s.setPlot0 p).host = s.host := rfl
@[simp] theorem State.setPlot0_vec (p : PlotState) :
    (s.setPlot0 p).vec = s.vec := rfl
@[simp] theorem State.setPlot0_tap (p : PlotState) :
    (s.setPlot0 p).tap = s.tap := rfl

/-! ### onTrain -/

@[simp] theorem State.onTrain_pending (f : Train → Train) :
    (s.onTrain f).pending = s.pending := rfl
@[simp] theorem State.onTrain_out (f : Train → Train) :
    (s.onTrain f).out = s.out := rfl
@[simp] theorem State.onTrain_free (f : Train → Train) :
    (s.onTrain f).free = s.free := rfl
@[simp] theorem State.onTrain_time (f : Train → Train) :
    (s.onTrain f).time = s.time := rfl
@[simp] theorem State.onTrain_chip (f : Train → Train) :
    (s.onTrain f).chip = s.chip := rfl
@[simp] theorem State.onTrain_flash (f : Train → Train) :
    (s.onTrain f).flash = s.flash := rfl
@[simp] theorem State.onTrain_power (f : Train → Train) :
    (s.onTrain f).power = s.power := rfl
@[simp] theorem State.onTrain_place (f : Train → Train) :
    (s.onTrain f).place = s.place := rfl
@[simp] theorem State.onTrain_ports (f : Train → Train) :
    (s.onTrain f).ports = s.ports := rfl
@[simp] theorem State.onTrain_checks (f : Train → Train) :
    (s.onTrain f).checks = s.checks := rfl
@[simp] theorem State.onTrain_aq (f : Train → Train) :
    (s.onTrain f).aq = s.aq := rfl
@[simp] theorem State.onTrain_mem (f : Train → Train) :
    (s.onTrain f).mem = s.mem := rfl
@[simp] theorem State.onTrain_plots (f : Train → Train) :
    (s.onTrain f).plots = s.plots := rfl
@[simp] theorem State.onTrain_train (f : Train → Train) :
    (s.onTrain f).train = f s.train := rfl
@[simp] theorem State.onTrain_snap (f : Train → Train) :
    (s.onTrain f).snap = s.snap := rfl
@[simp] theorem State.onTrain_shift (f : Train → Train) :
    (s.onTrain f).shift = s.shift := rfl
@[simp] theorem State.onTrain_bgp (f : Train → Train) :
    (s.onTrain f).bgp = s.bgp := rfl
@[simp] theorem State.onTrain_dma (f : Train → Train) :
    (s.onTrain f).dma = s.dma := rfl
@[simp] theorem State.onTrain_host (f : Train → Train) :
    (s.onTrain f).host = s.host := rfl
@[simp] theorem State.onTrain_vec (f : Train → Train) :
    (s.onTrain f).vec = s.vec := rfl
@[simp] theorem State.onTrain_tap (f : Train → Train) :
    (s.onTrain f).tap = s.tap := rfl

/-! ### onAq -/

@[simp] theorem State.onAq_pending (f : Aqvel → Aqvel) :
    (s.onAq f).pending = s.pending := rfl
@[simp] theorem State.onAq_out (f : Aqvel → Aqvel) :
    (s.onAq f).out = s.out := rfl
@[simp] theorem State.onAq_free (f : Aqvel → Aqvel) :
    (s.onAq f).free = s.free := rfl
@[simp] theorem State.onAq_time (f : Aqvel → Aqvel) :
    (s.onAq f).time = s.time := rfl
@[simp] theorem State.onAq_chip (f : Aqvel → Aqvel) :
    (s.onAq f).chip = s.chip := rfl
@[simp] theorem State.onAq_flash (f : Aqvel → Aqvel) :
    (s.onAq f).flash = s.flash := rfl
@[simp] theorem State.onAq_power (f : Aqvel → Aqvel) :
    (s.onAq f).power = s.power := rfl
@[simp] theorem State.onAq_place (f : Aqvel → Aqvel) :
    (s.onAq f).place = s.place := rfl
@[simp] theorem State.onAq_ports (f : Aqvel → Aqvel) :
    (s.onAq f).ports = s.ports := rfl
@[simp] theorem State.onAq_checks (f : Aqvel → Aqvel) :
    (s.onAq f).checks = s.checks := rfl
@[simp] theorem State.onAq_aq (f : Aqvel → Aqvel) :
    (s.onAq f).aq = f s.aq := rfl
@[simp] theorem State.onAq_mem (f : Aqvel → Aqvel) :
    (s.onAq f).mem = s.mem := rfl
@[simp] theorem State.onAq_plots (f : Aqvel → Aqvel) :
    (s.onAq f).plots = s.plots := rfl
@[simp] theorem State.onAq_train (f : Aqvel → Aqvel) :
    (s.onAq f).train = s.train := rfl
@[simp] theorem State.onAq_snap (f : Aqvel → Aqvel) :
    (s.onAq f).snap = s.snap := rfl
@[simp] theorem State.onAq_shift (f : Aqvel → Aqvel) :
    (s.onAq f).shift = s.shift := rfl
@[simp] theorem State.onAq_bgp (f : Aqvel → Aqvel) :
    (s.onAq f).bgp = s.bgp := rfl
@[simp] theorem State.onAq_dma (f : Aqvel → Aqvel) :
    (s.onAq f).dma = s.dma := rfl
@[simp] theorem State.onAq_host (f : Aqvel → Aqvel) :
    (s.onAq f).host = s.host := rfl
@[simp] theorem State.onAq_vec (f : Aqvel → Aqvel) :
    (s.onAq f).vec = s.vec := rfl
@[simp] theorem State.onAq_tap (f : Aqvel → Aqvel) :
    (s.onAq f).tap = s.tap := rfl

/-! ### onPair -/

@[simp] theorem State.onPair_pending (n : Nat) (f : Pair → Pair) :
    (s.onPair n f).pending = s.pending := rfl
@[simp] theorem State.onPair_out (n : Nat) (f : Pair → Pair) :
    (s.onPair n f).out = s.out := rfl
@[simp] theorem State.onPair_free (n : Nat) (f : Pair → Pair) :
    (s.onPair n f).free = s.free := rfl
@[simp] theorem State.onPair_time (n : Nat) (f : Pair → Pair) :
    (s.onPair n f).time = s.time := rfl
@[simp] theorem State.onPair_chip (n : Nat) (f : Pair → Pair) :
    (s.onPair n f).chip = s.chip := rfl
@[simp] theorem State.onPair_flash (n : Nat) (f : Pair → Pair) :
    (s.onPair n f).flash = s.flash := rfl
@[simp] theorem State.onPair_power (n : Nat) (f : Pair → Pair) :
    (s.onPair n f).power = s.power := rfl
@[simp] theorem State.onPair_place (n : Nat) (f : Pair → Pair) :
    (s.onPair n f).place = s.place := rfl
@[simp] theorem State.onPair_ports (n : Nat) (f : Pair → Pair) :
    (s.onPair n f).ports = s.ports := rfl
@[simp] theorem State.onPair_checks (n : Nat) (f : Pair → Pair) :
    (s.onPair n f).checks = s.checks := rfl
@[simp] theorem State.onPair_aq (n : Nat) (f : Pair → Pair) :
    (s.onPair n f).aq = { s.aq with pairs := modifyAt s.aq.pairs n f } := rfl
@[simp] theorem State.onPair_mem (n : Nat) (f : Pair → Pair) :
    (s.onPair n f).mem = s.mem := rfl
@[simp] theorem State.onPair_plots (n : Nat) (f : Pair → Pair) :
    (s.onPair n f).plots = s.plots := rfl
@[simp] theorem State.onPair_train (n : Nat) (f : Pair → Pair) :
    (s.onPair n f).train = s.train := rfl
@[simp] theorem State.onPair_snap (n : Nat) (f : Pair → Pair) :
    (s.onPair n f).snap = s.snap := rfl
@[simp] theorem State.onPair_shift (n : Nat) (f : Pair → Pair) :
    (s.onPair n f).shift = s.shift := rfl
@[simp] theorem State.onPair_bgp (n : Nat) (f : Pair → Pair) :
    (s.onPair n f).bgp = s.bgp := rfl
@[simp] theorem State.onPair_dma (n : Nat) (f : Pair → Pair) :
    (s.onPair n f).dma = s.dma := rfl
@[simp] theorem State.onPair_host (n : Nat) (f : Pair → Pair) :
    (s.onPair n f).host = s.host := rfl
@[simp] theorem State.onPair_vec (n : Nat) (f : Pair → Pair) :
    (s.onPair n f).vec = s.vec := rfl
@[simp] theorem State.onPair_tap (n : Nat) (f : Pair → Pair) :
    (s.onPair n f).tap = s.tap := rfl

/-! ### onRun -/

@[simp] theorem State.onRun_pending (f : Run → Run) :
    (s.onRun f).pending = s.pending := rfl
@[simp] theorem State.onRun_out (f : Run → Run) :
    (s.onRun f).out = s.out := rfl
@[simp] theorem State.onRun_free (f : Run → Run) :
    (s.onRun f).free = s.free := rfl
@[simp] theorem State.onRun_time (f : Run → Run) :
    (s.onRun f).time = s.time := rfl
@[simp] theorem State.onRun_chip (f : Run → Run) :
    (s.onRun f).chip = s.chip := rfl
@[simp] theorem State.onRun_flash (f : Run → Run) :
    (s.onRun f).flash = s.flash := rfl
@[simp] theorem State.onRun_power (f : Run → Run) :
    (s.onRun f).power = s.power := rfl
@[simp] theorem State.onRun_place (f : Run → Run) :
    (s.onRun f).place = s.place := rfl
@[simp] theorem State.onRun_ports (f : Run → Run) :
    (s.onRun f).ports = s.ports := rfl
@[simp] theorem State.onRun_checks (f : Run → Run) :
    (s.onRun f).checks = s.checks := rfl
@[simp] theorem State.onRun_aq (f : Run → Run) :
    (s.onRun f).aq = s.aq := rfl
@[simp] theorem State.onRun_mem (f : Run → Run) :
    (s.onRun f).mem = s.mem := rfl
@[simp] theorem State.onRun_plots (f : Run → Run) :
    (s.onRun f).plots = s.plots := rfl
@[simp] theorem State.onRun_train (f : Run → Run) :
    (s.onRun f).train = { s.train with run := s.train.run.map f } := rfl
@[simp] theorem State.onRun_snap (f : Run → Run) :
    (s.onRun f).snap = s.snap := rfl
@[simp] theorem State.onRun_shift (f : Run → Run) :
    (s.onRun f).shift = s.shift := rfl
@[simp] theorem State.onRun_bgp (f : Run → Run) :
    (s.onRun f).bgp = s.bgp := rfl
@[simp] theorem State.onRun_dma (f : Run → Run) :
    (s.onRun f).dma = s.dma := rfl
@[simp] theorem State.onRun_host (f : Run → Run) :
    (s.onRun f).host = s.host := rfl
@[simp] theorem State.onRun_vec (f : Run → Run) :
    (s.onRun f).vec = s.vec := rfl
@[simp] theorem State.onRun_tap (f : Run → Run) :
    (s.onRun f).tap = s.tap := rfl

/-! ### onTime -/

@[simp] theorem State.onTime_pending (f : TimeBlock → TimeBlock) :
    (s.onTime f).pending = s.pending := rfl
@[simp] theorem State.onTime_out (f : TimeBlock → TimeBlock) :
    (s.onTime f).out = s.out := rfl
@[simp] theorem State.onTime_free (f : TimeBlock → TimeBlock) :
    (s.onTime f).free = s.free := rfl
@[simp] theorem State.onTime_time (f : TimeBlock → TimeBlock) :
    (s.onTime f).time = f s.time := rfl
@[simp] theorem State.onTime_chip (f : TimeBlock → TimeBlock) :
    (s.onTime f).chip = s.chip := rfl
@[simp] theorem State.onTime_flash (f : TimeBlock → TimeBlock) :
    (s.onTime f).flash = s.flash := rfl
@[simp] theorem State.onTime_power (f : TimeBlock → TimeBlock) :
    (s.onTime f).power = s.power := rfl
@[simp] theorem State.onTime_place (f : TimeBlock → TimeBlock) :
    (s.onTime f).place = s.place := rfl
@[simp] theorem State.onTime_ports (f : TimeBlock → TimeBlock) :
    (s.onTime f).ports = s.ports := rfl
@[simp] theorem State.onTime_checks (f : TimeBlock → TimeBlock) :
    (s.onTime f).checks = s.checks := rfl
@[simp] theorem State.onTime_aq (f : TimeBlock → TimeBlock) :
    (s.onTime f).aq = s.aq := rfl
@[simp] theorem State.onTime_mem (f : TimeBlock → TimeBlock) :
    (s.onTime f).mem = s.mem := rfl
@[simp] theorem State.onTime_plots (f : TimeBlock → TimeBlock) :
    (s.onTime f).plots = s.plots := rfl
@[simp] theorem State.onTime_train (f : TimeBlock → TimeBlock) :
    (s.onTime f).train = s.train := rfl
@[simp] theorem State.onTime_snap (f : TimeBlock → TimeBlock) :
    (s.onTime f).snap = s.snap := rfl
@[simp] theorem State.onTime_shift (f : TimeBlock → TimeBlock) :
    (s.onTime f).shift = s.shift := rfl
@[simp] theorem State.onTime_bgp (f : TimeBlock → TimeBlock) :
    (s.onTime f).bgp = s.bgp := rfl
@[simp] theorem State.onTime_dma (f : TimeBlock → TimeBlock) :
    (s.onTime f).dma = s.dma := rfl
@[simp] theorem State.onTime_host (f : TimeBlock → TimeBlock) :
    (s.onTime f).host = s.host := rfl
@[simp] theorem State.onTime_vec (f : TimeBlock → TimeBlock) :
    (s.onTime f).vec = s.vec := rfl
@[simp] theorem State.onTime_tap (f : TimeBlock → TimeBlock) :
    (s.onTime f).tap = s.tap := rfl

/-! ### onSnap -/

@[simp] theorem State.onSnap_pending (f : Snap → Snap) :
    (s.onSnap f).pending = s.pending := rfl
@[simp] theorem State.onSnap_out (f : Snap → Snap) :
    (s.onSnap f).out = s.out := rfl
@[simp] theorem State.onSnap_free (f : Snap → Snap) :
    (s.onSnap f).free = s.free := rfl
@[simp] theorem State.onSnap_time (f : Snap → Snap) :
    (s.onSnap f).time = s.time := rfl
@[simp] theorem State.onSnap_chip (f : Snap → Snap) :
    (s.onSnap f).chip = s.chip := rfl
@[simp] theorem State.onSnap_flash (f : Snap → Snap) :
    (s.onSnap f).flash = s.flash := rfl
@[simp] theorem State.onSnap_power (f : Snap → Snap) :
    (s.onSnap f).power = s.power := rfl
@[simp] theorem State.onSnap_place (f : Snap → Snap) :
    (s.onSnap f).place = s.place := rfl
@[simp] theorem State.onSnap_ports (f : Snap → Snap) :
    (s.onSnap f).ports = s.ports := rfl
@[simp] theorem State.onSnap_checks (f : Snap → Snap) :
    (s.onSnap f).checks = s.checks := rfl
@[simp] theorem State.onSnap_aq (f : Snap → Snap) :
    (s.onSnap f).aq = s.aq := rfl
@[simp] theorem State.onSnap_mem (f : Snap → Snap) :
    (s.onSnap f).mem = s.mem := rfl
@[simp] theorem State.onSnap_plots (f : Snap → Snap) :
    (s.onSnap f).plots = s.plots := rfl
@[simp] theorem State.onSnap_train (f : Snap → Snap) :
    (s.onSnap f).train = s.train := rfl
@[simp] theorem State.onSnap_snap (f : Snap → Snap) :
    (s.onSnap f).snap = f s.snap := rfl
@[simp] theorem State.onSnap_shift (f : Snap → Snap) :
    (s.onSnap f).shift = s.shift := rfl
@[simp] theorem State.onSnap_bgp (f : Snap → Snap) :
    (s.onSnap f).bgp = s.bgp := rfl
@[simp] theorem State.onSnap_dma (f : Snap → Snap) :
    (s.onSnap f).dma = s.dma := rfl
@[simp] theorem State.onSnap_host (f : Snap → Snap) :
    (s.onSnap f).host = s.host := rfl
@[simp] theorem State.onSnap_vec (f : Snap → Snap) :
    (s.onSnap f).vec = s.vec := rfl
@[simp] theorem State.onSnap_tap (f : Snap → Snap) :
    (s.onSnap f).tap = s.tap := rfl

/-! ### onBgp -/

@[simp] theorem State.onBgp_pending (f : Bgp → Bgp) :
    (s.onBgp f).pending = s.pending := rfl
@[simp] theorem State.onBgp_out (f : Bgp → Bgp) :
    (s.onBgp f).out = s.out := rfl
@[simp] theorem State.onBgp_free (f : Bgp → Bgp) :
    (s.onBgp f).free = s.free := rfl
@[simp] theorem State.onBgp_time (f : Bgp → Bgp) :
    (s.onBgp f).time = s.time := rfl
@[simp] theorem State.onBgp_chip (f : Bgp → Bgp) :
    (s.onBgp f).chip = s.chip := rfl
@[simp] theorem State.onBgp_flash (f : Bgp → Bgp) :
    (s.onBgp f).flash = s.flash := rfl
@[simp] theorem State.onBgp_power (f : Bgp → Bgp) :
    (s.onBgp f).power = s.power := rfl
@[simp] theorem State.onBgp_place (f : Bgp → Bgp) :
    (s.onBgp f).place = s.place := rfl
@[simp] theorem State.onBgp_ports (f : Bgp → Bgp) :
    (s.onBgp f).ports = s.ports := rfl
@[simp] theorem State.onBgp_checks (f : Bgp → Bgp) :
    (s.onBgp f).checks = s.checks := rfl
@[simp] theorem State.onBgp_aq (f : Bgp → Bgp) :
    (s.onBgp f).aq = s.aq := rfl
@[simp] theorem State.onBgp_mem (f : Bgp → Bgp) :
    (s.onBgp f).mem = s.mem := rfl
@[simp] theorem State.onBgp_plots (f : Bgp → Bgp) :
    (s.onBgp f).plots = s.plots := rfl
@[simp] theorem State.onBgp_train (f : Bgp → Bgp) :
    (s.onBgp f).train = s.train := rfl
@[simp] theorem State.onBgp_snap (f : Bgp → Bgp) :
    (s.onBgp f).snap = s.snap := rfl
@[simp] theorem State.onBgp_shift (f : Bgp → Bgp) :
    (s.onBgp f).shift = s.shift := rfl
@[simp] theorem State.onBgp_bgp (f : Bgp → Bgp) :
    (s.onBgp f).bgp = f s.bgp := rfl
@[simp] theorem State.onBgp_dma (f : Bgp → Bgp) :
    (s.onBgp f).dma = s.dma := rfl
@[simp] theorem State.onBgp_host (f : Bgp → Bgp) :
    (s.onBgp f).host = s.host := rfl
@[simp] theorem State.onBgp_vec (f : Bgp → Bgp) :
    (s.onBgp f).vec = s.vec := rfl
@[simp] theorem State.onBgp_tap (f : Bgp → Bgp) :
    (s.onBgp f).tap = s.tap := rfl

/-! ### onHost -/

@[simp] theorem State.onHost_pending (f : HostSide → HostSide) :
    (s.onHost f).pending = s.pending := rfl
@[simp] theorem State.onHost_out (f : HostSide → HostSide) :
    (s.onHost f).out = s.out := rfl
@[simp] theorem State.onHost_free (f : HostSide → HostSide) :
    (s.onHost f).free = s.free := rfl
@[simp] theorem State.onHost_time (f : HostSide → HostSide) :
    (s.onHost f).time = s.time := rfl
@[simp] theorem State.onHost_chip (f : HostSide → HostSide) :
    (s.onHost f).chip = s.chip := rfl
@[simp] theorem State.onHost_flash (f : HostSide → HostSide) :
    (s.onHost f).flash = s.flash := rfl
@[simp] theorem State.onHost_power (f : HostSide → HostSide) :
    (s.onHost f).power = s.power := rfl
@[simp] theorem State.onHost_place (f : HostSide → HostSide) :
    (s.onHost f).place = s.place := rfl
@[simp] theorem State.onHost_ports (f : HostSide → HostSide) :
    (s.onHost f).ports = s.ports := rfl
@[simp] theorem State.onHost_checks (f : HostSide → HostSide) :
    (s.onHost f).checks = s.checks := rfl
@[simp] theorem State.onHost_aq (f : HostSide → HostSide) :
    (s.onHost f).aq = s.aq := rfl
@[simp] theorem State.onHost_mem (f : HostSide → HostSide) :
    (s.onHost f).mem = s.mem := rfl
@[simp] theorem State.onHost_plots (f : HostSide → HostSide) :
    (s.onHost f).plots = s.plots := rfl
@[simp] theorem State.onHost_train (f : HostSide → HostSide) :
    (s.onHost f).train = s.train := rfl
@[simp] theorem State.onHost_snap (f : HostSide → HostSide) :
    (s.onHost f).snap = s.snap := rfl
@[simp] theorem State.onHost_shift (f : HostSide → HostSide) :
    (s.onHost f).shift = s.shift := rfl
@[simp] theorem State.onHost_bgp (f : HostSide → HostSide) :
    (s.onHost f).bgp = s.bgp := rfl
@[simp] theorem State.onHost_dma (f : HostSide → HostSide) :
    (s.onHost f).dma = s.dma := rfl
@[simp] theorem State.onHost_host (f : HostSide → HostSide) :
    (s.onHost f).host = f s.host := rfl
@[simp] theorem State.onHost_vec (f : HostSide → HostSide) :
    (s.onHost f).vec = s.vec := rfl
@[simp] theorem State.onHost_tap (f : HostSide → HostSide) :
    (s.onHost f).tap = s.tap := rfl

/-! ### emit -/

@[simp] theorem State.emit_pending (o : Output) :
    (s.emit o).pending = s.pending := rfl
@[simp] theorem State.emit_out (o : Output) :
    (s.emit o).out = s.out ++ [o] := rfl
@[simp] theorem State.emit_free (o : Output) :
    (s.emit o).free = s.free := rfl
@[simp] theorem State.emit_time (o : Output) :
    (s.emit o).time = s.time := rfl
@[simp] theorem State.emit_chip (o : Output) :
    (s.emit o).chip = s.chip := rfl
@[simp] theorem State.emit_flash (o : Output) :
    (s.emit o).flash = s.flash := rfl
@[simp] theorem State.emit_power (o : Output) :
    (s.emit o).power = s.power := rfl
@[simp] theorem State.emit_place (o : Output) :
    (s.emit o).place = s.place := rfl
@[simp] theorem State.emit_ports (o : Output) :
    (s.emit o).ports = s.ports := rfl
@[simp] theorem State.emit_checks (o : Output) :
    (s.emit o).checks = s.checks := rfl
@[simp] theorem State.emit_aq (o : Output) :
    (s.emit o).aq = s.aq := rfl
@[simp] theorem State.emit_mem (o : Output) :
    (s.emit o).mem = s.mem := rfl
@[simp] theorem State.emit_plots (o : Output) :
    (s.emit o).plots = s.plots := rfl
@[simp] theorem State.emit_train (o : Output) :
    (s.emit o).train = s.train := rfl
@[simp] theorem State.emit_snap (o : Output) :
    (s.emit o).snap = s.snap := rfl
@[simp] theorem State.emit_shift (o : Output) :
    (s.emit o).shift = s.shift := rfl
@[simp] theorem State.emit_bgp (o : Output) :
    (s.emit o).bgp = s.bgp := rfl
@[simp] theorem State.emit_dma (o : Output) :
    (s.emit o).dma = s.dma := rfl
@[simp] theorem State.emit_host (o : Output) :
    (s.emit o).host = s.host := rfl
@[simp] theorem State.emit_vec (o : Output) :
    (s.emit o).vec = s.vec := rfl
@[simp] theorem State.emit_tap (o : Output) :
    (s.emit o).tap = s.tap := rfl

/-! ### emits -/

@[simp] theorem State.emits_pending (os : List Output) :
    (s.emits os).pending = s.pending := rfl
@[simp] theorem State.emits_out (os : List Output) :
    (s.emits os).out = s.out ++ os := rfl
@[simp] theorem State.emits_free (os : List Output) :
    (s.emits os).free = s.free := rfl
@[simp] theorem State.emits_time (os : List Output) :
    (s.emits os).time = s.time := rfl
@[simp] theorem State.emits_chip (os : List Output) :
    (s.emits os).chip = s.chip := rfl
@[simp] theorem State.emits_flash (os : List Output) :
    (s.emits os).flash = s.flash := rfl
@[simp] theorem State.emits_power (os : List Output) :
    (s.emits os).power = s.power := rfl
@[simp] theorem State.emits_place (os : List Output) :
    (s.emits os).place = s.place := rfl
@[simp] theorem State.emits_ports (os : List Output) :
    (s.emits os).ports = s.ports := rfl
@[simp] theorem State.emits_checks (os : List Output) :
    (s.emits os).checks = s.checks := rfl
@[simp] theorem State.emits_aq (os : List Output) :
    (s.emits os).aq = s.aq := rfl
@[simp] theorem State.emits_mem (os : List Output) :
    (s.emits os).mem = s.mem := rfl
@[simp] theorem State.emits_plots (os : List Output) :
    (s.emits os).plots = s.plots := rfl
@[simp] theorem State.emits_train (os : List Output) :
    (s.emits os).train = s.train := rfl
@[simp] theorem State.emits_snap (os : List Output) :
    (s.emits os).snap = s.snap := rfl
@[simp] theorem State.emits_shift (os : List Output) :
    (s.emits os).shift = s.shift := rfl
@[simp] theorem State.emits_bgp (os : List Output) :
    (s.emits os).bgp = s.bgp := rfl
@[simp] theorem State.emits_dma (os : List Output) :
    (s.emits os).dma = s.dma := rfl
@[simp] theorem State.emits_host (os : List Output) :
    (s.emits os).host = s.host := rfl
@[simp] theorem State.emits_vec (os : List Output) :
    (s.emits os).vec = s.vec := rfl
@[simp] theorem State.emits_tap (os : List Output) :
    (s.emits os).tap = s.tap := rfl

end Sys2Proof.Machine
end

