-- ==== Sys2Proof/Laws/Keeps.lean ====
section
/-! SUPPORT. What every operation of the block keeps, said once as a relation between two states: the queue as it was,
what was sent out still sent, and the invariant if it held. `Keeps` looks at five fields only, so an update of any other
field keeps it by unfolding nothing. -/
namespace Sys2Proof.Machine

/-- The relation on the five fields it looks at. -/
structure KeepsOf (r : State) (pending : List Instr) (out : List Output) (time : TimeBlock) (aq : Aqvel)
    (mem : Memories) : Prop where
  pending : pending = r.pending
  out : r.out <+: out
  time : r.time.Ok → time.Ok
  aq : r.aq.Ok → aq.Ok
  mem : r.mem.Ok → mem.Ok

/-- `s` comes from `r` by steps that leave the queue alone, only add to what was sent, and keep the invariant. -/
def Keeps (r s : State) : Prop := KeepsOf r s.pending s.out s.time s.aq s.mem

/-- Every next state of an outcome keeps what `r` had. -/
def OutKeeps (r : State) (o : Out) : Prop := ∀ t, o = .next t → Keeps r t

theorem Keeps.refl (s : State) : Keeps s s := ⟨rfl, List.prefix_refl _, id, id, id⟩

theorem Keeps.inv {r s : State} (h : Keeps r s) (i : r.Inv) : s.Inv := ⟨h.time i.1, h.aq i.2.1, h.mem i.2.2⟩

/-- A state written out field by field. -/
theorem Keeps.mk_iff {r : State} {pending out free time chip flash power place ports checks aq mem plots train snap shift
    bgp dma host vec tap} :
    Keeps r ⟨pending, out, free, time, chip, flash, power, place, ports, checks, aq, mem, plots, train, snap, shift, bgp,
      dma, host, vec, tap⟩ ↔ KeepsOf r pending out time aq mem := Iff.rfl

/-- The five fields of one state. -/
theorem KeepsOf.parts_iff {r s : State} : KeepsOf r s.pending s.out s.time s.aq s.mem ↔ Keeps r s := Iff.rfl

theorem OutKeeps.next {r s : State} (h : Keeps r s) : OutKeeps r (.next s) := by
  rintro t ⟨⟩
  exact h

theorem OutKeeps.fault {r : State} (f : Fault) : OutKeeps r (.fault f) := fun _ h => nomatch h

theorem OutKeeps.refused {r : State} (f : Refusal) : OutKeeps r (.refused f) := fun _ h => nomatch h

/-- A reply whose states keep what `r` had. -/
def Reply.Keeps (r : State) : Reply → Prop
  | .fail _ _ => True
  | .done _ _ t => Machine.Keeps r t
  | .ended _ _ _ t => Machine.Keeps r t
  | .accepted t => Machine.Keeps r t
  | .acceptedThen t f => Machine.Keeps r t ∧ ∀ u, Machine.Keeps r u → Machine.Keeps r (f u)
  | .doneThen _ _ t f => Machine.Keeps r t ∧ ∀ u, Machine.Keeps r u → Machine.Keeps r (f u)

theorem Reply.keeps_fail {r : State} {st d : Nat} : (Reply.fail st d).Keeps r := trivial
theorem Reply.keeps_done {r t : State} {d x : Nat} (h : Machine.Keeps r t) : (Reply.done d x t).Keeps r := h
theorem Reply.keeps_ended {r t : State} {st d x : Nat} (h : Machine.Keeps r t) : (Reply.ended st d x t).Keeps r := h
theorem Reply.keeps_accepted {r t : State} (h : Machine.Keeps r t) : (Reply.accepted t).Keeps r := h
theorem Reply.keeps_acceptedThen {r t : State} {f : State → State} (h : Machine.Keeps r t)
    (hf : ∀ u, Machine.Keeps r u → Machine.Keeps r (f u)) : (Reply.acceptedThen t f).Keeps r := ⟨h, hf⟩
theorem Reply.keeps_doneThen {r t : State} {d x : Nat} {f : State → State} (h : Machine.Keeps r t)
    (hf : ∀ u, Machine.Keeps r u → Machine.Keeps r (f u)) : (Reply.doneThen d x t f).Keeps r := ⟨h, hf⟩

/-! ### Folds -/

theorem foldl_keeps {α : Type} {r : State} {f : State → α → State} {l : List α} {s : State} (h : Keeps r s)
    (hf : ∀ s x, Keeps r s → Keeps r (f s x)) : Keeps r (l.foldl f s) := by
  induction l generalizing s with
  | nil => exact h
  | cons x l ih => exact ih (hf s x h)

theorem foldl_keeps_on {α β : Type} {r : State} (g : β → State) {f : β → α → β} {l : List α} {b : β} (h : Keeps r (g b))
    (hf : ∀ b x, Keeps r (g b) → Keeps r (g (f b x))) : Keeps r (g (l.foldl f b)) := by
  induction l generalizing b with
  | nil => exact h
  | cons x l ih => exact ih (hf b x h)

theorem foldl_keeps_fst {α β : Type} {r : State} {f : State × β → α → State × β} {l : List α} {b : State × β}
    (h : Keeps r b.1) (hf : ∀ b x, Keeps r b.1 → Keeps r (f b x).1) : Keeps r (l.foldl f b).1 :=
  foldl_keeps_on Prod.fst h hf

theorem foldl_keeps_snd {α β : Type} {r : State} {f : β × State → α → β × State} {l : List α} {b : β × State}
    (h : Keeps r b.2) (hf : ∀ b x, Keeps r b.2 → Keeps r (f b x).2) : Keeps r (l.foldl f b).2 :=
  foldl_keeps_on Prod.snd h hf

theorem foldl_keeps_third {α β γ : Type} {r : State} {f : β × γ × State → α → β × γ × State} {l : List α}
    {b : β × γ × State} (h : Keeps r b.2.2) (hf : ∀ b x, Keeps r b.2.2 → Keeps r (f b x).2.2) :
    Keeps r (l.foldl f b).2.2 :=
  foldl_keeps_on (fun b : β × γ × State => b.2.2) h hf

theorem foldl_keeps_mid {α β γ : Type} {r : State} {f : β × State × γ → α → β × State × γ} {l : List α}
    {b : β × State × γ} (h : Keeps r b.2.1) (hf : ∀ b x, Keeps r b.2.1 → Keeps r (f b x).2.1) :
    Keeps r (l.foldl f b).2.1 :=
  foldl_keeps_on (fun b : β × State × γ => b.2.1) h hf

/-- Whether a controller's tables are within bounds rests on the log and the journal alone. -/
theorem Aqvel.ok_of {a b : Aqvel} (e : b.events = a.events) (j : b.journal = a.journal) (h : a.Ok) : b.Ok := by
  unfold Aqvel.Ok at *
  rw [e, j]
  exact h

/-! ### The named updates -/

variable {r s : State}

theorem onPort_keeps {p : Nat} {f : Port → Port} (h : Keeps r s) : Keeps r (s.onPort p f) := h
theorem onCheck_keeps {p : Nat} {f : PortCheck → PortCheck} (h : Keeps r s) : Keeps r (s.onCheck p f) := h
theorem onPorts_keeps {f : Port → Port} (h : Keeps r s) : Keeps r (s.onPorts f) := h
theorem onPlot_keeps {n : Nat} {f : Plot → Plot} (h : Keeps r s) : Keeps r (s.onPlot n f) := h
theorem setPlot0_keeps {p : PlotState} (h : Keeps r s) : Keeps r (s.setPlot0 p) := h
theorem onTrain_keeps {f : Train → Train} (h : Keeps r s) : Keeps r (s.onTrain f) := h
theorem onRun_keeps {f : Run → Run} (h : Keeps r s) : Keeps r (s.onRun f) := h
theorem onSnap_keeps {f : Snap → Snap} (h : Keeps r s) : Keeps r (s.onSnap f) := h
theorem onBgp_keeps {f : Bgp → Bgp} (h : Keeps r s) : Keeps r (s.onBgp f) := h
theorem onHost_keeps {f : HostSide → HostSide} (h : Keeps r s) : Keeps r (s.onHost f) := h
theorem draw_keeps (h : Keeps r s) : Keeps r s.draw.2 := h

theorem onAq_keeps {f : Aqvel → Aqvel} (h : Keeps r s) (hf : ∀ a : Aqvel, a.Ok → (f a).Ok) : Keeps r (s.onAq f) :=
  ⟨h.pending, h.out, h.time, fun i => hf _ (h.aq i), h.mem⟩

theorem onPair_keeps {n : Nat} {f : Pair → Pair} (h : Keeps r s) : Keeps r (s.onPair n f) :=
  onAq_keeps h fun _ i => i

theorem onTime_keeps {f : TimeBlock → TimeBlock} (h : Keeps r s) (hf : ∀ t : TimeBlock, t.Ok → (f t).Ok) :
    Keeps r (s.onTime f) :=
  ⟨h.pending, h.out, fun i => hf _ (h.time i), h.aq, h.mem⟩

theorem onMem_keeps {f : Memories → Memories} (h : Keeps r s) (hf : ∀ m : Memories, m.Ok → (f m).Ok) :
    Keeps r (s.onMem f) :=
  ⟨h.pending, h.out, h.time, h.aq, fun i => hf _ (h.mem i)⟩

theorem mem_modifyAt {α : Type} {l : List α} {n : Nat} {f : α → α} {y : α} (h : y ∈ modifyAt l n f) :
    y ∈ l ∨ ∃ x ∈ l, y = f x := by
  obtain ⟨i, hi, rfl⟩ := List.getElem_of_mem h
  unfold modifyAt at *
  rw [List.getElem_modify]
  split
  · exact .inr ⟨_, List.getElem_mem _, rfl⟩
  · exact .inl (List.getElem_mem _)

theorem onTile_keeps {t : Nat} {f : Tile → Tile} (h : Keeps r s)
    (hf : ∀ t : Tile, t.wf = true → (f t).wf = true) : Keeps r (s.onTile t f) :=
  onMem_keeps h fun m i => ⟨i.1, fun y hy => by
    rcases mem_modifyAt hy with hy | ⟨x, hx, rfl⟩
    · exact i.2 y hy
    · exact hf x (i.2 x hx)⟩

/-- HBM replaced by what comes of it. -/
theorem onHbm_keeps {w : Mem} (h : Keeps r s) (hw : s.mem.hbm.wf = true → w.wf = true) :
    Keeps r (s.onMem fun m => { m with hbm := w }) :=
  ⟨h.pending, h.out, h.time, h.aq, fun i => ⟨hw (h.mem i).1, (h.mem i).2⟩⟩

theorem tile_wf (h : s.mem.Ok) (t : Nat) : (s.tile t).wf = true := by
  unfold State.tile nth
  cases e : s.mem.tiles[t]? with
  | none => simp [List.getD, e, Tile.reset, Tile.wf]
  | some x => simpa [List.getD, e] using h.2 x (List.mem_of_getElem? e)

/-- A tile replaced by what comes of some tile. -/
theorem setTile_keeps {t : Nat} {w : Tile} (h : Keeps r s) (u : Nat) (hw : (s.tile u).wf = true → w.wf = true) :
    Keeps r (s.onTile t fun _ => w) :=
  ⟨h.pending, h.out, h.time, h.aq, fun i => ⟨(h.mem i).1, fun y hy => by
    rcases mem_modifyAt hy with hy | ⟨x, _, rfl⟩
    · exact (h.mem i).2 y hy
    · exact hw (tile_wf (h.mem i) u)⟩⟩

/-- Every tile changed, its SRAM kept in form. -/
theorem onTiles_keeps {g : Tile → Tile} (h : Keeps r s) (hg : ∀ t : Tile, t.wf = true → (g t).wf = true) :
    Keeps r (s.onMem fun m => { m with tiles := m.tiles.map g }) :=
  onMem_keeps h fun m i => ⟨i.1, fun y hy => by
    obtain ⟨x, hx, rfl⟩ := List.mem_map.1 hy
    exact hg x (i.2 x hx)⟩

theorem foldl_clearStack_wf {m : Mem} (h : m.wf = true) (ks : List Nat) : (ks.foldl clearStack m).wf = true := by
  induction ks generalizing m with
  | nil => exact h
  | cons k ks ih => exact ih (clearStack_wf h k)

theorem onStack_keeps {k : Nat} {f : Stack → Stack} (h : Keeps r s) : Keeps r (s.onStack k f) :=
  onMem_keeps h fun _ i => i

theorem emit_keeps {o : Output} (h : Keeps r s) : Keeps r (s.emit o) :=
  ⟨h.pending, h.out.trans (List.prefix_append _ _), h.time, h.aq, h.mem⟩

theorem emits_keeps {os : List Output} (h : Keeps r s) : Keeps r (s.emits os) :=
  ⟨h.pending, h.out.trans (List.prefix_append _ _), h.time, h.aq, h.mem⟩

theorem withFaultN_keeps {f : State → State} (h : Keeps r (f s)) : Keeps r (s.withFaultN f) := by
  unfold State.withFaultN
  dsimp only
  split
  · exact h
  · exact emit_keeps h

end Sys2Proof.Machine
end

