-- ==== Sys2Proof/Laws/KeepsOps.lean ====
section
/-! SUPPORT. One lemma per operation: what it keeps (Keeps.lean), for the shared operations, faults, halts, the command pipeline and the memory operations. -/
namespace Sys2Proof.Machine

/-! ### Ops.lean -/

theorem State.signal_keeps {r₀ : State} (s : State) (fn : Nat) (vec : Nat) (hk : Keeps r₀ s) :
    Keeps r₀ (State.signal s fn vec) := by
  unfold State.signal
  try dsimp only
  repeat' with_reducible first
    | assumption | apply onHost_keeps | apply emit_keeps | split

theorem State.signalEvent_keeps {r₀ : State} (s : State) (hk : Keeps r₀ s) :
    Keeps r₀ (State.signalEvent s) := by
  unfold State.signalEvent
  try dsimp only
  repeat' with_reducible first
    | assumption | apply State.signal_keeps | refine foldl_keeps ?_ fun _ _ _ => ?_

theorem placeEvent_length (l : List Event) (e : Event) (acc : List Event) :
    (placeEvent l e acc).length = l.length + acc.length + 1 := by
  induction l generalizing e acc with
  | nil => simp [placeEvent]
  | cons o l ih =>
    simp only [placeEvent]
    split
    · rw [ih]
      simp
      omega
    · simp
      omega

/-- Room is made before an event is stored, so the log stays within 16,384 entries. -/
theorem Aqvel.event_ok {a : Aqvel} (h : a.Ok) (t st code kind idx : Nat) (ps : List Byte) :
    ((a.makeRoom t st).store t st code kind idx ps).Ok := by
  unfold Aqvel.Ok at *
  have e : ∀ (b : Aqvel) (code kind idx : Nat) (ps : List Byte),
      (b.store t st code kind idx ps).events.length = b.events.length + 1 := by
    intro b code kind idx ps
    simp [Aqvel.store, placeEvent_length]
  refine ⟨?_, ?_⟩
  · rw [e]
    unfold Aqvel.makeRoom
    split
    · omega
    · dsimp only
      rw [e, List.length_drop]
      omega
  · have j : ∀ (b : Aqvel) (code kind idx : Nat) (ps : List Byte), (b.store t st code kind idx ps).journal = b.journal :=
      fun _ _ _ _ _ => rfl
    rw [j]
    unfold Aqvel.makeRoom
    split
    · exact h.2
    · dsimp only
      rw [j]
      exact h.2

theorem State.eventOf_keeps {r₀ : State} (s : State) (step code kind idx : Nat) (params : List Byte)
    (h : Keeps r₀ s) :
    Keeps r₀ (State.eventOf s step code kind idx params) :=
  State.signalEvent_keeps _ (onAq_keeps h fun _ i => Aqvel.event_ok i _ _ _ _ _ _)

theorem State.event_keeps {r₀ : State} (s : State) (code : Nat) (kind : Nat) (idx : Nat) (params : List Byte)
    (hk : Keeps r₀ s) :
    Keeps r₀ (State.event s code kind idx params) := by
  unfold State.event
  try dsimp only
  repeat' with_reducible first
    | assumption | apply State.eventOf_keeps

theorem State.journal_keeps {r₀ : State} (s : State) (opcode status flags : Nat) (c : Slot) (h : Keeps r₀ s) :
    Keeps r₀ (State.journal s opcode status flags c) := by
  refine onAq_keeps h fun a i => ?_
  have e : ∀ l : List (Nat × List Byte), (l.take 4096).reverse.length ≤ 4096 := fun l => by
    rw [List.length_reverse, List.length_take]
    exact Nat.min_le_left _ _
  unfold Aqvel.Ok at *
  exact ⟨i.1, e _⟩

theorem State.deliver_keeps {r₀ : State} (s : State) (c : Slot) (gen : Nat) (e : Completion) (hk : Keeps r₀ s) :
    Keeps r₀ (State.deliver s c gen e) := by
  unfold State.deliver
  try dsimp only
  repeat' with_reducible first
    | assumption | apply onPair_keeps | apply emit_keeps | split

theorem State.remember_keeps {r₀ : State} (s : State) (c : Slot) (gen : Nat) (e : Completion) (hk : Keeps r₀ s) :
    Keeps r₀ (State.remember s c gen e) := by
  unfold State.remember
  try dsimp only
  repeat' first
    | exact fun _ i => i
    | with_reducible first
        | assumption | apply onAq_keeps | split

theorem State.post_keeps {r₀ : State} (s : State) (opcode : Nat) (c : Slot) (gen : Nat) (status : Nat)
    (detail : Nat) (result : Nat) (flags : Nat) (journaled : Bool) (hk : Keeps r₀ s) :
    Keeps r₀ (State.post s opcode c gen status detail result flags journaled) := by
  unfold State.post
  try dsimp only
  repeat' with_reducible first
    | assumption | apply State.journal_keeps | apply State.deliver_keeps | apply State.remember_keeps | split

theorem State.endJob_keeps {r₀ : State} (s : State) (j : Job) (status : Nat) (detail : Nat) (result : Nat)
    (hk : Keeps r₀ s) :
    Keeps r₀ (State.endJob s j status detail result) := by
  unfold State.endJob
  try dsimp only
  repeat' first
    | exact fun _ i => i
    | with_reducible first
        | assumption | apply State.post_keeps | apply onAq_keeps

theorem State.endOp_keeps {r₀ : State} (s : State) (opcode : Nat) (status : Nat) (detail : Nat) (result : Nat)
    (hk : Keeps r₀ s) :
    Keeps r₀ (State.endOp s opcode status detail result) := by
  unfold State.endOp
  try dsimp only
  repeat' with_reducible first
    | assumption | apply State.endJob_keeps | split

theorem State.abortJobs_keeps {r₀ : State} (s : State) (f : Job → Bool) (detail : Nat) (result : Nat)
    (hk : Keeps r₀ s) :
    Keeps r₀ (State.abortJobs s f detail result) := by
  unfold State.abortJobs
  try dsimp only
  repeat' with_reducible first
    | assumption | apply State.endJob_keeps | refine foldl_keeps ?_ fun _ _ _ => ?_

theorem State.addJob_keeps {r₀ : State} (s : State) (opcode : Nat) (c : Slot) (hk : Keeps r₀ s) :
    Keeps r₀ (State.addJob s opcode c) := by
  unfold State.addJob
  try dsimp only
  repeat' first
    | exact fun _ i => i
    | with_reducible first
        | assumption | apply onAq_keeps

theorem State.reply_keeps {r₀ : State} (s : State) (opcode : Nat) (c : Slot) (status : Nat) (detail : Nat)
    (result : Nat) (hk : Keeps r₀ s) :
    Keeps r₀ (State.reply s opcode c status detail result) := by
  unfold State.reply
  try dsimp only
  repeat' with_reducible first
    | assumption | apply State.post_keeps

theorem State.reject_keeps {r₀ : State} (s : State) (opcode : Nat) (c : Slot) (status : Nat) (detail : Nat)
    (flags : Nat) (journaled : Bool) (hk : Keeps r₀ s) :
    Keeps r₀ (State.reject s opcode c status detail flags journaled) := by
  unfold State.reject
  try dsimp only
  repeat' with_reducible first
    | assumption | apply State.journal_keeps | apply State.deliver_keeps | split

/-! ### Faults.lean -/

theorem State.writeRecord_keeps {r₀ : State} (s : State) (f : FaultRec) (outcome : Nat) (h : Keeps r₀ s) :
    Keeps r₀ (State.writeRecord s f outcome) := by
  unfold State.writeRecord
  simp only [Keeps.mk_iff]
  exact ⟨h.pending, h.out, h.time, fun i => Aqvel.ok_of (a := s.aq) rfl rfl (h.aq i), h.mem⟩

theorem State.notice_keeps {r₀ : State} (s : State) (kind : Nat) (w : Site) (outcome : Nat) (plot : Nat)
    (hk : Keeps r₀ s) :
    Keeps r₀ (State.notice s kind w outcome plot) := by
  unfold State.notice
  try dsimp only
  repeat' with_reducible first
    | assumption | apply State.writeRecord_keeps | apply State.event_keeps

theorem State.countStack_keeps {r₀ : State} (s : State) (k : Nat) (n : Nat) (hk : Keeps r₀ s) :
    Keeps r₀ (State.countStack s k n) := by
  unfold State.countStack
  try dsimp only
  repeat' with_reducible first
    | assumption | apply onStack_keeps | apply State.notice_keeps | split

theorem State.declareSuspect_keeps {r₀ : State} (s : State) (w : Site) (hk : Keeps r₀ s) :
    Keeps r₀ (State.declareSuspect s w) := by
  unfold State.declareSuspect
  try dsimp only
  repeat' with_reducible first
    | assumption | apply withFaultN_keeps | apply State.notice_keeps | apply onTrain_keeps | apply onRun_keeps
    | simp only [Keeps.mk_iff, KeepsOf.parts_iff] | split

theorem State.linkFault_keeps {r₀ : State} (s : State) (p : Nat) (reason : Nat) (hk : Keeps r₀ s) :
    Keeps r₀ (State.linkFault s p reason) := by
  unfold State.linkFault
  try dsimp only
  repeat' with_reducible first
    | assumption | apply onPort_keeps | apply State.notice_keeps | split

theorem State.recur_keeps {r₀ : State} (s : State) (f : FaultRec) (w : Site) (hk : Keeps r₀ s) :
    Keeps r₀ (State.recur s f w) := by
  unfold State.recur
  try dsimp only
  repeat' with_reducible first
    | assumption | apply State.declareSuspect_keeps | apply onRun_keeps | apply State.linkFault_keeps | split

theorem State.failCheckIn_keeps {r₀ : State} (s : State) (phase : Nat) (kind : Nat) (w : Site) (paired : Bool)
    (hk : Keeps r₀ s) :
    Keeps r₀ (State.failCheckIn s phase kind w paired) := by
  unfold State.failCheckIn
  dsimp only
  have ht := State.event_keeps _ kind w.source.1 w.source.2 (w.params 1) hk
  generalize s.event kind w.source.1 w.source.2 (w.params 1) = t at ht
  split
  · exact State.writeRecord_keeps _ _ _ ht
  · by_cases hv : (!s.voted) = true
    · simp only [hv, if_true]
      split
      · exact State.recur_keeps _ _ _ (onRun_keeps ht)
      · exact onRun_keeps ht
    · simp only [hv]
      have h2 : ∀ (a : Bool) f g, Keeps r₀ (if a = true then (t.onRun f).recur g w else t.onRun f) := fun a f g => by
        split
        · exact State.recur_keeps _ _ _ (onRun_keeps ht)
        · exact onRun_keeps ht
      have h3 : ∀ (a : Bool) f g k,
          Keeps r₀ (((if a = true then (t.onRun f).recur g w else t.onRun f).onRun k).declareSuspect w) := fun a f g k =>
        State.declareSuspect_keeps _ _ (onRun_keeps (h2 a f g))
      have h4 : ∀ (a : Bool) f g k,
          Keeps r₀ ((if a = true then (t.onRun f).recur g w else t.onRun f).onTrain k) := fun a f g k =>
        onTrain_keeps (h2 a f g)
      simp only [Bool.false_eq_true, if_false]
      repeat' with_reducible first | apply h2 | apply h3 | apply h4 | split

theorem State.failCheck_keeps {r₀ : State} (s : State) (kind : Nat) (w : Site) (paired : Bool) (hk : Keeps r₀ s) :
    Keeps r₀ (State.failCheck s kind w paired) := by
  unfold State.failCheck
  try dsimp only
  repeat' with_reducible first
    | assumption | apply State.failCheckIn_keeps

theorem State.seenHost_keeps {r₀ : State} (s : State) (ks : List Nat) (x : Seen) (hk : Keeps r₀ s) :
    Keeps r₀ (State.seenHost s ks x) := by
  unfold State.seenHost
  try dsimp only
  repeat' with_reducible first
    | assumption | apply State.countStack_keeps | apply onStack_keeps | apply State.failCheck_keeps
    | apply State.notice_keeps | refine foldl_keeps ?_ fun _ _ _ => ?_ | split

theorem State.countTile_keeps {r₀ : State} (s : State) (i : Nat) (n : Nat) (hk : Keeps r₀ s) :
    Keeps r₀ (State.countTile s i n) := by
  unfold State.countTile
  try dsimp only
  repeat' first
    | exact fun _ i => i
    | with_reducible first
        | assumption | apply onTile_keeps | apply State.notice_keeps | split

theorem State.passFault_keeps {r₀ : State} (s : State) (plot : Nat) (kind : Nat) (w : Site) (failed : Bool)
    (hk : Keeps r₀ s) :
    Keeps r₀ (State.passFault s plot kind w failed) := by
  unfold State.passFault
  try dsimp only
  repeat' with_reducible first
    | assumption | apply onPlot_keeps | apply State.event_keeps

theorem State.plotFault_keeps {r₀ : State} (s : State) (plot : Nat) (kind : Nat) (w : Site) (paired : Bool)
    (hk : Keeps r₀ s) :
    Keeps r₀ (State.plotFault s plot kind w paired) := by
  unfold State.plotFault
  try dsimp only
  repeat' with_reducible first
    | assumption | apply State.failCheck_keeps | apply State.passFault_keeps | split

theorem State.seenSram_keeps {r₀ : State} (s : State) (plot : Nat) (tile : Nat) (unit : Nat) (desc : Nat)
    (paired : Bool) (x : Seen) (hk : Keeps r₀ s) :
    Keeps r₀ (State.seenSram s plot tile unit desc paired x) := by
  unfold State.seenSram
  try dsimp only
  repeat' with_reducible first
    | assumption | apply State.countTile_keeps | apply State.plotFault_keeps
    | refine foldl_keeps ?_ fun _ _ _ => ?_

theorem State.saturation_keeps {r₀ : State} (s : State) (plot : Nat) (w : Site) (tile : Nat) (rec : Nat)
    (hk : Keeps r₀ s) :
    Keeps r₀ (State.saturation s plot w tile rec) := by
  unfold State.saturation
  try dsimp only
  repeat' with_reducible first
    | assumption | apply onRun_keeps | apply State.event_keeps | apply State.failCheck_keeps
    | apply onPlot_keeps | apply State.passFault_keeps | split

theorem State.pastFault_keeps {r₀ : State} (s : State) (r : Run) (phase : Nat) (kind : Nat) (w : Site)
    (hk : Keeps r₀ s) :
    Keeps r₀ (State.pastFault s r phase kind w) := by
  unfold State.pastFault
  try dsimp only
  repeat' with_reducible first
    | assumption | apply State.writeRecord_keeps | apply State.eventOf_keeps | apply onTrain_keeps | split

theorem State.faultOf_keeps {r₀ : State} (s : State) (r : Run) (phase : Nat) (kind : Nat) (w : Site)
    (hk : Keeps r₀ s) :
    Keeps r₀ (State.faultOf s r phase kind w) := by
  unfold State.faultOf
  try dsimp only
  repeat' with_reducible first
    | assumption | apply State.failCheckIn_keeps | apply State.pastFault_keeps | split

theorem State.closePass_keeps {r₀ : State} (s : State) (plot : Nat) (hk : Keeps r₀ s) :
    Keeps r₀ (State.closePass s plot) := by
  unfold State.closePass
  try dsimp only
  repeat' with_reducible first
    | assumption | apply onPlot_keeps | apply State.writeRecord_keeps | refine foldl_keeps ?_ fun _ _ _ => ?_
    | split

theorem State.settlePrev_keeps {r₀ : State} (s : State) (hk : Keeps r₀ s) :
    Keeps r₀ (State.settlePrev s) := by
  unfold State.settlePrev
  try dsimp only
  repeat' with_reducible first
    | assumption | apply onTrain_keeps | apply State.writeRecord_keeps | refine foldl_keeps ?_ fun _ _ _ => ?_
    | split

theorem State.closeRun_keeps {r₀ : State} (s : State) (hk : Keeps r₀ s) :
    Keeps r₀ (State.closeRun s) := by
  unfold State.closeRun
  try dsimp only
  repeat' with_reducible first
    | assumption | apply State.settlePrev_keeps | apply onRun_keeps | apply State.writeRecord_keeps
    | refine foldl_keeps ?_ fun _ _ _ => ?_ | split

theorem State.seenHbm_keeps {r₀ : State} (s : State) (plot : Nat) (ks : List Nat) (desc : Nat) (paired : Bool)
    (x : Seen) (hk : Keeps r₀ s) :
    Keeps r₀ (State.seenHbm s plot ks desc paired x) := by
  unfold State.seenHbm
  try dsimp only
  repeat' with_reducible first
    | assumption | apply State.countStack_keeps | apply onStack_keeps | apply State.plotFault_keeps
    | refine foldl_keeps ?_ fun _ _ _ => ?_

theorem State.settle_keeps {r₀ : State} (s : State) (limit : Bool) (hk : Keeps r₀ s) :
    Keeps r₀ (State.settle s limit) := by
  unfold State.settle
  try dsimp only
  repeat' with_reducible first
    | assumption | apply State.settlePrev_keeps | apply onRun_keeps | apply State.writeRecord_keeps
    | refine foldl_keeps ?_ fun _ _ _ => ?_ | split

/-! ### ProfileRec.lean -/

theorem State.takeProfile_keeps {r₀ : State} (s : State) (n : Nat) (b : List Byte) (hk : Keeps r₀ s) :
    Keeps r₀ (State.takeProfile s n b) := by
  unfold State.takeProfile
  try dsimp only
  repeat' with_reducible first
    | assumption | simp only [Keeps.mk_iff, KeepsOf.parts_iff]

/-! ### Packets.lean -/

theorem State.countBgp_keeps {r₀ : State} (s : State) (i : Nat) (hk : Keeps r₀ s) :
    Keeps r₀ (State.countBgp s i) := by
  unfold State.countBgp
  try dsimp only
  repeat' with_reducible first
    | assumption | apply onBgp_keeps

theorem State.countsBgp_keeps {r₀ : State} (s : State) (i : Nat) (n : Nat) (hk : Keeps r₀ s) :
    Keeps r₀ (State.countsBgp s i n) := by
  unfold State.countsBgp
  try dsimp only
  repeat' with_reducible first
    | assumption | apply onBgp_keeps

/-! ### Halt.lean -/

theorem State.onQ_keeps {r₀ : State} (s : State) (q : Nat) (f : DmaQueue → DmaQueue) (hk : Keeps r₀ s) :
    Keeps r₀ (State.onQ s q f) := by
  unfold State.onQ
  try dsimp only
  repeat' with_reducible first
    | assumption | simp only [Keeps.mk_iff, KeepsOf.parts_iff] | split

theorem State.drained_keeps {r₀ : State} (s : State) (q : Nat) (hk : Keeps r₀ s) :
    Keeps r₀ (State.drained s q) := by
  unfold State.drained
  try dsimp only
  repeat' with_reducible first
    | assumption | apply State.onQ_keeps | split

theorem State.copyDone_keeps {r₀ : State} (s : State) (q : Nat) (ring : Nat) (tag : Nat) (signal : Bool)
    (status : Nat) (count : Nat) (bytes : Nat) (hk : Keeps r₀ s) :
    Keeps r₀ (State.copyDone s q ring tag signal status count bytes) := by
  unfold State.copyDone
  try dsimp only
  repeat' with_reducible first
    | assumption | apply emit_keeps | apply State.onQ_keeps | apply State.signal_keeps | split

theorem State.sendDone_keeps {r₀ : State} (s : State) (idx : Nat) (status : Nat) (cause : Nat) (bytes : Nat)
    (hk : Keeps r₀ s) :
    Keeps r₀ (State.sendDone s idx status cause bytes) := by
  unfold State.sendDone
  try dsimp only
  repeat' with_reducible first
    | assumption | apply State.drained_keeps | apply State.copyDone_keeps
    | simp only [Keeps.mk_iff, KeepsOf.parts_iff] | split

theorem State.dropHamper_keeps {r₀ : State} (s : State) (hk : Keeps r₀ s) :
    Keeps r₀ (State.dropHamper s) := by
  unfold State.dropHamper
  try dsimp only
  repeat' with_reducible first
    | assumption | apply onSnap_keeps | apply onHost_keeps | apply onBgp_keeps

theorem State.failHamper_keeps {r₀ : State} (s : State) (status : Nat) (detail : Nat) (result : Nat)
    (hk : Keeps r₀ s) :
    Keeps r₀ (State.failHamper s status detail result) := by
  unfold State.failHamper
  try dsimp only
  repeat' with_reducible first
    | assumption | apply State.dropHamper_keeps | apply State.endOp_keeps | split

theorem State.dropWork_keeps {r₀ : State} (s : State) (opcode : Nat) (hk : Keeps r₀ s) :
    Keeps r₀ (State.dropWork s opcode) := by
  unfold State.dropWork
  try dsimp only
  repeat' first
    | exact fun _ i => i
    | with_reducible first
        | assumption | apply onTrain_keeps | apply onPorts_keeps | apply onTime_keeps
        | simp only [Keeps.mk_iff, KeepsOf.parts_iff] | split

theorem State.abortWork_keeps {r₀ : State} (s : State) (f : Job → Bool) (hk : Keeps r₀ s) :
    Keeps r₀ (State.abortWork s f) := by
  unfold State.abortWork
  try dsimp only
  repeat' with_reducible first
    | assumption | apply State.dropWork_keeps | apply State.endJob_keeps
    | refine foldl_keeps ?_ fun _ _ _ => ?_

theorem State.dropSeal_keeps {r₀ : State} (s : State) (hk : Keeps r₀ s) :
    Keeps r₀ (State.dropSeal s) := by
  unfold State.dropSeal
  try dsimp only
  repeat' with_reducible first
    | assumption | apply State.endJob_keeps | split

theorem State.endHamper_keeps {r₀ : State} (s : State) (hk : Keeps r₀ s) :
    Keeps r₀ (State.endHamper s) := by
  unfold State.endHamper
  try dsimp only
  repeat' with_reducible first
    | assumption | apply State.dropSeal_keeps | apply State.failHamper_keeps

theorem State.cleared_keeps {r₀ : State} (s : State) (cause : Nat) (vioLost full : Bool) (h : Keeps r₀ s) :
    Keeps r₀ (State.cleared s cause vioLost full) := by
  refine ⟨h.pending, h.out, fun _ => Nat.zero_lt_succ _, fun i => ⟨Nat.zero_le _, ?_⟩, fun _ => ⟨rfl, fun t ht => ?_⟩⟩
  · show (if vioLost then [] else s.aq.journal).length ≤ 4096
    split
    · exact Nat.zero_le _
    · exact (h.aq i).2
  · rw [List.eq_of_mem_replicate ht]
    rfl

theorem State.clearedTo_keeps {r₀ : State} (s : State) (cause : Nat) (vioLost : Bool) (full : Bool)
    (hk : Keeps r₀ s) :
    Keeps r₀ (State.clearedTo s cause vioLost full) := by
  unfold State.clearedTo
  try dsimp only
  repeat' with_reducible first
    | assumption | apply State.cleared_keeps | apply State.takeProfile_keeps | split

theorem State.pinTo_keeps {r₀ : State} (s : State) (land : Nat) (old : Bool) (new : Bool) (hk : Keeps r₀ s) :
    Keeps r₀ (State.pinTo s land old new) := by
  unfold State.pinTo
  try dsimp only
  repeat' with_reducible first
    | assumption | apply emit_keeps | split

theorem State.chipReset_keeps {r₀ : State} (s : State) (cause : Nat) (vioLost : Bool) (full : Bool)
    (hk : Keeps r₀ s) :
    Keeps r₀ (State.chipReset s cause vioLost full) := by
  unfold State.chipReset
  try dsimp only
  repeat' with_reducible first
    | assumption | apply State.clearedTo_keeps | apply State.pinTo_keeps

theorem State.controllerReset_keeps {r₀ : State} (s : State) (hk : Keeps r₀ s) :
    Keeps r₀ (State.controllerReset s) := by
  unfold State.controllerReset
  try dsimp only
  repeat' with_reducible first
    | assumption | apply State.endHamper_keeps | apply State.abortWork_keeps
    | simp only [Keeps.mk_iff, KeepsOf.parts_iff]

theorem State.copyPost_keeps {r₀ : State} (s : State) (q : Nat) (ring : Nat) (tag : Nat) (signal : Bool)
    (status : Nat) (count : Nat) (bytes : Nat) (ringOk : Bool) (hk : Keeps r₀ s) :
    Keeps r₀ (State.copyPost s q ring tag signal status count bytes ringOk) := by
  unfold State.copyPost
  try dsimp only
  repeat' with_reducible first
    | assumption | apply State.drained_keeps | apply State.copyDone_keeps | apply State.onQ_keeps | split

theorem State.leaveRun_keeps {r₀ : State} (s : State) (hk : Keeps r₀ s) :
    Keeps r₀ (State.leaveRun s) := by
  unfold State.leaveRun
  try dsimp only
  repeat' with_reducible first
    | assumption | apply onTrain_keeps

theorem State.refreshBy_keeps {r₀ : State} (s : State) (ks : List Nat) (r : RefreshBy) (hk : Keeps r₀ s) :
    Keeps r₀ (State.refreshBy s ks r) := by
  unfold State.refreshBy
  try dsimp only
  repeat' with_reducible first
    | assumption | apply onStack_keeps | refine foldl_keeps ?_ fun _ _ _ => ?_

theorem State.rest_keeps {r₀ : State} (s : State) (ks : List Nat) (hk : Keeps r₀ s) :
    Keeps r₀ (State.rest s ks) := by
  unfold State.rest
  try dsimp only
  repeat' with_reducible first
    | assumption | apply State.refreshBy_keeps | split

theorem State.park_keeps {r₀ : State} (s : State) (byRecall : Bool) (hk : Keeps r₀ s) :
    Keeps r₀ (State.park s byRecall) := by
  unfold State.park
  try dsimp only
  repeat' with_reducible first
    | assumption | apply onTrain_keeps | apply setPlot0_keeps | apply State.leaveRun_keeps
    | apply State.closeRun_keeps | apply onPorts_keeps | apply State.abortJobs_keeps | apply State.rest_keeps
    | split

theorem State.spoil_keeps {r₀ : State} (s : State) (hk : Keeps r₀ s) :
    Keeps r₀ (State.spoil s) := by
  unfold State.spoil
  try dsimp only
  repeat' with_reducible first
    | assumption | apply onTrain_keeps | split

theorem State.haltTraining_keeps {r₀ : State} (s : State) (hk : Keeps r₀ s) :
    Keeps r₀ (State.haltTraining s) := by
  unfold State.haltTraining
  try dsimp only
  repeat' with_reducible first
    | assumption | apply State.park_keeps | apply State.spoil_keeps | apply onTrain_keeps
    | apply State.abortJobs_keeps | split

theorem State.linkTrainEnd_keeps {r₀ : State} (s : State) (hk : Keeps r₀ s) :
    Keeps r₀ (State.linkTrainEnd s) := by
  unfold State.linkTrainEnd
  try dsimp only
  repeat' with_reducible first
    | assumption | apply State.endJob_keeps | refine foldl_keeps ?_ fun _ _ _ => ?_ | split

theorem hbmPut_keeps {r₀ s : State} (h : Keeps r₀ s) (ks : List Nat) (a : Nat) (bs : List TByte) :
    Keeps r₀ (s.onMem fun m => { m with hbm := (hbmStore m.hbm ks a bs).1 }) :=
  onMem_keeps h fun _ i => ⟨hbmStore_wf i.1 _ _ _, i.2⟩

theorem State.emptyPlot_keeps {r₀ : State} (s : State) (n : Nat) (hk : Keeps r₀ s) :
    Keeps r₀ (State.emptyPlot s n) :=
  State.rest_keeps _ _ (onPlot_keeps (State.closePass_keeps _ _ (hbmPut_keeps hk _ _ _)))

theorem State.haltServing_keeps {r₀ : State} (s : State) (hk : Keeps r₀ s) :
    Keeps r₀ (State.haltServing s) := by
  unfold State.haltServing
  try dsimp only
  repeat' with_reducible first
    | assumption | apply State.abortJobs_keeps | apply State.emptyPlot_keeps
    | refine foldl_keeps ?_ fun _ _ _ => ?_ | split

theorem State.dropStale_keeps {r₀ : State} (s : State) (hk : Keeps r₀ s) :
    Keeps r₀ (State.dropStale s) := by
  unfold State.dropStale
  try dsimp only
  repeat' with_reducible first
    | assumption | apply onBgp_keeps | apply onPorts_keeps | apply State.countsBgp_keeps

theorem State.newEpoch_keeps {r₀ : State} (s : State) (e : Nat) (hk : Keeps r₀ s) :
    Keeps r₀ (State.newEpoch s e) := by
  unfold State.newEpoch
  try dsimp only
  repeat' with_reducible first
    | assumption | apply onTrain_keeps | apply State.abortJobs_keeps | apply State.dropStale_keeps
    | apply State.sendDone_keeps | apply onBgp_keeps | refine foldl_keeps ?_ fun _ _ _ => ?_
    | refine foldl_keeps_fst ?_ fun _ _ _ => ?_ | refine foldl_keeps_snd ?_ fun _ _ _ => ?_
    | refine foldl_keeps_third ?_ fun _ _ _ => ?_ | refine foldl_keeps_mid ?_ fun _ _ _ => ?_
    | simp only [Keeps.mk_iff, KeepsOf.parts_iff]

theorem State.plotReset_keeps {r₀ : State} (s : State) (n : Nat) (h : Keeps r₀ s) :
    Keeps r₀ (State.plotReset s n) := by
  unfold State.plotReset
  extract_lets u0 u v1 v2 v3
  have h1 : Keeps r₀ u := State.abortWork_keeps _ _ (State.spoil_keeps _ h)
  have h3 : Keeps r₀ v3 :=
    onPorts_keeps (onTrain_keeps (setPlot0_keeps (State.closeRun_keeps _ (State.endHamper_keeps _ h1))))
  clear_value v3
  split
  · simp only [Keeps.mk_iff, KeepsOf.parts_iff]
    exact State.rest_keeps _ _ h3
  · exact State.emptyPlot_keeps _ _ h1

/-! ### Pipeline.lean -/

theorem State.answer_keeps {r₀ : State} (s : State) (opcode : Nat) (c : Slot) {p : Reply} (h : Keeps r₀ s)
    (hp : p.Keeps r₀) :
    Keeps r₀ (State.answer s opcode c p) := by
  cases p with
  | fail => exact State.reply_keeps _ _ _ _ _ _ h
  | done => exact State.reply_keeps _ _ _ _ _ _ hp
  | ended => exact State.reply_keeps _ _ _ _ _ _ hp
  | accepted => exact State.addJob_keeps _ _ _ (State.reply_keeps _ _ _ _ _ _ hp)
  | acceptedThen => exact hp.2 _ (State.addJob_keeps _ _ _ (State.reply_keeps _ _ _ _ _ _ hp.1))
  | doneThen => exact hp.2 _ (State.reply_keeps _ _ _ _ _ _ hp.1)

theorem State.checked_keeps {r₀ : State} (s : State) (opcode : Nat) (c : Slot) (k : State → State) (h : Keeps r₀ s)
    (hk : ∀ t, Keeps r₀ t → Keeps r₀ (k t)) : Keeps r₀ (State.checked s opcode c k) := by
  unfold State.checked
  split
  · exact State.reject_keeps _ _ _ _ _ _ _ h
  · split
    · exact State.reject_keeps _ _ _ _ _ _ _ h
    · exact hk _ h

theorem State.execute_keeps {r₀ : State} (s : State) (opcode : Nat) (c : Slot) (allowed : State → Slot → Bool)
    (body : State → Slot → Reply) (h : Keeps r₀ s) (hb : (body s c).Keeps r₀) :
    Keeps r₀ (State.execute s opcode c allowed body) := by
  unfold State.execute
  split
  · exact State.reply_keeps _ _ _ _ _ _ h
  · split
    · exact State.reply_keeps _ _ _ _ _ _ h
    · split
      · exact State.reply_keeps _ _ _ _ _ _ h
      · exact State.answer_keeps _ _ _ h hb

theorem State.extWrite_keeps {r₀ : State} (s : State) (c : Slot) (bs : List Byte) (hk : Keeps r₀ s) :
    Keeps r₀ (State.extWrite s c bs) := by
  unfold State.extWrite
  try dsimp only
  repeat' first
    | exact fun _ i => i
    | with_reducible first
        | assumption | apply emit_keeps | apply onAq_keeps | split

theorem State.rememberSeq_keeps {r₀ : State} (s : State) (c : Slot) (hk : Keeps r₀ s) :
    Keeps r₀ (State.rememberSeq s c) := by
  unfold State.rememberSeq
  try dsimp only
  repeat' first
    | exact fun _ i => i
    | with_reducible first
        | assumption | apply onAq_keeps | split

theorem State.sequenced_keeps {r₀ : State} (s : State) (opcode : Nat) (c : Slot) (waited : Nat) (k : State → State)
    (h : Keeps r₀ s) (hk : ∀ t, Keeps r₀ t → Keeps r₀ (k t)) : Keeps r₀ (State.sequenced s opcode c waited k) := by
  unfold State.sequenced
  try dsimp only
  repeat' with_reducible first
    | assumption | apply State.reply_keeps | apply State.rememberSeq_keeps | apply State.deliver_keeps
    | apply hk | split

theorem State.take_keeps {r₀ : State} (s : State) (c : Slot) (hk : Keeps r₀ s) :
    Keeps r₀ (State.take s c) := by
  unfold State.take
  try dsimp only
  repeat' first
    | exact fun _ i => i
    | with_reducible first
        | assumption | apply onPair_keeps | apply onAq_keeps | split

theorem State.wait_keeps {r₀ : State} (s : State) (opcode : Nat) (c : Slot) (hk : Keeps r₀ s) :
    Keeps r₀ (State.wait s opcode c) := by
  unfold State.wait
  try dsimp only
  repeat' first
    | exact fun _ i => i
    | with_reducible first
        | assumption | apply onAq_keeps | apply State.reject_keeps | split

/-- A command slot keeps whatever its own part keeps. -/
theorem aqvel_keeps {r₀ : State} (opcode : Nat) (extOk : State → Slot → Bool) (kind : TargetKind)
    (allowed : State → Slot → Bool)
    (body : State → Slot → Reply) (c : Slot) (s : State) (h : Keeps r₀ s) (hb : ∀ t, Keeps r₀ t → (body t c).Keeps r₀) :
    OutKeeps r₀ (aqvel opcode extOk kind allowed body c s) := by
  unfold aqvel
  split
  · exact .next (State.wait_keeps _ _ _ h)
  · dsimp only
    split
    · exact .next (State.reject_keeps _ _ _ _ _ _ _ (State.take_keeps _ _ h))
    · refine .next (State.checked_keeps _ _ _ _ (State.take_keeps _ _ h) fun t ht => ?_)
      split
      · exact State.reject_keeps _ _ _ _ _ _ _ ht
      · split
        · exact State.reject_keeps _ _ _ _ _ _ _ ht
        · split
          · exact State.reject_keeps _ _ _ _ _ _ _ ht
          · exact State.sequenced_keeps _ _ _ _ _ ht fun t ht => State.execute_keeps _ _ _ _ _ ht (hb t ht)

theorem badOpcodeSlot_keeps {r₀ : State} (opcode : Nat) (c : Slot) (s : State) (hk : Keeps r₀ s) :
    OutKeeps r₀ (badOpcodeSlot opcode c s) := by
  unfold badOpcodeSlot
  try dsimp only
  repeat' with_reducible first
    | assumption | apply State.wait_keeps | apply State.take_keeps | apply State.reject_keeps
    | apply State.checked_keeps | refine OutKeeps.next ?_ | intro _ | split

theorem guarded_keeps {r₀ : State} (c : Slot) (l m : List (Nat × Nat)) (k : Unit → Reply) (h : ∀ u, (k u).Keeps r₀) :
    (guarded c l m k).Keeps r₀ := by
  unfold guarded
  split
  · trivial
  · split
    · trivial
    · split
      · exact h _
      · trivial

theorem writesExt_keeps {r₀ : State} (s : State) (c : Slot) (bs : List Byte) (k : State → Reply) (h : Keeps r₀ s)
    (hk : ∀ t, Keeps r₀ t → (k t).Keeps r₀) : (writesExt s c bs k).Keeps r₀ := by
  unfold writesExt
  split
  · trivial
  · exact hk _ (State.extWrite_keeps _ _ _ h)

theorem readsExt_keeps {r₀ : State} (s : State) (c : Slot) (k : List Byte → Reply) (hk : ∀ b, (k b).Keeps r₀) :
    (readsExt s c k).Keeps r₀ := by
  unfold readsExt
  split
  · trivial
  · exact hk _

/-! ### Regions.lean -/

theorem State.hbmWrite_keeps {r₀ : State} (s : State) (plot a : Nat) (bs : List TByte) (h : Keeps r₀ s) :
    Keeps r₀ (State.hbmWrite s plot a bs) :=
  State.seenHost_keeps _ _ _ (onHbm_keeps h fun i => hbmStore_wf i _ _ _)

theorem viewFetch_wf {s : State} (h : s.mem.hbm.wf = true) (ks : List Nat) (a n : Nat) :
    (s.viewFetch ks a n).2.1.wf = true := by
  unfold State.viewFetch
  generalize viewPiecesAux s (n / Config.pageBytes + 2) a n = l
  suffices ∀ q : List TByte × Mem × Seen, q.2.1.wf = true → (l.foldl (fun q p =>
      let f := hbmFetch q.2.1 ks p.1 p.2
      (q.1 ++ f.1, f.2.1, q.2.2.add f.2.2)) q).2.1.wf = true from this _ h
  induction l with
  | nil => exact fun q hq => hq
  | cons p l ih => exact fun q hq => ih _ (hbmFetch_wf hq _ _ _)

theorem State.hostRead_keeps {r₀ : State} (s : State) (plot a n : Nat) (h : Keeps r₀ s) :
    Keeps r₀ (State.hostRead s plot a n).2.2 := by
  refine State.seenHost_keeps _ _ _ (onHbm_keeps h fun i => ?_)
  split
  · exact viewFetch_wf i _ _ _
  · exact hbmFetch_wf i _ _ _

theorem State.bar2Answer_keeps {r₀ : State} (s : State) (plot : Nat) (fn : Nat) (off : Nat) (a : Nat) (n : Nat)
    (hk : Keeps r₀ s) :
    Keeps r₀ (State.bar2Answer s plot fn off a n) := by
  unfold State.bar2Answer
  try dsimp only
  repeat' with_reducible first
    | assumption | apply State.hostRead_keeps | apply emit_keeps

theorem State.releaseReads_keeps {r₀ : State} (s : State) (hk : Keeps r₀ s) :
    Keeps r₀ (State.releaseReads s) := by
  unfold State.releaseReads
  try dsimp only
  repeat' with_reducible first
    | assumption | apply onHost_keeps | apply State.bar2Answer_keeps | refine foldl_keeps ?_ fun _ _ _ => ?_
    | split

theorem State.discarded_keeps {r₀ : State} (s : State) (fn : Nat) (a : Nat) (n : Nat) (hk : Keeps r₀ s) :
    Keeps r₀ (State.discarded s fn a n) := by
  unfold State.discarded
  try dsimp only
  repeat' with_reducible first
    | assumption | apply State.event_keeps

theorem execBar2Read_keeps {r₀ : State} (fn : Nat) (off : Nat) (n : Nat) (s : State) (hk : Keeps r₀ s) :
    OutKeeps r₀ (execBar2Read fn off n s) := by
  unfold execBar2Read
  try dsimp only
  repeat' with_reducible first
    | assumption | apply emit_keeps | apply onHost_keeps | apply State.bar2Answer_keeps
    | refine OutKeeps.next ?_ | exact OutKeeps.fault _ | split

theorem execBar2Write_keeps {r₀ : State} (fn : Nat) (off : Nat) (data : List Byte) (s : State) (hk : Keeps r₀ s) :
    OutKeeps r₀ (execBar2Write fn off data s) := by
  unfold execBar2Write
  try dsimp only
  repeat' with_reducible first
    | assumption | apply State.discarded_keeps | apply State.hbmWrite_keeps | refine OutKeeps.next ?_
    | exact OutKeeps.fault _ | split

/-! ### Records.lean -/

theorem State.onStore_keeps {r₀ : State} (s : State) (plot : Nat) (id : Nat) (f : ScaleRec → ScaleRec)
    (hk : Keeps r₀ s) :
    Keeps r₀ (State.onStore s plot id f) := by
  unfold State.onStore
  try dsimp only
  repeat' with_reducible first
    | assumption | apply onTrain_keeps | apply onPlot_keeps | split

theorem State.onRecord_keeps {r₀ : State} (s : State) (plot : Nat) (id : Nat) (f : ScaleRec → ScaleRec)
    (hk : Keeps r₀ s) :
    Keeps r₀ (State.onRecord s plot id f) := by
  unfold State.onRecord
  try dsimp only
  repeat' with_reducible first
    | assumption | apply State.onStore_keeps

/-! ### Operands.lean -/

theorem SameCycle.lay_wf (x : SameCycle) (rank : Nat) {m : Mem} (h : m.wf = true) : (x.lay rank m).wf = true := by
  unfold SameCycle.lay
  generalize x.writes.filter _ = l
  induction l generalizing m with
  | nil => exact h
  | cons w l ih => exact ih (Mem.store_wf h _ _)

theorem SameCycle.result_wf {x : SameCycle} (h : x.before.wf = true) : x.result.wf = true := by
  unfold SameCycle.result
  generalize List.range 4 = l
  generalize x.before = m at h
  induction l generalizing m with
  | nil => exact h
  | cons k l ih => exact ih _ (SameCycle.lay_wf x k h)

theorem Tile.wf_iff {t : Tile} : t.wf = true ↔ t.sram.wf = true ∧ t.same.all (fun x => x.before.wf) = true := by
  simp [Tile.wf]

theorem Tile.same_wf {t : Tile} {cyc : Nat} {x : SameCycle} (h : t.wf = true) (e : t.sameNow cyc = some x) :
    x.before.wf = true := by
  have hs := (Tile.wf_iff.1 h).2
  unfold Tile.sameNow at e
  rw [Option.filter_eq_some_iff] at e
  rw [e.1] at hs
  exact hs

theorem Tile.readSram_wf {t : Tile} (h : t.wf = true)
    (cyc rank off n : Nat) : (t.readSram cyc rank off n).2.1.wf = true := by
  unfold Tile.readSram
  split
  · exact Tile.wf_iff.2 ⟨Mem.fetch_wf (Tile.wf_iff.1 h).1 _ _, (Tile.wf_iff.1 h).2⟩
  · rename_i x e
    dsimp only
    split
    · exact h
    · have hx := Mem.readCws_wf (Tile.same_wf h e) (((x.view rank).fetch off n).2.2.uncorrectable)
      exact Tile.wf_iff.2 ⟨SameCycle.result_wf hx, hx⟩

theorem Tile.writeSram_wf {t : Tile} (h : t.wf = true) (cyc rank off : Nat) (bs : List TByte) :
    (t.writeSram cyc rank off bs).1.wf = true := by
  unfold Tile.writeSram
  split
  · exact Tile.wf_iff.2 ⟨Mem.store_wf (Tile.wf_iff.1 h).1 _ _, (Tile.wf_iff.1 h).1⟩
  · rename_i x e
    have hx := Tile.same_wf h e
    dsimp only
    refine Tile.wf_iff.2 ⟨?_, hx⟩
    dsimp only
    split
    · exact Mem.store_wf (Tile.wf_iff.1 h).1 _ _
    · exact SameCycle.result_wf hx

theorem State.sramRead_keeps {r₀ : State} (s : State) (d : Dc) (off n : Nat) (h : Keeps r₀ s) :
    Keeps r₀ (State.sramRead s d off n).2 :=
  State.seenSram_keeps _ _ _ _ _ _ _ (setTile_keeps h d.phys fun i => Tile.readSram_wf i _ _ _ _)

theorem State.sramWriteAt_keeps {r₀ : State} (s : State) (d : Dc) (phys off : Nat) (bs : List TByte)
    (h : Keeps r₀ s) :
    Keeps r₀ (State.sramWriteAt s d phys off bs) :=
  State.seenSram_keeps _ _ _ _ _ _ _ (setTile_keeps h phys fun i => Tile.writeSram_wf i _ _ _ _)

theorem State.sramWrite_keeps {r₀ : State} (s : State) (d : Dc) (off : Nat) (bs : List TByte) (hk : Keeps r₀ s) :
    Keeps r₀ (State.sramWrite s d off bs) := by
  unfold State.sramWrite
  try dsimp only
  repeat' with_reducible first
    | assumption | apply State.sramWriteAt_keeps

theorem State.sramWrites_keeps {r₀ : State} (s : State) (d : Dc) (ps : List (Nat × List TByte)) (hk : Keeps r₀ s) :
    Keeps r₀ (State.sramWrites s d ps) := by
  unfold State.sramWrites
  try dsimp only
  repeat' with_reducible first
    | assumption | apply State.sramWrite_keeps | refine foldl_keeps ?_ fun _ _ _ => ?_

theorem State.arithFaults_keeps {r₀ : State} (s : State) (d : Dc) (o : Op) (hw : Hw) (hk : Keeps r₀ s) :
    Keeps r₀ (State.arithFaults s d o hw) := by
  unfold State.arithFaults
  try dsimp only
  repeat' with_reducible first
    | assumption | apply State.plotFault_keeps | split

theorem State.readRecord_keeps {r₀ : State} (s : State) (d : Dc) (id : Nat) (hk : Keeps r₀ s) :
    Keeps r₀ (State.readRecord s d id) := by
  unfold State.readRecord
  try dsimp only
  repeat' with_reducible first
    | assumption | apply State.plotFault_keeps | apply State.onStore_keeps | split

theorem State.hbmReadD_keeps {r₀ : State} (s : State) (d : Dc) (a n : Nat) (h : Keeps r₀ s) :
    Keeps r₀ (State.hbmReadD s d a n).2 :=
  State.seenHbm_keeps _ _ _ _ _ _ (onHbm_keeps h fun i => hbmFetch_wf i _ _ _)

theorem State.hbmWriteD_keeps {r₀ : State} (s : State) (d : Dc) (a : Nat) (bs : List TByte) (h : Keeps r₀ s) :
    Keeps r₀ (State.hbmWriteD s d a bs) :=
  State.seenHbm_keeps _ _ _ _ _ _ (onHbm_keeps h fun i => hbmStore_wf i _ _ _)

theorem State.timingFault_keeps {r₀ : State} (s : State) (d : Dc) (unit : Nat) (hk : Keeps r₀ s) :
    Keeps r₀ (State.timingFault s d unit) := by
  unfold State.timingFault
  try dsimp only
  repeat' first
    | exact fun _ i => i
    | with_reducible first
        | assumption | apply onTile_keeps | apply State.plotFault_keeps

theorem State.withRecord_keeps {r₀ : State} (s : State) (d : Dc) (o : Op) (eff : Dc → State → State) (h : Keeps r₀ s)
    (he : ∀ d t, Keeps r₀ t → Keeps r₀ (eff d t)) : Keeps r₀ (State.withRecord s d o eff) := by
  unfold State.withRecord
  split
  · exact he _ _ (State.readRecord_keeps _ _ _ h)
  · exact he _ _ h

theorem Tile.struck_wf {t : Tile} (h : t.wf = true) (fs : List (Nat × Byte)) : (t.struck fs).wf = true := by
  refine Tile.wf_iff.2 ⟨Mem.flips_wf (Tile.wf_iff.1 h).1 _, ?_⟩
  have hs := (Tile.wf_iff.1 h).2
  unfold Tile.struck
  cases e : t.same with
  | none => rfl
  | some x =>
    rw [e] at hs
    exact Mem.flips_wf hs _

theorem State.struck_keeps {r₀ : State} (s : State) (d : Dc) (hw : Hw) (h : Keeps r₀ s) :
    Keeps r₀ (State.struck s d hw) := by
  unfold State.struck
  extract_lets s1 s2
  have h1 : Keeps r₀ s1 := by
    show Keeps r₀ (if _ then _ else _)
    split
    · exact h
    · exact onHbm_keeps h fun i => hbmFlips_wf i _ _
  have h2 : Keeps r₀ s2 := by
    show Keeps r₀ (if _ then _ else _)
    split
    · exact h1
    · exact onTile_keeps h1 fun t i => Tile.struck_wf i _
  exact foldl_keeps h2 fun t f ht => State.onStore_keeps _ _ _ _ ht

/-- A descriptor keeps whatever its effect keeps. -/
theorem State.runDesc_keeps {r₀ : State} (s : State) (x : At) (h : DHead) (o : Op) (eff : Dc → State → State)
    (hs : Keeps r₀ s) (he : ∀ d t, Keeps r₀ t → Keeps r₀ (eff d t)) : OutKeeps r₀ (State.runDesc s x h o eff) := by
  unfold State.runDesc
  split
  · exact .fault _
  · split
    · exact .fault _
    · split
      · exact .next hs
      · split
        · exact .fault _
        · dsimp only
          split
          · exact .next (State.timingFault_keeps _ _ _ hs)
          · exact .next (State.arithFaults_keeps _ _ _ _ (State.withRecord_keeps _ _ _ _ (State.struck_keeps _ _ _ hs) he))

end Sys2Proof.Machine
end

