-- ==== Sys2Proof/Laws/KeepsDesc.lean ====
section
/-! SUPPORT. One lemma per operation: what it keeps (Keeps.lean), for the descriptors, the vote and the copies. -/
namespace Sys2Proof.Machine

/-! ### MatMul.lean -/

theorem State.sxBytes_keeps {r₀ : State} (s : State) (d : Dc) (off : Nat) (n : Nat) (hk : Keeps r₀ s) :
    Keeps r₀ (State.sxBytes s d off n).2 := by
  unfold State.sxBytes
  try dsimp only
  repeat' with_reducible first
    | assumption | apply State.sramRead_keeps | apply draw_keeps | refine foldl_keeps ?_ fun _ _ _ => ?_
    | refine foldl_keeps_fst ?_ fun _ _ _ => ?_ | refine foldl_keeps_snd ?_ fun _ _ _ => ?_

theorem State.sxOperand_keeps {r₀ : State} (s : State) (d : Dc) (off : Nat) (rows : Nat) (f : Nat) (k : Nat)
    (hk : Keeps r₀ s) :
    Keeps r₀ (State.sxOperand s d off rows f k).2 := by
  unfold State.sxOperand
  try dsimp only
  repeat' with_reducible first
    | assumption | apply State.sramRead_keeps | apply State.sxBytes_keeps
    | refine foldl_keeps ?_ fun _ _ _ => ?_ | refine foldl_keeps_fst ?_ fun _ _ _ => ?_
    | refine foldl_keeps_snd ?_ fun _ _ _ => ?_

theorem State.blockOperand_keeps {r₀ : State} (s : State) (d : Dc) (off : Nat) (rows : Nat) (f : Nat) (b : Nat)
    (k : Nat) (hk : Keeps r₀ s) :
    Keeps r₀ (State.blockOperand s d off rows f b k).2 := by
  unfold State.blockOperand
  try dsimp only
  repeat' with_reducible first
    | assumption | apply State.sramRead_keeps

theorem State.lanes_keeps {r₀ : State} (s : State) (d : Dc) (o : MatMulOps) (hk : Keeps r₀ s) :
    Keeps r₀ (State.lanes s d o).2 := by
  unfold State.lanes
  try dsimp only
  repeat' with_reducible first
    | assumption | apply State.sxOperand_keeps | apply State.blockOperand_keeps | split

theorem State.chainRecords_keeps {r₀ : State} (s : State) (d : Dc) (o : MatMulOps) (hk : Keeps r₀ s) :
    Keeps r₀ (State.chainRecords s d o).2 := by
  unfold State.chainRecords
  try dsimp only
  repeat' with_reducible first
    | assumption | apply State.sramRead_keeps | split

theorem State.passSat_keeps {r₀ : State} (s : State) (d : Dc) (sat_ : Bool) (hk : Keeps r₀ s) :
    Keeps r₀ (State.passSat s d sat_) := by
  unfold State.passSat
  try dsimp only
  repeat' with_reducible first
    | assumption | apply onPlot_keeps | split

theorem State.patch_keeps {r₀ : State} (d : Dc) (o : MatMulOps) (l : Lanes) (chain : List TByte) (w0 : Nat)
    (s : State) (p : Nat) (hk : Keeps r₀ s) :
    Keeps r₀ (State.patch d o l chain w0 s p) := by
  unfold State.patch
  try dsimp only
  repeat' first
    | exact fun _ i => i
    | with_reducible first
        | assumption | apply State.plotFault_keeps | apply onTile_keeps | apply State.onRecord_keeps
        | apply State.saturation_keeps | apply State.sramWrite_keeps | apply State.passSat_keeps
        | apply State.sramWrites_keeps | split

theorem State.matMul_keeps {r₀ : State} (o : MatMulOps) (d : Dc) (s : State) (hk : Keeps r₀ s) :
    Keeps r₀ (State.matMul o d s) := by
  unfold State.matMul
  try dsimp only
  repeat' with_reducible first
    | assumption | apply State.lanes_keeps | apply State.chainRecords_keeps | apply State.patch_keeps
    | refine foldl_keeps ?_ fun _ _ _ => ?_

theorem execMatrixMultiply_keeps {r₀ : State} (x : At) (h : DHead) (o : MatMulOps) (s : State) (hk : Keeps r₀ s) :
    OutKeeps r₀ (execMatrixMultiply x h o s) := by
  unfold execMatrixMultiply
  try dsimp only
  repeat' with_reducible first
    | assumption | apply State.runDesc_keeps | apply State.matMul_keeps

/-! ### Vector.lean -/

theorem State.vector_keeps {r₀ : State} (o : VecOps) (d : Dc) (s : State) (hk : Keeps r₀ s) :
    Keeps r₀ (State.vector o d s) := by
  unfold State.vector
  try dsimp only
  repeat' with_reducible first
    | assumption | apply State.sramRead_keeps | apply State.sramWrite_keeps | split

theorem State.convert_keeps {r₀ : State} (o : ConvOps) (d : Dc) (s : State) (hk : Keeps r₀ s) :
    Keeps r₀ (State.convert o d s) := by
  unfold State.convert
  try dsimp only
  repeat' with_reducible first
    | assumption | apply State.sramRead_keeps | apply State.onRecord_keeps | apply State.sramWrites_keeps
    | apply State.passSat_keeps

theorem State.digest_keeps {r₀ : State} (o : DigestOps) (d : Dc) (s : State) (hk : Keeps r₀ s) :
    Keeps r₀ (State.digest o d s) := by
  unfold State.digest
  try dsimp only
  repeat' with_reducible first
    | assumption | apply State.sramRead_keeps | apply State.sramWrite_keeps

theorem execVectorFunction_keeps {r₀ : State} (x : At) (h : DHead) (o : VecOps) (s : State) (hk : Keeps r₀ s) :
    OutKeeps r₀ (execVectorFunction x h o s) := by
  unfold execVectorFunction
  try dsimp only
  repeat' with_reducible first
    | assumption | apply State.runDesc_keeps | apply State.vector_keeps

theorem execFormatConversion_keeps {r₀ : State} (x : At) (h : DHead) (o : ConvOps) (s : State) (hk : Keeps r₀ s) :
    OutKeeps r₀ (execFormatConversion x h o s) := by
  unfold execFormatConversion
  try dsimp only
  repeat' with_reducible first
    | assumption | apply State.runDesc_keeps | apply State.convert_keeps

theorem execDigestDescriptor_keeps {r₀ : State} (x : At) (h : DHead) (o : DigestOps) (s : State) (hk : Keeps r₀ s) :
    OutKeeps r₀ (execDigestDescriptor x h o s) := by
  unfold execDigestDescriptor
  try dsimp only
  repeat' with_reducible first
    | assumption | apply State.runDesc_keeps | apply State.digest_keeps

/-! ### Slots.lean -/

theorem State.sendGroups_keeps {r₀ : State} (s : State) (p : Nat) (g : Nat) (hk : Keeps r₀ s) :
    Keeps r₀ (State.sendGroups s p g) := by
  unfold State.sendGroups
  try dsimp only
  repeat' with_reducible first
    | assumption | apply onCheck_keeps | apply emit_keeps | refine foldl_keeps ?_ fun _ _ _ => ?_

theorem State.passSlot_keeps {r₀ : State} (s : State) (p : Nat) (slot : Nat) (cell : Option (List Byte))
    (hk : Keeps r₀ s) :
    Keeps r₀ (State.passSlot s p slot cell) := by
  unfold State.passSlot
  try dsimp only
  repeat' with_reducible first
    | assumption | apply emit_keeps | apply onCheck_keeps | apply State.sendGroups_keeps | split

theorem State.refreshSlice_keeps {r₀ : State} (s : State) (hk : Keeps r₀ s) :
    Keeps r₀ (State.refreshSlice s) := by
  unfold State.refreshSlice
  try dsimp only
  repeat' with_reducible first
    | assumption | apply onPort_keeps | apply onCheck_keeps | refine foldl_keeps ?_ fun _ _ _ => ?_ | split

theorem State.sendScheduled_keeps {r₀ : State} (s : State) (p : Nat) (slot : Nat) (flags : Nat) (phase : Nat)
    (tag : Nat) (index : Nat) (payload : List Byte) (beacon : Bool) (hk : Keeps r₀ s) :
    Keeps r₀ (State.sendScheduled s p slot flags phase tag index payload beacon) := by
  unfold State.sendScheduled
  try dsimp only
  repeat' with_reducible first
    | assumption | apply onPort_keeps | apply onCheck_keeps | apply State.passSlot_keeps

/-! ### Vote.lean -/

theorem State.voteUnitFault_keeps {r₀ : State} (s : State) (hk : Keeps r₀ s) :
    Keeps r₀ (State.voteUnitFault s) := by
  unfold State.voteUnitFault
  try dsimp only
  repeat' with_reducible first
    | assumption | apply State.failCheck_keeps | apply onRun_keeps | apply onPorts_keeps

theorem State.pushVote_keeps {r₀ : State} (s : State) (p : Nat) (d : VoteDue) (hk : Keeps r₀ s) :
    Keeps r₀ (State.pushVote s p d) := by
  unfold State.pushVote
  try dsimp only
  repeat' with_reducible first
    | assumption | apply onPort_keeps

theorem State.enterAxes_keeps {r₀ : State} (s : State) (after : Nat) (w : VoteWord) (rel : Nat) (bare : Bool)
    (hk : Keeps r₀ s) :
    Keeps r₀ (State.enterAxes s after w rel bare) := by
  unfold State.enterAxes
  try dsimp only
  repeat' with_reducible first
    | assumption | apply onRun_keeps | apply State.pushVote_keeps | split

theorem State.pushBroadcast_keeps {r₀ : State} (s : State) (a : Nat) (rel : Nat) (w : VoteWord) (own : Bool)
    (hk : Keeps r₀ s) :
    Keeps r₀ (State.pushBroadcast s a rel w own) := by
  unfold State.pushBroadcast
  try dsimp only
  repeat' with_reducible first
    | assumption | apply State.pushVote_keeps | split

theorem State.voteChain_keeps {r₀ : State} (s : State) (a : Nat) (rel : Nat) (w : VoteWord) (hk : Keeps r₀ s) :
    Keeps r₀ (State.voteChain s a rel w) := by
  unfold State.voteChain
  try dsimp only
  repeat' with_reducible first
    | assumption | apply onRun_keeps | apply State.pushVote_keeps | apply State.enterAxes_keeps
    | apply State.pushBroadcast_keeps | split

theorem State.ownWord_keeps {r₀ : State} (s : State) (hk : Keeps r₀ s) :
    Keeps r₀ (State.ownWord s).2 := by
  unfold State.ownWord
  try dsimp only
  repeat' with_reducible first
    | assumption | apply onRun_keeps | split

theorem State.voteLost_keeps {r₀ : State} (s : State) (hk : Keeps r₀ s) :
    Keeps r₀ (State.voteLost s) := by
  unfold State.voteLost
  try dsimp only
  repeat' with_reducible first
    | assumption | apply onRun_keeps

theorem State.voteBroadcast_keeps {r₀ : State} (s : State) (a : Nat) (rel : Nat) (fromMinus : Bool)
    (w : Option VoteWord) (hk : Keeps r₀ s) :
    Keeps r₀ (State.voteBroadcast s a rel fromMinus w) := by
  unfold State.voteBroadcast
  try dsimp only
  repeat' with_reducible first
    | assumption | apply State.ownWord_keeps | apply State.voteLost_keeps | apply State.enterAxes_keeps
    | apply State.pushVote_keeps | split

theorem State.voteArrive_keeps {r₀ : State} (s : State) (p : Nat) (rel : Nat) (payload : Option (List Byte))
    (due : Bool) (split : Bool) (hk : Keeps r₀ s) :
    Keeps r₀ (State.voteArrive s p rel payload due split) := by
  unfold State.voteArrive
  try dsimp only
  repeat' with_reducible first
    | assumption | apply onRun_keeps | apply State.voteChain_keeps | apply State.voteBroadcast_keeps | split

theorem State.beginVote_keeps {r₀ : State} (s : State) (hk : Keeps r₀ s) :
    Keeps r₀ (State.beginVote s) := by
  unfold State.beginVote
  try dsimp only
  repeat' with_reducible first
    | assumption | apply State.pushVote_keeps | split

theorem State.voteFailed_keeps {r₀ : State} (s : State) (w : Option VoteWord) (hk : Keeps r₀ s) :
    Keeps r₀ (State.voteFailed s w) := by
  unfold State.voteFailed
  try dsimp only
  repeat' with_reducible first
    | assumption | apply onTrain_keeps | apply State.settle_keeps

theorem State.voteDecide_keeps {r₀ : State} (s : State) (w : VoteWord) (hk : Keeps r₀ s) :
    Keeps r₀ (State.voteDecide s w) := by
  unfold State.voteDecide
  try dsimp only
  repeat' with_reducible first
    | assumption | apply State.event_keeps | apply onRun_keeps | apply State.settle_keeps
    | apply State.voteFailed_keeps | split

theorem State.writeDue_keeps {r₀ : State} (s : State) (hk : Keeps r₀ s) :
    Keeps r₀ (State.writeDue s) := by
  unfold State.writeDue
  try dsimp only
  repeat' with_reducible first
    | assumption | apply State.voteDecide_keeps | split

theorem State.noFinalWord_keeps {r₀ : State} (s : State) (hk : Keeps r₀ s) :
    Keeps r₀ (State.noFinalWord s) := by
  unfold State.noFinalWord
  try dsimp only
  repeat' with_reducible first
    | assumption | apply State.notice_keeps | apply onTrain_keeps

theorem State.endVote_keeps {r₀ : State} (s : State) (hk : Keeps r₀ s) :
    Keeps r₀ (State.endVote s) := by
  unfold State.endVote
  try dsimp only
  repeat' with_reducible first
    | assumption | apply State.ownWord_keeps | apply State.voteDecide_keeps | apply State.voteFailed_keeps
    | apply onRun_keeps | apply State.noFinalWord_keeps | split

theorem State.runLimit_keeps {r₀ : State} (s : State) (hk : Keeps r₀ s) :
    Keeps r₀ (State.runLimit s) := by
  unfold State.runLimit
  try dsimp only
  repeat' with_reducible first
    | assumption | apply State.notice_keeps | apply onTrain_keeps

theorem State.overVote_keeps {r₀ : State} (s : State) (r : Run) (hk : Keeps r₀ s) :
    Keeps r₀ (State.overVote s r) := by
  unfold State.overVote
  try dsimp only
  repeat' with_reducible first
    | assumption | apply onRun_keeps | apply State.endVote_keeps | apply State.runLimit_keeps | split

theorem State.voteDepart_keeps {r₀ : State} (s : State) (p : Nat) (now : Nat) (hk : Keeps r₀ s) :
    Keeps r₀ (State.voteDepart s p now).2 := by
  unfold State.voteDepart
  try dsimp only
  repeat' with_reducible first
    | assumption | apply State.ownWord_keeps | apply onPort_keeps | apply State.writeDue_keeps | split

theorem execVotePhaseEnd_keeps {r₀ : State} (s : State) (hk : Keeps r₀ s) :
    OutKeeps r₀ (execVotePhaseEnd s) := by
  unfold execVotePhaseEnd
  try dsimp only
  repeat' with_reducible first
    | assumption | apply State.overVote_keeps | refine OutKeeps.next ?_ | split

/-! ### Update.lean -/

theorem State.update_keeps {r₀ : State} (o : UpdOps) (d : Dc) (s : State) (hk : Keeps r₀ s) :
    Keeps r₀ (State.update o d s) := by
  unfold State.update
  try dsimp only
  repeat' with_reducible first
    | assumption | apply onTrain_keeps | apply State.sramRead_keeps | apply draw_keeps
    | apply State.sramWrite_keeps | apply State.onRecord_keeps | split

theorem State.onHolds_keeps {r₀ : State} (s : State) (f : Holds → Holds) (hk : Keeps r₀ s) :
    Keeps r₀ (State.onHolds s f) := by
  unfold State.onHolds
  try dsimp only
  repeat' with_reducible first
    | assumption | apply onTrain_keeps

theorem State.pairLoss_keeps {r₀ : State} (s : State) (d : Dc) (role : Nat) (chunk : Nat) (hk : Keeps r₀ s) :
    Keeps r₀ (State.pairLoss s d role chunk) := by
  unfold State.pairLoss
  try dsimp only
  repeat' with_reducible first
    | assumption | apply State.notice_keeps | apply State.onHolds_keeps | apply State.declareSuspect_keeps
    | split

theorem State.pairThird_keeps {r₀ : State} (d : Dc) (o : PairOps) (third : List Byte) (s : State) (k : Nat)
    (hk : Keeps r₀ s) :
    Keeps r₀ (State.pairThird d o third s k) := by
  unfold State.pairThird
  try dsimp only
  repeat' with_reducible first
    | assumption | apply State.onHolds_keeps | apply State.pairLoss_keeps | apply State.declareSuspect_keeps
    | apply State.notice_keeps | split

theorem State.pairOne_keeps {r₀ : State} (d : Dc) (o : PairOps) (own : List Byte) (other : List Byte) (s : State)
    (k : Nat) (hk : Keeps r₀ s) :
    Keeps r₀ (State.pairOne d o own other s k) := by
  unfold State.pairOne
  try dsimp only
  repeat' with_reducible first
    | assumption | apply State.onHolds_keeps | apply State.notice_keeps | split

theorem State.pairCheck_keeps {r₀ : State} (o : PairOps) (d : Dc) (s : State) (hk : Keeps r₀ s) :
    Keeps r₀ (State.pairCheck o d s) := by
  unfold State.pairCheck
  try dsimp only
  repeat' with_reducible first
    | assumption | apply State.sramRead_keeps | apply State.pairThird_keeps | apply State.pairOne_keeps
    | refine foldl_keeps ?_ fun _ _ _ => ?_ | refine foldl_keeps_fst ?_ fun _ _ _ => ?_
    | refine foldl_keeps_snd ?_ fun _ _ _ => ?_ | refine foldl_keeps_third ?_ fun _ _ _ => ?_
    | refine foldl_keeps_mid ?_ fun _ _ _ => ?_ | split

theorem State.scaleUpdate_keeps {r₀ : State} (d : Dc) (s : State) (hk : Keeps r₀ s) :
    Keeps r₀ (State.scaleUpdate d s) := by
  unfold State.scaleUpdate
  try dsimp only
  repeat' with_reducible first
    | assumption | apply State.onRecord_keeps

theorem execUpdateDescriptor_keeps {r₀ : State} (x : At) (h : DHead) (o : UpdOps) (s : State) (hk : Keeps r₀ s) :
    OutKeeps r₀ (execUpdateDescriptor x h o s) := by
  unfold execUpdateDescriptor
  try dsimp only
  repeat' with_reducible first
    | assumption | apply State.runDesc_keeps | apply State.update_keeps

theorem execPairCheck_keeps {r₀ : State} (x : At) (h : DHead) (o : PairOps) (s : State) (hk : Keeps r₀ s) :
    OutKeeps r₀ (execPairCheck x h o s) := by
  unfold execPairCheck
  try dsimp only
  repeat' with_reducible first
    | assumption | apply State.runDesc_keeps | apply State.pairCheck_keeps

theorem execScaleRecordUpdate_keeps {r₀ : State} (x : At) (h : DHead) (s : State) (hk : Keeps r₀ s) :
    OutKeeps r₀ (execScaleRecordUpdate x h s) := by
  unfold execScaleRecordUpdate
  try dsimp only
  repeat' with_reducible first
    | assumption | apply State.runDesc_keeps | apply State.scaleUpdate_keeps

/-! ### TileDma.lean -/

theorem State.hbmReads_keeps {r₀ : State} (s : State) (d : Dc) (ps : List (Nat × Nat)) (hk : Keeps r₀ s) :
    Keeps r₀ (State.hbmReads s d ps).2 := by
  unfold State.hbmReads
  try dsimp only
  repeat' with_reducible first
    | assumption | apply State.hbmReadD_keeps | refine foldl_keeps ?_ fun _ _ _ => ?_
    | refine foldl_keeps_fst ?_ fun _ _ _ => ?_ | refine foldl_keeps_snd ?_ fun _ _ _ => ?_

theorem State.transpose_keeps {r₀ : State} (o : CopyOps) (d : Dc) (s : State) (hk : Keeps r₀ s) :
    Keeps r₀ (State.transpose o d s) := by
  unfold State.transpose
  try dsimp only
  repeat' with_reducible first
    | assumption | apply State.hbmReads_keeps | apply State.hbmWriteD_keeps
    | refine foldl_keeps ?_ fun _ _ _ => ?_

theorem State.copyDesc_keeps {r₀ : State} (o : CopyOps) (d : Dc) (s : State) (hk : Keeps r₀ s) :
    Keeps r₀ (State.copyDesc o d s) := by
  unfold State.copyDesc
  try dsimp only
  repeat' with_reducible first
    | assumption | apply State.transpose_keeps | apply State.hbmReadD_keeps | apply State.hbmWriteD_keeps
    | split

theorem State.dmaIn_keeps {r₀ : State} (o : DmaOps) (d : Dc) (s : State) (hk : Keeps r₀ s) :
    Keeps r₀ (State.dmaIn o d s) := by
  unfold State.dmaIn
  try dsimp only
  repeat' with_reducible first
    | assumption | apply State.hbmReads_keeps | apply State.sramWrite_keeps
    | refine foldl_keeps ?_ fun _ _ _ => ?_

theorem State.hbmWrites_keeps {r₀ : State} (s : State) (d : Dc) (ps : List (Nat × Nat)) (bs : List TByte)
    (hk : Keeps r₀ s) :
    Keeps r₀ (State.hbmWrites s d ps bs) := by
  unfold State.hbmWrites
  try dsimp only
  repeat' with_reducible first
    | assumption | apply State.hbmWriteD_keeps | refine foldl_keeps ?_ fun _ _ _ => ?_
    | refine foldl_keeps_fst ?_ fun _ _ _ => ?_ | refine foldl_keeps_snd ?_ fun _ _ _ => ?_

theorem State.dmaOut_keeps {r₀ : State} (o : DmaOps) (d : Dc) (s : State) (hk : Keeps r₀ s) :
    Keeps r₀ (State.dmaOut o d s) := by
  unfold State.dmaOut
  try dsimp only
  repeat' with_reducible first
    | assumption | apply State.sramRead_keeps | apply State.hbmWrites_keeps
    | refine foldl_keeps ?_ fun _ _ _ => ?_ | refine foldl_keeps_fst ?_ fun _ _ _ => ?_
    | refine foldl_keeps_snd ?_ fun _ _ _ => ?_ | refine foldl_keeps_third ?_ fun _ _ _ => ?_
    | refine foldl_keeps_mid ?_ fun _ _ _ => ?_ | split

theorem State.readIndices_keeps {r₀ : State} (s : State) (d : Dc) (o : GatherOps) (hk : Keeps r₀ s) :
    Keeps r₀ (State.readIndices s d o).2.2 := by
  unfold State.readIndices
  try dsimp only
  repeat' with_reducible first
    | assumption | apply State.sramRead_keeps

theorem State.rejectIndices_keeps {r₀ : State} (s : State) (d : Dc) (pos : Nat) (hk : Keeps r₀ s) :
    Keeps r₀ (State.rejectIndices s d pos) := by
  unfold State.rejectIndices
  try dsimp only
  repeat' first
    | exact fun _ i => i
    | with_reducible first
        | assumption | apply State.event_keeps | apply onTile_keeps

theorem State.gather_keeps {r₀ : State} (o : GatherOps) (d : Dc) (s : State) (hk : Keeps r₀ s) :
    Keeps r₀ (State.gather o d s) := by
  unfold State.gather
  try dsimp only
  repeat' first
    | exact fun _ i => i
    | with_reducible first
        | assumption | apply State.readIndices_keeps | apply State.rejectIndices_keeps | apply onTile_keeps
        | apply State.hbmReadD_keeps | apply State.sramWrite_keeps | refine foldl_keeps ?_ fun _ _ _ => ?_
        | refine foldl_keeps_fst ?_ fun _ _ _ => ?_ | refine foldl_keeps_snd ?_ fun _ _ _ => ?_
        | refine foldl_keeps_third ?_ fun _ _ _ => ?_ | refine foldl_keeps_mid ?_ fun _ _ _ => ?_ | split

theorem State.permIn_keeps {r₀ : State} (o : PermOps) (d : Dc) (s : State) (hk : Keeps r₀ s) :
    Keeps r₀ (State.permIn o d s) := by
  unfold State.permIn
  try dsimp only
  repeat' with_reducible first
    | assumption | apply State.hbmReads_keeps | apply State.sramWrite_keeps
    | refine foldl_keeps ?_ fun _ _ _ => ?_

theorem State.permOut_keeps {r₀ : State} (o : PermOps) (d : Dc) (s : State) (hk : Keeps r₀ s) :
    Keeps r₀ (State.permOut o d s) := by
  unfold State.permOut
  try dsimp only
  repeat' with_reducible first
    | assumption | apply State.sramRead_keeps | apply State.hbmWrites_keeps
    | refine foldl_keeps ?_ fun _ _ _ => ?_ | refine foldl_keeps_fst ?_ fun _ _ _ => ?_
    | refine foldl_keeps_snd ?_ fun _ _ _ => ?_ | refine foldl_keeps_third ?_ fun _ _ _ => ?_
    | refine foldl_keeps_mid ?_ fun _ _ _ => ?_ | split

theorem State.reblock_keeps {r₀ : State} (o : PermOps) (d : Dc) (s : State) (hk : Keeps r₀ s) :
    Keeps r₀ (State.reblock o d s) := by
  unfold State.reblock
  try dsimp only
  repeat' with_reducible first
    | assumption | apply State.hbmReadD_keeps | apply State.sramWrite_keeps
    | refine foldl_keeps ?_ fun _ _ _ => ?_ | refine foldl_keeps_fst ?_ fun _ _ _ => ?_
    | refine foldl_keeps_snd ?_ fun _ _ _ => ?_

theorem State.permute_keeps {r₀ : State} (o : PermOps) (d : Dc) (s : State) (hk : Keeps r₀ s) :
    Keeps r₀ (State.permute o d s) := by
  unfold State.permute
  try dsimp only
  repeat' with_reducible first
    | assumption | apply State.reblock_keeps | apply State.permOut_keeps | apply State.permIn_keeps | split

theorem State.scatterRow_keeps {r₀ : State} (o : GatherOps) (d : Dc) (taint : Bool) (s : State)
    (m : (Option Nat × Nat) × Nat) (hk : Keeps r₀ s) :
    Keeps r₀ (State.scatterRow o d taint s m) := by
  unfold State.scatterRow
  try dsimp only
  repeat' with_reducible first
    | assumption | apply State.sramRead_keeps | apply State.hbmReadD_keeps | apply State.hbmWriteD_keeps
    | apply State.plotFault_keeps | split

theorem State.scatter_keeps {r₀ : State} (o : GatherOps) (d : Dc) (s : State) (hk : Keeps r₀ s) :
    Keeps r₀ (State.scatter o d s) := by
  unfold State.scatter
  try dsimp only
  repeat' first
    | exact fun _ i => i
    | with_reducible first
        | assumption | apply State.readIndices_keeps | apply State.rejectIndices_keeps | apply onTile_keeps
        | apply State.scatterRow_keeps | refine foldl_keeps ?_ fun _ _ _ => ?_
        | refine foldl_keeps_fst ?_ fun _ _ _ => ?_ | refine foldl_keeps_snd ?_ fun _ _ _ => ?_
        | refine foldl_keeps_third ?_ fun _ _ _ => ?_ | refine foldl_keeps_mid ?_ fun _ _ _ => ?_ | split

theorem execTileDmaIn_keeps {r₀ : State} (x : At) (h : DHead) (o : DmaOps) (s : State) (hk : Keeps r₀ s) :
    OutKeeps r₀ (execTileDmaIn x h o s) := by
  unfold execTileDmaIn
  try dsimp only
  repeat' with_reducible first
    | assumption | apply State.runDesc_keeps | apply State.dmaIn_keeps

theorem execTileDmaOut_keeps {r₀ : State} (x : At) (h : DHead) (o : DmaOps) (s : State) (hk : Keeps r₀ s) :
    OutKeeps r₀ (execTileDmaOut x h o s) := by
  unfold execTileDmaOut
  try dsimp only
  repeat' with_reducible first
    | assumption | apply State.runDesc_keeps | apply State.dmaOut_keeps

theorem execTileDmaPermute_keeps {r₀ : State} (x : At) (h : DHead) (o : PermOps) (s : State) (hk : Keeps r₀ s) :
    OutKeeps r₀ (execTileDmaPermute x h o s) := by
  unfold execTileDmaPermute
  try dsimp only
  repeat' with_reducible first
    | assumption | apply State.runDesc_keeps | apply State.permute_keeps

theorem execGather_keeps {r₀ : State} (x : At) (h : DHead) (o : GatherOps) (s : State) (hk : Keeps r₀ s) :
    OutKeeps r₀ (execGather x h o s) := by
  unfold execGather
  try dsimp only
  repeat' with_reducible first
    | assumption | apply State.runDesc_keeps | apply State.gather_keeps

theorem execScatter_keeps {r₀ : State} (x : At) (h : DHead) (o : GatherOps) (s : State) (hk : Keeps r₀ s) :
    OutKeeps r₀ (execScatter x h o s) := by
  unfold execScatter
  try dsimp only
  repeat' with_reducible first
    | assumption | apply State.runDesc_keeps | apply State.scatter_keeps

theorem execCopyEngine_keeps {r₀ : State} (x : At) (h : DHead) (o : CopyOps) (s : State) (hk : Keeps r₀ s) :
    OutKeeps r₀ (execCopyEngine x h o s) := by
  unfold execCopyEngine
  try dsimp only
  repeat' with_reducible first
    | assumption | apply State.runDesc_keeps | apply State.copyDesc_keeps | exact OutKeeps.fault _ | intro _
    | split

/-! ### Cells.lean -/

theorem State.contextSave_keeps {r₀ : State} (off : Nat) (d : Dc) (s : State) (hk : Keeps r₀ s) :
    Keeps r₀ (State.contextSave off d s) := by
  unfold State.contextSave
  try dsimp only
  repeat' with_reducible first
    | assumption | apply State.sramWrite_keeps

theorem State.contextRestore_keeps {r₀ : State} (off : Nat) (d : Dc) (s : State) (hk : Keeps r₀ s) :
    Keeps r₀ (State.contextRestore off d s) := by
  unfold State.contextRestore
  try dsimp only
  repeat' first
    | exact fun _ i => i
    | with_reducible first
        | assumption | apply State.sramRead_keeps | apply onTile_keeps

theorem State.egress_keeps {r₀ : State} (o : CellOps) (d : Dc) (s : State) (hk : Keeps r₀ s) :
    Keeps r₀ (State.egress o d s) := by
  unfold State.egress
  try dsimp only
  repeat' with_reducible first
    | assumption | apply State.sramRead_keeps | apply onPort_keeps

theorem State.handoff_keeps {r₀ : State} (o : HandoffOps) (d : Dc) (s : State) (hk : Keeps r₀ s) :
    Keeps r₀ (State.handoff o d s) := by
  unfold State.handoff
  try dsimp only
  repeat' with_reducible first
    | assumption | apply State.sramWriteAt_keeps

theorem State.ingress_keeps {r₀ : State} (o : CellOps) (d : Dc) (s : State) (hk : Keeps r₀ s) :
    Keeps r₀ (State.ingress o d s) := by
  unfold State.ingress
  try dsimp only
  repeat' first
    | exact fun _ i => i
    | with_reducible first
        | assumption | apply onTile_keeps

theorem execChainHandoff_keeps {r₀ : State} (x : At) (h : DHead) (o : HandoffOps) (s : State) (hk : Keeps r₀ s) :
    OutKeeps r₀ (execChainHandoff x h o s) := by
  unfold execChainHandoff
  try dsimp only
  repeat' with_reducible first
    | assumption | apply State.runDesc_keeps | apply State.handoff_keeps | exact OutKeeps.fault _ | intro _
    | split

theorem execCellEgress_keeps {r₀ : State} (x : At) (h : DHead) (o : CellOps) (s : State) (hk : Keeps r₀ s) :
    OutKeeps r₀ (execCellEgress x h o s) := by
  unfold execCellEgress
  try dsimp only
  repeat' with_reducible first
    | assumption | apply State.runDesc_keeps | apply State.egress_keeps | exact OutKeeps.fault _ | intro _
    | split

theorem execCellIngress_keeps {r₀ : State} (x : At) (h : DHead) (o : CellOps) (s : State) (hk : Keeps r₀ s) :
    OutKeeps r₀ (execCellIngress x h o s) := by
  unfold execCellIngress
  try dsimp only
  repeat' with_reducible first
    | assumption | apply State.runDesc_keeps | apply State.ingress_keeps | exact OutKeeps.fault _ | intro _
    | split

theorem execWait_keeps {r₀ : State} (x : At) (h : DHead) (unit : Nat) (s : State) (hk : Keeps r₀ s) :
    OutKeeps r₀ (execWait x h unit s) := by
  unfold execWait
  try dsimp only
  repeat' with_reducible first
    | assumption | apply State.runDesc_keeps | intro _

theorem execContextSave_keeps {r₀ : State} (x : At) (h : DHead) (off : Nat) (s : State) (hk : Keeps r₀ s) :
    OutKeeps r₀ (execContextSave x h off s) := by
  unfold execContextSave
  try dsimp only
  repeat' with_reducible first
    | assumption | apply State.runDesc_keeps | apply State.contextSave_keeps

theorem execContextRestore_keeps {r₀ : State} (x : At) (h : DHead) (off : Nat) (s : State) (hk : Keeps r₀ s) :
    OutKeeps r₀ (execContextRestore x h off s) := by
  unfold execContextRestore
  try dsimp only
  repeat' with_reducible first
    | assumption | apply State.runDesc_keeps | apply State.contextRestore_keeps

/-! ### Collective.lean -/

theorem State.readRecords_keeps {r₀ : State} (s : State) (d : Dc) (e : CollEntry) (i : Nat) (hk : Keeps r₀ s) :
    Keeps r₀ (State.readRecords s d e i).2 := by
  unfold State.readRecords
  try dsimp only
  repeat' with_reducible first
    | assumption | apply State.readRecord_keeps | refine foldl_keeps ?_ fun _ _ _ => ?_

theorem State.takeRecords_keeps {r₀ : State} (s : State) (e : CollEntry) (o : CollOps) (i : Nat) (rx : List Byte)
    (hk : Keeps r₀ s) :
    Keeps r₀ (State.takeRecords s e o i rx) := by
  unfold State.takeRecords
  try dsimp only
  repeat' with_reducible first
    | assumption | apply State.onRecord_keeps | refine foldl_keeps ?_ fun _ _ _ => ?_

theorem State.roundSend_keeps {r₀ : State} (s : State) (o : CollOps) (phase : Nat) (i : Nat) (poison : Bool)
    (void : Bool) (payload : List Byte) (hk : Keeps r₀ s) :
    Keeps r₀ (State.roundSend s o phase i poison void payload) := by
  unfold State.roundSend
  try dsimp only
  repeat' with_reducible first
    | assumption | apply onPort_keeps | split

theorem State.roundDataCell_keeps {r₀ : State} (s : State) (d : Dc) (e : CollEntry) (r : RoundRx) (i : Nat)
    (poison : Bool) (rx : Option (List Byte)) (hk : Keeps r₀ s) :
    Keeps r₀ (State.roundDataCell s d e r i poison rx).1 := by
  unfold State.roundDataCell
  try dsimp only
  repeat' with_reducible first
    | assumption | apply State.readRecords_keeps | apply State.sramWrite_keeps | apply State.takeRecords_keeps
    | apply State.roundSend_keeps | split

theorem State.sendTrailer_keeps {r₀ : State} (s : State) (d : Dc) (e : CollEntry) (r : RoundRx) (hk : Keeps r₀ s) :
    Keeps r₀ (State.sendTrailer s d e r) := by
  unfold State.sendTrailer
  try dsimp only
  repeat' with_reducible first
    | assumption | apply State.roundSend_keeps | split

theorem State.roundHeaders_keeps {r₀ : State} (s : State) (d : Dc) (o : CollOps) (poison : Bool) (k : Nat)
    (rx : Option (List Byte)) (hk : Keeps r₀ s) :
    Keeps r₀ (State.roundHeaders s d o poison k rx) := by
  unfold State.roundHeaders
  try dsimp only
  repeat' with_reducible first
    | assumption | apply State.plotFault_keeps | apply State.roundSend_keeps | apply State.sramWrite_keeps
    | refine foldl_keeps ?_ fun _ _ _ => ?_ | split

theorem State.roundCell_keeps {r₀ : State} (s : State) (d : Dc) (r : RoundRx) (i : Nat) (poison : Bool)
    (void : Bool) (rx : Option (List Byte)) (hk : Keeps r₀ s) :
    Keeps r₀ (State.roundCell s d r i poison void rx).1 := by
  unfold State.roundCell
  try dsimp only
  repeat' with_reducible first
    | assumption | apply State.roundDataCell_keeps | apply State.roundSend_keeps | apply State.plotFault_keeps
    | apply State.sendTrailer_keeps | apply State.roundHeaders_keeps | split

theorem State.checkChunk_keeps {r₀ : State} (d : Dc) (o : CollOps) (e : CollEntry) (area : List Byte) (s : State)
    (q : Nat) (hk : Keeps r₀ s) :
    Keeps r₀ (State.checkChunk d o e area s q) := by
  unfold State.checkChunk
  try dsimp only
  repeat' with_reducible first
    | assumption | apply State.plotFault_keeps | apply onRun_keeps | split

theorem State.collCheck_keeps {r₀ : State} (o : CollOps) (d : Dc) (s : State) (hk : Keeps r₀ s) :
    Keeps r₀ (State.collCheck o d s) := by
  unfold State.collCheck
  try dsimp only
  repeat' with_reducible first
    | assumption | apply State.sramRead_keeps | apply State.checkChunk_keeps
    | refine foldl_keeps ?_ fun _ _ _ => ?_ | refine foldl_keeps_fst ?_ fun _ _ _ => ?_
    | refine foldl_keeps_snd ?_ fun _ _ _ => ?_ | refine foldl_keeps_third ?_ fun _ _ _ => ?_
    | refine foldl_keeps_mid ?_ fun _ _ _ => ?_ | split

theorem State.combineRow_keeps {r₀ : State} (s : State) (d : Dc) (o : CollOps) (e : CollEntry)
    (choices : List (Int × W32)) (hk : Keeps r₀ s) :
    Keeps r₀ (State.combineRow s d o e choices).2.2 := by
  unfold State.combineRow
  try dsimp only
  repeat' with_reducible first
    | assumption | apply State.sxBytes_keeps | refine foldl_keeps ?_ fun _ _ _ => ?_
    | refine foldl_keeps_fst ?_ fun _ _ _ => ?_ | refine foldl_keeps_snd ?_ fun _ _ _ => ?_
    | refine foldl_keeps_third ?_ fun _ _ _ => ?_ | refine foldl_keeps_mid ?_ fun _ _ _ => ?_ | split

theorem State.combine_keeps {r₀ : State} (o : CollOps) (d : Dc) (s : State) (hk : Keeps r₀ s) :
    Keeps r₀ (State.combine o d s) := by
  unfold State.combine
  try dsimp only
  repeat' with_reducible first
    | assumption | apply State.sramRead_keeps | apply State.combineRow_keeps | apply State.sramWrites_keeps
    | refine foldl_keeps ?_ fun _ _ _ => ?_ | refine foldl_keeps_fst ?_ fun _ _ _ => ?_
    | refine foldl_keeps_snd ?_ fun _ _ _ => ?_ | refine foldl_keeps_third ?_ fun _ _ _ => ?_

theorem State.logChunks_keeps {r₀ : State} (s : State) (ps : List Packed) (hk : Keeps r₀ s) :
    Keeps r₀ (State.logChunks s ps) := by
  unfold State.logChunks
  try dsimp only
  repeat' with_reducible first
    | assumption | apply onTrain_keeps | split

theorem State.nextRound_keeps {r₀ : State} (s : State) (d : Dc) (coll : Nat) (hk : Keeps r₀ s) :
    Keeps r₀ (State.nextRound s d coll).2 := by
  unfold State.nextRound
  try dsimp only
  repeat' with_reducible first
    | assumption | apply onRun_keeps

theorem State.packSource_keeps {r₀ : State} (s : State) (d : Dc) (o : CollOps) (hk : Keeps r₀ s) :
    Keeps r₀ (State.packSource s d o).2.2 := by
  unfold State.packSource
  try dsimp only
  repeat' with_reducible first
    | assumption | apply State.sramRead_keeps | split

theorem State.pack_keeps {r₀ : State} (o : CollOps) (d : Dc) (s : State) (hk : Keeps r₀ s) :
    Keeps r₀ (State.pack o d s) := by
  unfold State.pack
  try dsimp only
  repeat' with_reducible first
    | assumption | apply State.packSource_keeps | apply State.sramRead_keeps | apply State.logChunks_keeps
    | apply State.onRecord_keeps | apply State.saturation_keeps | apply State.sramWrite_keeps | split

theorem State.placeDesc_keeps {r₀ : State} (o : CollOps) (d : Dc) (s : State) (hk : Keeps r₀ s) :
    Keeps r₀ (State.placeDesc o d s) := by
  unfold State.placeDesc
  try dsimp only
  repeat' first
    | exact fun _ i => i
    | exact fun i => by simp [i]
    | with_reducible first
        | assumption | apply State.sramRead_keeps | apply onHbm_keeps | apply onMem_keeps
        | apply State.sramWrite_keeps | refine foldl_keeps ?_ fun _ _ _ => ?_
        | refine foldl_keeps_fst ?_ fun _ _ _ => ?_ | refine foldl_keeps_snd ?_ fun _ _ _ => ?_
        | refine foldl_keeps_third ?_ fun _ _ _ => ?_ | refine foldl_keeps_mid ?_ fun _ _ _ => ?_
        | simp only [Keeps.mk_iff, KeepsOf.parts_iff]

theorem State.roundLocal_keeps {r₀ : State} (s : State) (d : Dc) (r : RoundRx) (hk : Keeps r₀ s) :
    Keeps r₀ (State.roundLocal s d r).1 := by
  unfold State.roundLocal
  try dsimp only
  repeat' with_reducible first
    | assumption | apply State.sramRead_keeps | apply State.roundSend_keeps
    | refine foldl_keeps ?_ fun _ _ _ => ?_ | refine foldl_keeps_fst ?_ fun _ _ _ => ?_
    | refine foldl_keeps_snd ?_ fun _ _ _ => ?_ | refine foldl_keeps_third ?_ fun _ _ _ => ?_
    | refine foldl_keeps_mid ?_ fun _ _ _ => ?_ | split

theorem State.round_keeps {r₀ : State} (o : CollOps) (d : Dc) (s : State) (hk : Keeps r₀ s) :
    Keeps r₀ (State.round o d s) := by
  unfold State.round
  try dsimp only
  repeat' first
    | exact fun _ i => i
    | with_reducible first
        | assumption | apply State.nextRound_keeps | apply State.sramRead_keeps | apply State.roundLocal_keeps
        | apply State.sendTrailer_keeps | apply onTile_keeps | apply State.roundDataCell_keeps
        | apply State.roundHeaders_keeps | refine foldl_keeps ?_ fun _ _ _ => ?_
        | refine foldl_keeps_fst ?_ fun _ _ _ => ?_ | refine foldl_keeps_snd ?_ fun _ _ _ => ?_
        | refine foldl_keeps_third ?_ fun _ _ _ => ?_ | refine foldl_keeps_mid ?_ fun _ _ _ => ?_ | split

theorem State.runColl_keeps {r₀ : State} (s : State) (x : At) (h : DHead) (op : Nat) (o : CollOps)
    (eff : CollOps → Dc → State → State) (hs : Keeps r₀ s) (he : ∀ d t, Keeps r₀ t → Keeps r₀ (eff o d t)) :
    OutKeeps r₀ (State.runColl s x h op o eff) := by
  unfold State.runColl
  split
  · exact .fault _
  · exact State.runDesc_keeps _ _ _ _ _ hs he

theorem execCollectivePack_keeps {r₀ : State} (x : At) (h : DHead) (o : CollOps) (s : State) (hk : Keeps r₀ s) :
    OutKeeps r₀ (execCollectivePack x h o s) := by
  unfold execCollectivePack
  try dsimp only
  repeat' with_reducible first
    | assumption | apply State.runColl_keeps | apply State.pack_keeps

theorem execCollectiveRound_keeps {r₀ : State} (x : At) (h : DHead) (o : CollOps) (s : State) (hk : Keeps r₀ s) :
    OutKeeps r₀ (execCollectiveRound x h o s) := by
  unfold execCollectiveRound
  try dsimp only
  repeat' with_reducible first
    | assumption | apply State.runColl_keeps | apply State.round_keeps

theorem execCollectiveCheck_keeps {r₀ : State} (x : At) (h : DHead) (o : CollOps) (s : State) (hk : Keeps r₀ s) :
    OutKeeps r₀ (execCollectiveCheck x h o s) := by
  unfold execCollectiveCheck
  try dsimp only
  repeat' with_reducible first
    | assumption | apply State.runColl_keeps | apply State.collCheck_keeps

theorem execPlace_keeps {r₀ : State} (x : At) (h : DHead) (o : CollOps) (s : State) (hk : Keeps r₀ s) :
    OutKeeps r₀ (execPlace x h o s) := by
  unfold execPlace
  try dsimp only
  repeat' with_reducible first
    | assumption | apply State.runColl_keeps | apply State.placeDesc_keeps

theorem execCombine_keeps {r₀ : State} (x : At) (h : DHead) (o : CollOps) (s : State) (hk : Keeps r₀ s) :
    OutKeeps r₀ (execCombine x h o s) := by
  unfold execCombine
  try dsimp only
  repeat' with_reducible first
    | assumption | apply State.runColl_keeps | apply State.combine_keeps

/-! ### Copies.lean -/

theorem State.copyRead_keeps {r₀ : State} (s : State) (plot a n : Nat) (h : Keeps r₀ s) :
    Keeps r₀ (State.copyRead s plot a n).2 := by
  refine State.seenHost_keeps _ _ _ (onHbm_keeps h fun i => ?_)
  split
  · exact viewFetch_wf i _ _ _
  · exact hbmFetch_wf i _ _ _

theorem State.hostFetch_keeps {r₀ : State} (s : State) (plot : Nat) (a : Nat) (n : Nat) (hk : Keeps r₀ s) :
    Keeps r₀ (State.hostFetch s plot a n).2 := by
  unfold State.hostFetch
  try dsimp only
  repeat' with_reducible first
    | assumption | apply State.copyRead_keeps

theorem State.setCopyJob_keeps {r₀ : State} (s : State) (q : Nat) (j : Option CopyJob) (hk : Keeps r₀ s) :
    Keeps r₀ (State.setCopyJob s q j) := by
  unfold State.setCopyJob
  try dsimp only
  repeat' with_reducible first
    | assumption | simp only [Keeps.mk_iff, KeepsOf.parts_iff]

theorem State.movePiece_keeps {r₀ : State} (s : State) (q : Nat) (plot : Nat) (e : CopyEntry) (at_ : Nat) (k : Nat)
    (hk : Keeps r₀ s) :
    Keeps r₀ (State.movePiece s q plot e at_ k).2 := by
  unfold State.movePiece
  try dsimp only
  repeat' with_reducible first
    | assumption | apply State.hostFetch_keeps | apply State.hbmWrite_keeps | apply emit_keeps
    | refine foldl_keeps ?_ fun _ _ _ => ?_ | refine foldl_keeps_fst ?_ fun _ _ _ => ?_
    | refine foldl_keeps_snd ?_ fun _ _ _ => ?_ | refine foldl_keeps_third ?_ fun _ _ _ => ?_
    | refine foldl_keeps_mid ?_ fun _ _ _ => ?_ | split

theorem State.moveCopy_keeps {r₀ : State} (s : State) (q : Nat) (plot : Nat) (j : CopyJob) (k : Nat)
    (hk : Keeps r₀ s) :
    Keeps r₀ (State.moveCopy s q plot j k) := by
  unfold State.moveCopy
  try dsimp only
  repeat' with_reducible first
    | assumption | apply State.setCopyJob_keeps | apply State.discarded_keeps | apply State.movePiece_keeps
    | split

theorem finishCopy_keeps {r₀ : State} (q plot stop fuel : Nat) (s : State) (h : Keeps r₀ s) :
    Keeps r₀ (finishCopy q plot stop fuel s) := by
  induction fuel generalizing s with
  | zero => exact h
  | succ fuel ih =>
    unfold finishCopy
    split
    · exact h
    · split
      · exact h
      · exact ih _ (State.moveCopy_keeps _ _ _ _ _ h)

theorem State.queueAbort_keeps {r₀ : State} (s : State) (q : Nat) (bytesDone : Nat) (hk : Keeps r₀ s) :
    Keeps r₀ (State.queueAbort s q bytesDone) := by
  unfold State.queueAbort
  try dsimp only
  repeat' with_reducible first
    | assumption | apply State.onQ_keeps | apply finishCopy_keeps | apply State.setCopyJob_keeps
    | apply State.drained_keeps | split

theorem State.queueDrain_keeps {r₀ : State} (s : State) (q : Nat) (hk : Keeps r₀ s) :
    Keeps r₀ (State.queueDrain s q) := by
  unfold State.queueDrain
  try dsimp only
  repeat' with_reducible first
    | assumption | apply State.drained_keeps | apply State.onQ_keeps | split

theorem execDmaQueueEnable_keeps {r₀ : State} (q : Nat) (s : State) (hk : Keeps r₀ s) :
    OutKeeps r₀ (execDmaQueueEnable q s) := by
  unfold execDmaQueueEnable
  try dsimp only
  repeat' with_reducible first
    | assumption | apply State.onQ_keeps | refine OutKeeps.next ?_ | exact OutKeeps.fault _ | split

theorem execDmaQueueDrain_keeps {r₀ : State} (q : Nat) (s : State) (hk : Keeps r₀ s) :
    OutKeeps r₀ (execDmaQueueDrain q s) := by
  unfold execDmaQueueDrain
  try dsimp only
  repeat' with_reducible first
    | assumption | apply State.queueDrain_keeps | refine OutKeeps.next ?_ | exact OutKeeps.fault _ | split

theorem execDmaQueueAbort_keeps {r₀ : State} (q : Nat) (bytesDone : Nat) (s : State) (hk : Keeps r₀ s) :
    OutKeeps r₀ (execDmaQueueAbort q bytesDone s) := by
  unfold execDmaQueueAbort
  try dsimp only
  repeat' with_reducible first
    | assumption | apply State.queueAbort_keeps | refine OutKeeps.next ?_ | exact OutKeeps.fault _ | split

theorem execDmaQtailDoorbell_keeps {r₀ : State} (q : Nat) (value : W32) (s : State) (hk : Keeps r₀ s) :
    OutKeeps r₀ (execDmaQtailDoorbell q value s) := by
  unfold execDmaQtailDoorbell
  try dsimp only
  repeat' with_reducible first
    | assumption | apply State.onQ_keeps | refine OutKeeps.next ?_ | exact OutKeeps.fault _ | split

theorem execHostCopyEntryStart_keeps {r₀ : State} (q : Nat) (e : CopyStart) (s : State) (hk : Keeps r₀ s) :
    OutKeeps r₀ (execHostCopyEntryStart q e s) := by
  unfold execHostCopyEntryStart
  try dsimp only
  repeat' with_reducible first
    | assumption | apply State.onQ_keeps | apply State.copyPost_keeps | apply State.discarded_keeps
    | apply State.setCopyJob_keeps | refine OutKeeps.next ?_ | exact OutKeeps.fault _ | split

theorem execHostCopyComplete_keeps {r₀ : State} (q : Nat) (failedAt : Option Nat) (ringOk : Bool) (s : State)
    (hk : Keeps r₀ s) :
    OutKeeps r₀ (execHostCopyComplete q failedAt ringOk s) := by
  unfold execHostCopyComplete
  try dsimp only
  repeat' with_reducible first
    | assumption | apply finishCopy_keeps | apply State.copyPost_keeps | apply State.setCopyJob_keeps
    | refine OutKeeps.next ?_ | exact OutKeeps.fault _ | split

theorem execUnscheduledCopyGroup_keeps {r₀ : State} (q : Nat) (s : State) (hk : Keeps r₀ s) :
    OutKeeps r₀ (execUnscheduledCopyGroup q s) := by
  unfold execUnscheduledCopyGroup
  try dsimp only
  repeat' with_reducible first
    | assumption | apply State.moveCopy_keeps | refine OutKeeps.next ?_ | exact OutKeeps.fault _ | split

end Sys2Proof.Machine
end

