-- ==== Sys2Proof/Laws/KeepsCommands.lean ====
section
/-! SUPPORT. One lemma per operation: what it keeps (Keeps.lean), for the commands of profiles, power, information, firmware, registers, time, links and the background plane. -/
namespace Sys2Proof.Machine

/-! ### Profiles.lean -/

theorem State.dropContexts_keeps {r₀ : State} (s : State) (h : Keeps r₀ s) : Keeps r₀ (State.dropContexts s) := by
  unfold State.dropContexts
  split
  · exact h
  · exact foldl_keeps h fun t p ht => hbmPut_keeps ht _ _ _

theorem State.zeroTiles_keeps {r₀ : State} (s : State) (f : Nat → Bool) (h : Keeps r₀ s) :
    Keeps r₀ (State.zeroTiles s f) :=
  onMem_keeps h fun m i => ⟨i.1, fun y hy => by
    obtain ⟨x, hx, rfl⟩ := List.mem_map.1 hy
    dsimp only
    split
    · rfl
    · exact i.2 _ (List.fst_mem_of_mem_zipIdx hx)⟩

theorem State.keepBad_keeps {r₀ : State} (s : State) (t : State) (hk18 : Keeps r₀ t) :
    Keeps r₀ (State.keepBad s t) := by
  unfold State.keepBad
  try dsimp only
  repeat' with_reducible first
    | assumption | simp only [Keeps.mk_iff, KeepsOf.parts_iff]

theorem State.switchProfile_keeps {r₀ : State} (s : State) (n : Nat) (b : List Byte) (hk : Keeps r₀ s) :
    Keeps r₀ (State.switchProfile s n b) := by
  unfold State.switchProfile
  try dsimp only
  repeat' with_reducible first
    | assumption | apply State.onQ_keeps | apply onPair_keeps | apply State.keepBad_keeps
    | apply State.takeProfile_keeps | apply State.dropContexts_keeps | apply State.zeroTiles_keeps
    | refine foldl_keeps ?_ fun _ _ _ => ?_ | refine foldl_keeps_fst ?_ fun _ _ _ => ?_
    | refine foldl_keeps_snd ?_ fun _ _ _ => ?_ | refine foldl_keeps_third ?_ fun _ _ _ => ?_
    | refine foldl_keeps_mid ?_ fun _ _ _ => ?_ | simp only [Keeps.mk_iff, KeepsOf.parts_iff]

theorem execSetProfile_keeps {r₀ : State} (c : Slot) (s : State) (hk : Keeps r₀ s) :
    OutKeeps r₀ (execSetProfile c s) := by
  unfold execSetProfile
  try dsimp only
  repeat' with_reducible first
    | assumption | apply aqvel_keeps | apply guarded_keeps | exact Reply.keeps_fail
    | refine Reply.keeps_accepted ?_ | intro _ | split

theorem execReadProfile_keeps {r₀ : State} (c : Slot) (s : State) (hk : Keeps r₀ s) :
    OutKeeps r₀ (execReadProfile c s) := by
  unfold execReadProfile
  try dsimp only
  repeat' with_reducible first
    | assumption | apply aqvel_keeps | apply guarded_keeps | apply writesExt_keeps | exact Reply.keeps_fail
    | refine Reply.keeps_done ?_ | intro _ | split

theorem execWriteProfile_keeps {r₀ : State} (c : Slot) (s : State) (hk : Keeps r₀ s) :
    OutKeeps r₀ (execWriteProfile c s) := by
  unfold execWriteProfile
  try dsimp only
  repeat' with_reducible first
    | assumption | apply aqvel_keeps | apply guarded_keeps | apply readsExt_keeps | exact Reply.keeps_fail
    | refine Reply.keeps_accepted ?_ | intro _ | split

theorem execSetProfileEnd_keeps {r₀ : State} (s : State) (hk : Keeps r₀ s) :
    OutKeeps r₀ (execSetProfileEnd s) := by
  unfold execSetProfileEnd
  try dsimp only
  repeat' with_reducible first
    | assumption | apply State.endJob_keeps | apply State.switchProfile_keeps | refine OutKeeps.next ?_ | split

theorem execWriteProfileEnd_keeps {r₀ : State} (ok : Bool) (s : State) (hk : Keeps r₀ s) :
    OutKeeps r₀ (execWriteProfileEnd ok s) := by
  unfold execWriteProfileEnd
  try dsimp only
  repeat' with_reducible first
    | assumption | apply State.endJob_keeps | simp only [Keeps.mk_iff, KeepsOf.parts_iff]
    | refine OutKeeps.next ?_ | split

/-! ### Power.lean -/

theorem State.thermalLeave_keeps {r₀ : State} (s : State) (hk : Keeps r₀ s) :
    Keeps r₀ (State.thermalLeave s) := by
  unfold State.thermalLeave
  try dsimp only
  repeat' first
    | exact fun _ i => i
    | with_reducible first
        | assumption | apply State.haltTraining_keeps | apply State.endHamper_keeps
        | apply State.linkTrainEnd_keeps | apply onPorts_keeps | apply onTime_keeps | apply State.rest_keeps

theorem State.critical_keeps {r₀ : State} (s : State) (i : Nat) (hk : Keeps r₀ s) :
    Keeps r₀ (State.critical s i) := by
  unfold State.critical
  try dsimp only
  repeat' with_reducible first
    | assumption | apply State.notice_keeps | apply State.thermalLeave_keeps | apply State.haltServing_keeps
    | split

theorem State.mapSpares_keeps {r₀ : State} (s : State) (t : SelfTest) (clusters : List Nat)
    (tiles : List (Nat × Nat)) (hk : Keeps r₀ s) :
    Keeps r₀ (State.mapSpares s t clusters tiles) := by
  unfold State.mapSpares
  try dsimp only
  repeat' with_reducible first
    | assumption | simp only [Keeps.mk_iff, KeepsOf.parts_iff] | split

theorem State.readSensor_keeps {r₀ : State} (s : State) (i : Nat) (r : Int) (hk : Keeps r₀ s) :
    Keeps r₀ (State.readSensor s i r) := by
  unfold State.readSensor
  try dsimp only
  repeat' with_reducible first
    | assumption | apply onStack_keeps | apply State.critical_keeps | apply State.notice_keeps
    | simp only [Keeps.mk_iff, KeepsOf.parts_iff] | split

theorem State.toHold_keeps {r₀ : State} (s : State) (scope : Nat) (kind : Nat) (step : Nat) (ms : Nat)
    (hstacks : List Nat) (ports : List Nat) (hk : Keeps r₀ s) :
    Keeps r₀ (State.toHold s scope kind step ms hstacks ports) := by
  unfold State.toHold
  try dsimp only
  repeat' with_reducible first
    | assumption | apply withFaultN_keeps | apply State.notice_keeps | apply State.refreshBy_keeps
    | simp only [Keeps.mk_iff, KeepsOf.parts_iff]

theorem State.testZero_keeps {r₀ : State} (s : State) (t : SelfTest)
    (h : Keeps r₀ s) : Keeps r₀ (State.testZero s t) :=
  onMem_keeps (State.zeroTiles_keeps _ _ h) fun _ i => ⟨foldl_clearStack_wf i.1 _, i.2⟩

theorem State.toReady_keeps {r₀ : State} (s : State) (hk : Keeps r₀ s) :
    Keeps r₀ (State.toReady s) := by
  unfold State.toReady
  try dsimp only
  repeat' with_reducible first
    | assumption | apply State.pinTo_keeps | apply onHost_keeps | apply State.rest_keeps
    | apply State.takeProfile_keeps | simp only [Keeps.mk_iff, KeepsOf.parts_iff] | split

theorem State.stepEnd_keeps {r₀ : State} (s : State) (t : SelfTest) (r : StepResult) (hk : Keeps r₀ s) :
    Keeps r₀ (State.stepEnd s t r) := by
  unfold State.stepEnd
  try dsimp only
  repeat' with_reducible first
    | assumption | apply State.mapSpares_keeps | apply onPort_keeps | apply State.toHold_keeps
    | apply State.endOp_keeps | apply State.notice_keeps | apply onPlot_keeps | apply State.testZero_keeps
    | apply State.toReady_keeps | refine foldl_keeps ?_ fun _ _ _ => ?_
    | refine foldl_keeps_fst ?_ fun _ _ _ => ?_ | refine foldl_keeps_snd ?_ fun _ _ _ => ?_
    | refine foldl_keeps_third ?_ fun _ _ _ => ?_ | refine foldl_keeps_mid ?_ fun _ _ _ => ?_
    | simp only [Keeps.mk_iff, KeepsOf.parts_iff] | split

theorem execRunSelftest_keeps {r₀ : State} (c : Slot) (s : State) (hk : Keeps r₀ s) :
    OutKeeps r₀ (execRunSelftest c s) := by
  unfold execRunSelftest
  try dsimp only
  repeat' with_reducible first
    | assumption | apply aqvel_keeps | apply guarded_keeps | apply onPorts_keeps
    | simp only [Keeps.mk_iff, KeepsOf.parts_iff] | exact Reply.keeps_fail | refine Reply.keeps_accepted ?_
    | intro _ | split

theorem execReset_keeps {r₀ : State} (c : Slot) (s : State) (hk : Keeps r₀ s) :
    OutKeeps r₀ (execReset c s) := by
  unfold execReset
  try dsimp only
  repeat' with_reducible first
    | assumption | apply aqvel_keeps | apply guarded_keeps | apply State.controllerReset_keeps
    | apply State.plotReset_keeps | simp only [Keeps.mk_iff, KeepsOf.parts_iff] | exact Reply.keeps_fail
    | refine Reply.keeps_doneThen ?_ fun _ _ => ?_ | intro _ | split

theorem execCommandChipReset_keeps {r₀ : State} (s : State) (hk : Keeps r₀ s) :
    OutKeeps r₀ (execCommandChipReset s) := by
  unfold execCommandChipReset
  try dsimp only
  repeat' with_reducible first
    | assumption | apply State.chipReset_keeps | refine OutKeeps.next ?_ | split

theorem execPowerOnReset_keeps {r₀ : State} (vioLost : Bool) (s : State) (hk : Keeps r₀ s) :
    OutKeeps r₀ (execPowerOnReset vioLost s) := by
  unfold execPowerOnReset
  try dsimp only
  repeat' with_reducible first
    | assumption | apply State.chipReset_keeps | apply State.pinTo_keeps
    | simp only [Keeps.mk_iff, KeepsOf.parts_iff] | refine OutKeeps.next ?_

theorem execPwrOkDeassert_keeps {r₀ : State} (s : State) (hk : Keeps r₀ s) :
    OutKeeps r₀ (execPwrOkDeassert s) := by
  unfold execPwrOkDeassert
  try dsimp only
  repeat' with_reducible first
    | assumption | apply State.chipReset_keeps | apply State.pinTo_keeps
    | simp only [Keeps.mk_iff, KeepsOf.parts_iff] | refine OutKeeps.next ?_

theorem execPinReset_keeps {r₀ : State} (s : State) (hk : Keeps r₀ s) :
    OutKeeps r₀ (execPinReset s) := by
  unfold execPinReset
  try dsimp only
  repeat' with_reducible first
    | assumption | apply State.chipReset_keeps | simp only [Keeps.mk_iff, KeepsOf.parts_iff]
    | refine OutKeeps.next ?_ | split

theorem execSupplyDipEnd_keeps {r₀ : State} (lowestMv : Nat) (s : State) (hk : Keeps r₀ s) :
    OutKeeps r₀ (execSupplyDipEnd lowestMv s) := by
  unfold execSupplyDipEnd
  try dsimp only
  repeat' with_reducible first
    | assumption | apply State.writeRecord_keeps | apply onTrain_keeps | apply onRun_keeps
    | simp only [Keeps.mk_iff, KeepsOf.parts_iff] | refine OutKeeps.next ?_ | split

theorem execSupplyReset_keeps {r₀ : State} (vcore : Bool) (s : State) (hk : Keeps r₀ s) :
    OutKeeps r₀ (execSupplyReset vcore s) := by
  unfold execSupplyReset
  try dsimp only
  repeat' with_reducible first
    | assumption | apply State.chipReset_keeps | refine OutKeeps.next ?_

theorem execSupplyDipTimeout_keeps {r₀ : State} (s : State) (hk : Keeps r₀ s) :
    OutKeeps r₀ (execSupplyDipTimeout s) := by
  unfold execSupplyDipTimeout
  try dsimp only
  repeat' with_reducible first
    | assumption | apply State.chipReset_keeps | refine OutKeeps.next ?_ | split

theorem execThermalSample_keeps {r₀ : State} (readings : List Int) (s : State) (hk : Keeps r₀ s) :
    OutKeeps r₀ (execThermalSample readings s) := by
  unfold execThermalSample
  try dsimp only
  repeat' with_reducible first
    | assumption | apply State.readSensor_keeps | refine foldl_keeps ?_ fun _ _ _ => ?_
    | refine OutKeeps.next ?_ | split

theorem execThermalTrip_keeps {r₀ : State} (s : State) (hk : Keeps r₀ s) :
    OutKeeps r₀ (execThermalTrip s) := by
  unfold execThermalTrip
  try dsimp only
  repeat' with_reducible first
    | assumption | apply State.pinTo_keeps | apply State.chipReset_keeps
    | simp only [Keeps.mk_iff, KeepsOf.parts_iff] | refine OutKeeps.next ?_

theorem execPowerSample_keeps {r₀ : State} (mv : List Nat) (ma : List Nat) (s : State) (hk : Keeps r₀ s) :
    OutKeeps r₀ (execPowerSample mv ma s) := by
  unfold execPowerSample
  try dsimp only
  repeat' with_reducible first
    | assumption | simp only [Keeps.mk_iff, KeepsOf.parts_iff] | refine OutKeeps.next ?_

theorem execBootComplete_keeps {r₀ : State} (i : BootInfo) (s : State) (hk : Keeps r₀ s) :
    OutKeeps r₀ (execBootComplete i s) := by
  unfold execBootComplete
  try dsimp only
  repeat' with_reducible first
    | assumption | apply emit_keeps | apply State.toHold_keeps | simp only [Keeps.mk_iff, KeepsOf.parts_iff]
    | refine OutKeeps.next ?_ | split

theorem execSelftestStepEnd_keeps {r₀ : State} (r : StepResult) (s : State) (hk : Keeps r₀ s) :
    OutKeeps r₀ (execSelftestStepEnd r s) := by
  unfold execSelftestStepEnd
  try dsimp only
  repeat' with_reducible first
    | assumption | apply State.stepEnd_keeps | refine OutKeeps.next ?_ | split

theorem execResetNDeassert_keeps {r₀ : State} (profsel : Nat) (slotId : Nat) (s : State) (hk : Keeps r₀ s) :
    OutKeeps r₀ (execResetNDeassert profsel slotId s) := by
  unfold execResetNDeassert
  try dsimp only
  repeat' with_reducible first
    | assumption | apply State.takeProfile_keeps | simp only [Keeps.mk_iff, KeepsOf.parts_iff]
    | refine OutKeeps.next ?_ | split

theorem execTapInstruction_keeps {r₀ : State} (i : TapInstr) (trst : Bool) (s : State) (hk : Keeps r₀ s) :
    OutKeeps r₀ (execTapInstruction i trst s) := by
  unfold execTapInstruction
  try dsimp only
  repeat' with_reducible first
    | assumption | apply emit_keeps | simp only [Keeps.mk_iff, KeepsOf.parts_iff] | refine OutKeeps.next ?_

/-! ### Dips.lean -/

theorem State.dipEvent_keeps {r₀ : State} (s : State) (w : Site) (hk : Keeps r₀ s) :
    Keeps r₀ (State.dipEvent s w) := by
  unfold State.dipEvent
  try dsimp only
  repeat' with_reducible first
    | assumption | apply State.event_keeps

theorem State.lateDip_keeps {r₀ : State} (s : State) (r : Run) (w : Site) (hk : Keeps r₀ s) :
    Keeps r₀ (State.lateDip s r w) := by
  unfold State.lateDip
  try dsimp only
  repeat' with_reducible first
    | assumption | apply State.declareSuspect_keeps | apply onRun_keeps | apply State.onHolds_keeps | split

theorem State.runDip_keeps {r₀ : State} (s : State) (r : Run) (w : Site) (hk : Keeps r₀ s) :
    Keeps r₀ (State.runDip s r w) := by
  unfold State.runDip
  try dsimp only
  repeat' with_reducible first
    | assumption | apply State.failCheck_keeps | apply State.lateDip_keeps | apply onTrain_keeps
    | apply onRun_keeps | split

theorem execSupplyDipBegin_keeps {r₀ : State} (vcore : Bool) (mv : Nat) (s : State) (hk : Keeps r₀ s) :
    OutKeeps r₀ (execSupplyDipBegin vcore mv s) := by
  unfold execSupplyDipBegin
  try dsimp only
  repeat' with_reducible first
    | assumption | apply State.dipEvent_keeps | apply State.runDip_keeps
    | simp only [Keeps.mk_iff, KeepsOf.parts_iff] | refine OutKeeps.next ?_ | split

theorem execBadOpcode_keeps {r₀ : State} (opcode : W16) (c : Slot) (s : State) (hk : Keeps r₀ s) :
    OutKeeps r₀ (execBadOpcode opcode c s) := by
  unfold execBadOpcode
  try dsimp only
  repeat' with_reducible first
    | assumption | apply badOpcodeSlot_keeps | refine OutKeeps.next ?_ | split

/-! ### Info.lean -/

theorem State.zeroCounters_keeps {r₀ : State} (s : State) (n : Nat) (h : Keeps r₀ s) :
    Keeps r₀ (State.zeroCounters s n) := by
  refine onMem_keeps h fun m i => ?_
  split
  · refine ⟨i.1, fun y hy => ?_⟩
    obtain ⟨x, hx, rfl⟩ := List.mem_map.1 hy
    exact i.2 x hx
  · split <;> exact i

theorem execGetInfo_keeps {r₀ : State} (c : Slot) (s : State) (hk : Keeps r₀ s) :
    OutKeeps r₀ (execGetInfo c s) := by
  unfold execGetInfo
  try dsimp only
  repeat' with_reducible first
    | assumption | apply aqvel_keeps | apply guarded_keeps | apply writesExt_keeps | refine Reply.keeps_done ?_
    | intro _

theorem execGetState_keeps {r₀ : State} (c : Slot) (s : State) (hk : Keeps r₀ s) :
    OutKeeps r₀ (execGetState c s) := by
  unfold execGetState
  try dsimp only
  repeat' with_reducible first
    | assumption | apply aqvel_keeps | apply guarded_keeps | apply writesExt_keeps | refine Reply.keeps_done ?_
    | intro _ | split

theorem execReadCounters_keeps {r₀ : State} (c : Slot) (s : State) (hk : Keeps r₀ s) :
    OutKeeps r₀ (execReadCounters c s) := by
  unfold execReadCounters
  try dsimp only
  repeat' with_reducible first
    | assumption | apply aqvel_keeps | apply guarded_keeps | apply writesExt_keeps
    | apply State.zeroCounters_keeps | exact Reply.keeps_fail | refine Reply.keeps_done ?_ | intro _ | split

theorem execReadSelftest_keeps {r₀ : State} (c : Slot) (s : State) (hk : Keeps r₀ s) :
    OutKeeps r₀ (execReadSelftest c s) := by
  unfold execReadSelftest
  try dsimp only
  repeat' with_reducible first
    | assumption | apply aqvel_keeps | apply guarded_keeps | apply writesExt_keeps | refine Reply.keeps_done ?_
    | intro _

theorem recordsReply_keeps {r₀ : State} (s : State) (c : Slot) (size : Nat) (l : List (Nat × List Byte))
    (first : Nat) (count : Nat) (hk : Keeps r₀ s) :
    (recordsReply s c size l first count).Keeps r₀ := by
  unfold recordsReply
  try dsimp only
  repeat' with_reducible first
    | assumption | apply writesExt_keeps | refine Reply.keeps_done ?_ | intro _

theorem execReadEvents_keeps {r₀ : State} (c : Slot) (s : State) (hk : Keeps r₀ s) :
    OutKeeps r₀ (execReadEvents c s) := by
  unfold execReadEvents
  try dsimp only
  repeat' with_reducible first
    | assumption | apply aqvel_keeps | apply guarded_keeps | apply recordsReply_keeps | intro _

theorem execReadCper_keeps {r₀ : State} (c : Slot) (s : State) (hk : Keeps r₀ s) :
    OutKeeps r₀ (execReadCper c s) := by
  unfold execReadCper
  try dsimp only
  repeat' with_reducible first
    | assumption | apply aqvel_keeps | apply guarded_keeps | apply recordsReply_keeps | intro _

theorem execClearSuspect_keeps {r₀ : State} (c : Slot) (s : State) (hk : Keeps r₀ s) :
    OutKeeps r₀ (execClearSuspect c s) := by
  unfold execClearSuspect
  try dsimp only
  repeat' with_reducible first
    | assumption | apply aqvel_keeps | apply guarded_keeps | apply onTrain_keeps | apply withFaultN_keeps
    | simp only [Keeps.mk_iff, KeepsOf.parts_iff] | refine Reply.keeps_done ?_ | intro _

theorem execReadJournal_keeps {r₀ : State} (c : Slot) (s : State) (hk : Keeps r₀ s) :
    OutKeeps r₀ (execReadJournal c s) := by
  unfold execReadJournal
  try dsimp only
  repeat' with_reducible first
    | assumption | apply aqvel_keeps | apply guarded_keeps | apply recordsReply_keeps | intro _

theorem execReadPower_keeps {r₀ : State} (c : Slot) (s : State) (hk : Keeps r₀ s) :
    OutKeeps r₀ (execReadPower c s) := by
  unfold execReadPower
  try dsimp only
  repeat' with_reducible first
    | assumption | apply aqvel_keeps | apply guarded_keeps | apply writesExt_keeps
    | simp only [Keeps.mk_iff, KeepsOf.parts_iff] | refine Reply.keeps_done ?_ | intro _

theorem execReadThermal_keeps {r₀ : State} (c : Slot) (s : State) (hk : Keeps r₀ s) :
    OutKeeps r₀ (execReadThermal c s) := by
  unfold execReadThermal
  try dsimp only
  repeat' with_reducible first
    | assumption | apply aqvel_keeps | apply guarded_keeps | apply writesExt_keeps
    | simp only [Keeps.mk_iff, KeepsOf.parts_iff] | refine Reply.keeps_done ?_ | intro _

/-! ### Firmware.lean -/

theorem execFwStage_keeps {r₀ : State} (c : Slot) (s : State) (hk : Keeps r₀ s) :
    OutKeeps r₀ (execFwStage c s) := by
  unfold execFwStage
  try dsimp only
  repeat' with_reducible first
    | assumption | apply aqvel_keeps | apply guarded_keeps | apply readsExt_keeps
    | simp only [Keeps.mk_iff, KeepsOf.parts_iff] | exact Reply.keeps_fail | refine Reply.keeps_done ?_
    | refine Reply.keeps_accepted ?_ | intro _ | split

theorem execFwActivate_keeps {r₀ : State} (c : Slot) (s : State) (hk : Keeps r₀ s) :
    OutKeeps r₀ (execFwActivate c s) := by
  unfold execFwActivate
  try dsimp only
  repeat' with_reducible first
    | assumption | apply aqvel_keeps | apply guarded_keeps | simp only [Keeps.mk_iff, KeepsOf.parts_iff]
    | exact Reply.keeps_fail | refine Reply.keeps_done ?_ | refine Reply.keeps_accepted ?_ | intro _ | split

theorem execControllerRestartEnd_keeps {r₀ : State} (s : State) (hk : Keeps r₀ s) :
    OutKeeps r₀ (execControllerRestartEnd s) := by
  unfold execControllerRestartEnd
  try dsimp only
  repeat' with_reducible first
    | assumption | apply State.endOp_keeps | simp only [Keeps.mk_iff, KeepsOf.parts_iff]
    | refine OutKeeps.next ?_ | split

theorem execFwRevertTimeout_keeps {r₀ : State} (s : State) (hk : Keeps r₀ s) :
    OutKeeps r₀ (execFwRevertTimeout s) := by
  unfold execFwRevertTimeout
  try dsimp only
  repeat' with_reducible first
    | assumption | apply State.endOp_keeps | apply State.event_keeps
    | simp only [Keeps.mk_iff, KeepsOf.parts_iff] | refine OutKeeps.next ?_ | split

theorem execFwStageEnd_keeps {r₀ : State} (s : State) (hk : Keeps r₀ s) :
    OutKeeps r₀ (execFwStageEnd s) := by
  unfold execFwStageEnd
  try dsimp only
  repeat' with_reducible first
    | assumption | apply State.endJob_keeps | simp only [Keeps.mk_iff, KeepsOf.parts_iff]
    | refine OutKeeps.next ?_ | split

/-! ### HostRegs.lean -/

theorem State.cqHeadTo_keeps {r₀ : State} (s : State) (n : Nat) (v : W32) (hk : Keeps r₀ s) :
    Keeps r₀ (State.cqHeadTo s n v) := by
  unfold State.cqHeadTo
  try dsimp only
  repeat' with_reducible first
    | assumption | apply onPair_keeps | split

theorem State.pairDisable_keeps {r₀ : State} (s : State) (n : Nat) (hk : Keeps r₀ s) :
    Keeps r₀ (State.pairDisable s n) := by
  unfold State.pairDisable
  try dsimp only
  repeat' with_reducible first
    | assumption | apply onPair_keeps | split

theorem State.pairEnable_keeps {r₀ : State} (s : State) (n : Nat) (hk : Keeps r₀ s) :
    Keeps r₀ (State.pairEnable s n) := by
  unfold State.pairEnable
  try dsimp only
  repeat' first
    | exact fun _ i => i
    | with_reducible first
        | assumption | apply onPair_keeps | apply onAq_keeps | split

theorem State.pairFault_keeps {r₀ : State} (s : State) (n : Nat) (hk : Keeps r₀ s) :
    Keeps r₀ (State.pairFault s n) := by
  unfold State.pairFault
  try dsimp only
  repeat' with_reducible first
    | assumption | apply onPair_keeps

theorem State.passPost_keeps {r₀ : State} (s : State) (fn : Nat) (count : Nat) (hk : Keeps r₀ s) :
    Keeps r₀ (State.passPost s fn count) := by
  unfold State.passPost
  try dsimp only
  repeat' with_reducible first
    | assumption | apply onPlot_keeps | split

theorem State.sqDoorbell_keeps {r₀ : State} (s : State) (n : Nat) (v : W32) (hk : Keeps r₀ s) :
    Keeps r₀ (State.sqDoorbell s n v) := by
  unfold State.sqDoorbell
  try dsimp only
  repeat' with_reducible first
    | assumption | apply onPair_keeps | split

theorem State.writePair_keeps {r₀ : State} (s : State) (n : Nat) (off : Nat) (v : W32) (hk : Keeps r₀ s) :
    Keeps r₀ (State.writePair s n off v) := by
  unfold State.writePair
  try dsimp only
  repeat' with_reducible first
    | assumption | apply onPair_keeps | apply State.sqDoorbell_keeps | apply State.cqHeadTo_keeps
    | apply State.pairEnable_keeps | apply State.pairDisable_keeps | split

theorem State.writeQueue_keeps {r₀ : State} (s : State) (q : Nat) (off : Nat) (v : W32) (abort : State → State)
    (hk : Keeps r₀ s) (hf_abort : ∀ t, Keeps r₀ t → Keeps r₀ (abort t)) :
    Keeps r₀ (State.writeQueue s q off v abort) := by
  unfold State.writeQueue
  try dsimp only
  repeat' with_reducible first
    | assumption | apply State.onQ_keeps | apply State.queueDrain_keeps | apply hf_abort | split

theorem State.writeMsix_keeps {r₀ : State} (s : State) (fn : Nat) (vec : Nat) (dw : Nat) (v : W32) (hk : Keeps r₀ s) :
    Keeps r₀ (State.writeMsix s fn vec dw v) := by
  unfold State.writeMsix
  try dsimp only
  repeat' with_reducible first
    | assumption | apply onHost_keeps | apply emit_keeps | split

theorem State.writeReg_keeps {r₀ : State} (s : State) (fn : Nat) (off : Nat) (v : W32) (sendAbort : State → State)
    (hk : Keeps r₀ s) (hf_sendAbort : ∀ t, Keeps r₀ t → Keeps r₀ (sendAbort t)) :
    Keeps r₀ (State.writeReg s fn off v sendAbort) := by
  unfold State.writeReg
  try dsimp only
  repeat' first
    | exact fun _ i => i
    | with_reducible first
        | assumption | apply State.passPost_keeps | apply onPlot_keeps | apply State.writePair_keeps
        | apply State.writeQueue_keeps | apply State.queueAbort_keeps | apply onTime_keeps | apply onPort_keeps
        | apply onHost_keeps | apply State.writeMsix_keeps | apply hf_sendAbort | intro _ | split

theorem State.writeAccess_keeps {r₀ : State} (s : State) (fn : Nat) (off : Nat) (width : Nat) (value : W64)
    (sendAbort : State → State) (hk : Keeps r₀ s) (hf_sendAbort : ∀ t, Keeps r₀ t → Keeps r₀ (sendAbort t)) :
    Keeps r₀ (State.writeAccess s fn off width value sendAbort) := by
  unfold State.writeAccess
  try dsimp only
  repeat' with_reducible first
    | assumption | apply State.writeReg_keeps | apply hf_sendAbort | intro _ | split

theorem execCompletionWrite_keeps {r₀ : State} (pair : Nat) (ok : Bool) (s : State) (hk : Keeps r₀ s) :
    OutKeeps r₀ (execCompletionWrite pair ok s) := by
  unfold execCompletionWrite
  try dsimp only
  repeat' with_reducible first
    | assumption | apply State.pairFault_keeps | apply emit_keeps | apply onPair_keeps
    | apply State.signal_keeps | refine OutKeeps.next ?_ | exact OutKeeps.fault _ | split

theorem execMgtQueueEnable_keeps {r₀ : State} (pair : Nat) (s : State) (hk : Keeps r₀ s) :
    OutKeeps r₀ (execMgtQueueEnable pair s) := by
  unfold execMgtQueueEnable
  try dsimp only
  repeat' with_reducible first
    | assumption | apply State.pairEnable_keeps | refine OutKeeps.next ?_ | exact OutKeeps.fault _ | split

theorem execMgtQueueDisable_keeps {r₀ : State} (pair : Nat) (s : State) (hk : Keeps r₀ s) :
    OutKeeps r₀ (execMgtQueueDisable pair s) := by
  unfold execMgtQueueDisable
  try dsimp only
  repeat' with_reducible first
    | assumption | apply State.pairDisable_keeps | refine OutKeeps.next ?_ | exact OutKeeps.fault _ | split

theorem execMgtSqtailDoorbell_keeps {r₀ : State} (pair : Nat) (value : W32) (readable : Bool) (s : State)
    (hk : Keeps r₀ s) :
    OutKeeps r₀ (execMgtSqtailDoorbell pair value readable s) := by
  unfold execMgtSqtailDoorbell
  try dsimp only
  repeat' with_reducible first
    | assumption | apply State.pairFault_keeps | apply State.sqDoorbell_keeps | refine OutKeeps.next ?_
    | exact OutKeeps.fault _ | split

theorem execMgtCqheadWrite_keeps {r₀ : State} (pair : Nat) (value : W32) (s : State) (hk : Keeps r₀ s) :
    OutKeeps r₀ (execMgtCqheadWrite pair value s) := by
  unfold execMgtCqheadWrite
  try dsimp only
  repeat' with_reducible first
    | assumption | apply State.cqHeadTo_keeps | refine OutKeeps.next ?_ | exact OutKeeps.fault _ | split

theorem execTimNowLoRead_keeps {r₀ : State} (fn : Nat) (s : State) (hk : Keeps r₀ s) :
    OutKeeps r₀ (execTimNowLoRead fn s) := by
  unfold execTimNowLoRead
  try dsimp only
  repeat' first
    | exact fun _ i => i
    | with_reducible first
        | assumption | apply onTime_keeps | apply emit_keeps | refine OutKeeps.next ?_ | exact OutKeeps.fault _
        | split

theorem execHstEventSeqLoRead_keeps {r₀ : State} (fn : Nat) (s : State) (hk : Keeps r₀ s) :
    OutKeeps r₀ (execHstEventSeqLoRead fn s) := by
  unfold execHstEventSeqLoRead
  try dsimp only
  repeat' with_reducible first
    | assumption | apply emit_keeps | apply onHost_keeps | refine OutKeeps.next ?_ | exact OutKeeps.fault _
    | split

theorem execHstJournalSeqLoRead_keeps {r₀ : State} (fn : Nat) (s : State) (hk : Keeps r₀ s) :
    OutKeeps r₀ (execHstJournalSeqLoRead fn s) := by
  unfold execHstJournalSeqLoRead
  try dsimp only
  repeat' with_reducible first
    | assumption | apply emit_keeps | apply onHost_keeps | refine OutKeeps.next ?_ | exact OutKeeps.fault _
    | split

theorem execHstPassPost_keeps {r₀ : State} (fn : Nat) (count : Nat) (s : State) (hk : Keeps r₀ s) :
    OutKeeps r₀ (execHstPassPost fn count s) := by
  unfold execHstPassPost
  try dsimp only
  repeat' with_reducible first
    | assumption | apply State.passPost_keeps | refine OutKeeps.next ?_ | exact OutKeeps.fault _ | split

theorem execBufWrite_keeps {r₀ : State} (eid : Byte) (off : Nat) (data : List Byte) (s : State) (hk : Keeps r₀ s) :
    OutKeeps r₀ (execBufWrite eid off data s) := by
  unfold execBufWrite
  try dsimp only
  repeat' first
    | exact fun _ i => i
    | with_reducible first
        | assumption | apply onAq_keeps | apply emit_keeps | refine OutKeeps.next ?_ | split

theorem execBufRead_keeps {r₀ : State} (eid : Byte) (off : Nat) (n : Nat) (s : State) (hk : Keeps r₀ s) :
    OutKeeps r₀ (execBufRead eid off n s) := by
  unfold execBufRead
  try dsimp only
  repeat' with_reducible first
    | assumption | apply emit_keeps | refine OutKeeps.next ?_ | split

theorem execSetEndpointId_keeps {r₀ : State} (eid : Byte) (s : State) (hk : Keeps r₀ s) :
    OutKeeps r₀ (execSetEndpointId eid s) := by
  unfold execSetEndpointId
  try dsimp only
  repeat' first
    | exact fun _ i => i
    | with_reducible first
        | assumption | apply onAq_keeps | apply emit_keeps | refine OutKeeps.next ?_

theorem execHostLinkReset_keeps {r₀ : State} (s : State) (hk : Keeps r₀ s) :
    OutKeeps r₀ (execHostLinkReset s) := by
  unfold execHostLinkReset
  try dsimp only
  repeat' with_reducible first
    | assumption | apply State.controllerReset_keeps | refine OutKeeps.next ?_

theorem execVfFlr_keeps {r₀ : State} (vf : Nat) (s : State) (hk : Keeps r₀ s) :
    OutKeeps r₀ (execVfFlr vf s) := by
  unfold execVfFlr
  try dsimp only
  repeat' with_reducible first
    | assumption | apply State.queueAbort_keeps | apply State.pairDisable_keeps | refine OutKeeps.next ?_
    | exact OutKeeps.fault _ | split

/-! ### Time.lean -/

theorem State.armLost_keeps {r₀ : State} (s : State) (hk : Keeps r₀ s) :
    Keeps r₀ (State.armLost s) := by
  unfold State.armLost
  try dsimp only
  repeat' first
    | exact fun _ i => i
    | with_reducible first
        | assumption | apply State.endJob_keeps | apply onTime_keeps | split

theorem TimeBlock.next_ok {t : TimeBlock} (h : t.Ok) : t.next.Ok := by
  unfold TimeBlock.Ok TimeBlock.next at *
  dsimp only
  split
  · split
    · exact Nat.zero_lt_succ _
    · rename_i e
      have : t.cycle + 1 ≠ 1024 := by simpa using e
      dsimp only
      omega
  · exact h

theorem State.cycle_keeps {r₀ : State} (s : State) (h : Keeps r₀ s) : Keeps r₀ (State.cycle s) :=
  State.writeDue_keeps _ ⟨h.pending, h.out, fun i => TimeBlock.next_ok (h.time i), h.aq, h.mem⟩

theorem State.leaveHoldover_keeps {r₀ : State} (s : State) (hk : Keeps r₀ s) :
    Keeps r₀ (State.leaveHoldover s) := by
  unfold State.leaveHoldover
  try dsimp only
  repeat' first
    | exact fun _ i => i
    | with_reducible first
        | assumption | apply onTime_keeps | apply State.releaseReads_keeps | apply State.rest_keeps | split

theorem execSetCoord_keeps {r₀ : State} (c : Slot) (s : State) (hk : Keeps r₀ s) :
    OutKeeps r₀ (execSetCoord c s) := by
  unfold execSetCoord
  try dsimp only
  repeat' with_reducible first
    | assumption | apply aqvel_keeps | apply guarded_keeps | simp only [Keeps.mk_iff, KeepsOf.parts_iff]
    | exact Reply.keeps_fail | refine Reply.keeps_done ?_ | intro _ | split

theorem execSetRouteEpoch_keeps {r₀ : State} (c : Slot) (s : State) (hk : Keeps r₀ s) :
    OutKeeps r₀ (execSetRouteEpoch c s) := by
  unfold execSetRouteEpoch
  try dsimp only
  repeat' with_reducible first
    | assumption | apply aqvel_keeps | apply guarded_keeps | apply State.newEpoch_keeps
    | refine Reply.keeps_done ?_ | intro _

theorem execTimeArm_keeps {r₀ : State} (c : Slot) (s : State) (hk : Keeps r₀ s) :
    OutKeeps r₀ (execTimeArm c s) := by
  unfold execTimeArm
  try dsimp only
  repeat' first
    | exact fun _ i => i
    | with_reducible first
        | assumption | apply aqvel_keeps | apply guarded_keeps | apply onTime_keeps | apply onPorts_keeps
        | exact Reply.keeps_fail | refine Reply.keeps_accepted ?_ | intro _ | split

theorem execFtsyncRisingEdge_keeps {r₀ : State} (s : State)
    (h : Keeps r₀ s) : OutKeeps r₀ (execFtsyncRisingEdge s) := by
  unfold execFtsyncRisingEdge
  split
  · exact .next h
  · split
    · dsimp only
      refine .next ?_
      simp only [Keeps.mk_iff, KeepsOf.parts_iff]
      exact onPorts_keeps (onTime_keeps h fun _ _ => Nat.zero_lt_succ _)
    · split
      · split
        · exact .next h
        · exact .next (State.event_keeps _ _ _ _ _ (onTime_keeps h fun _ i => i))
      · exact .next h

theorem execTimeArmWaitExpiry_keeps {r₀ : State} (s : State) (hk : Keeps r₀ s) :
    OutKeeps r₀ (execTimeArmWaitExpiry s) := by
  unfold execTimeArmWaitExpiry
  try dsimp only
  repeat' first
    | exact fun _ i => i
    | with_reducible first
        | assumption | apply State.endJob_keeps | apply onTime_keeps | refine OutKeeps.next ?_ | split

theorem execEpochCheckSend_keeps {r₀ : State} (s : State) (hk : Keeps r₀ s) :
    OutKeeps r₀ (execEpochCheckSend s) := by
  unfold execEpochCheckSend
  try dsimp only
  repeat' first
    | exact fun _ i => i
    | with_reducible first
        | assumption | apply onPort_keeps | apply onTime_keeps | refine foldl_keeps ?_ fun _ _ _ => ?_
        | refine OutKeeps.next ?_ | split

theorem execEpochCheckWindowClose_keeps {r₀ : State} (s : State) (hk : Keeps r₀ s) :
    OutKeeps r₀ (execEpochCheckWindowClose s) := by
  unfold execEpochCheckWindowClose
  try dsimp only
  repeat' first
    | exact fun _ i => i
    | with_reducible first
        | assumption | apply onTime_keeps | apply State.endJob_keeps | refine OutKeeps.next ?_ | split

theorem execRefLost_keeps {r₀ : State} (s : State) (hk : Keeps r₀ s) :
    OutKeeps r₀ (execRefLost s) := by
  unfold execRefLost
  try dsimp only
  repeat' first
    | exact fun _ i => i
    | with_reducible first
        | assumption | apply State.haltServing_keeps | apply State.haltTraining_keeps | apply State.endHamper_keeps
        | apply onTime_keeps | apply State.armLost_keeps | apply State.linkTrainEnd_keeps | apply onPorts_keeps
        | apply State.queueAbort_keeps | apply State.abortWork_keeps | apply State.refreshBy_keeps
        | apply State.notice_keeps | refine foldl_keeps ?_ fun _ _ _ => ?_ | refine OutKeeps.next ?_ | split

theorem execCorePllLock_keeps {r₀ : State} (s : State) (hk : Keeps r₀ s) :
    OutKeeps r₀ (execCorePllLock s) := by
  unfold execCorePllLock
  try dsimp only
  repeat' first
    | exact fun _ i => i
    | with_reducible first
        | assumption | apply onTime_keeps | apply State.leaveHoldover_keeps | refine OutKeeps.next ?_ | split

theorem execPllReferenceSwitch_keeps {r₀ : State} (s : State) (hk : Keeps r₀ s) :
    OutKeeps r₀ (execPllReferenceSwitch s) := by
  unfold execPllReferenceSwitch
  try dsimp only
  repeat' with_reducible first
    | assumption | apply State.leaveHoldover_keeps | refine OutKeeps.next ?_

/-! ### Links.lean -/

theorem State.cellFault_keeps {r₀ : State} (s : State) (p : Nat) (slot : Nat) (phase : Nat) (r : Run)
    (hk : Keeps r₀ s) :
    Keeps r₀ (State.cellFault s p slot phase r) := by
  unfold State.cellFault
  try dsimp only
  repeat' with_reducible first
    | assumption | apply State.faultOf_keeps | apply onPort_keeps

theorem State.cellFailed_keeps {r₀ : State} (s : State) (p : Nat) (slot : Nat) (k : Nat) (ph : PhaseEntry) (r : Run)
    (e : SlotEntry) (voteDue : Bool) (hk : Keeps r₀ s) :
    Keeps r₀ (State.cellFailed s p slot k ph r e voteDue) := by
  unfold State.cellFailed
  try dsimp only
  repeat' with_reducible first
    | assumption | apply onCheck_keeps | apply onPort_keeps | apply State.cellFault_keeps
    | apply State.voteArrive_keeps | split

theorem State.trainFail_keeps {r₀ : State} (s : State) (p : Nat) (reason : Nat) (hk : Keeps r₀ s) :
    Keeps r₀ (State.trainFail s p reason) := by
  unfold State.trainFail
  try dsimp only
  repeat' with_reducible first
    | assumption | apply State.linkTrainEnd_keeps | apply onPort_keeps

theorem State.lockLost_keeps {r₀ : State} (s : State) (p : Nat) (hk : Keeps r₀ s) :
    Keeps r₀ (State.lockLost s p) := by
  unfold State.lockLost
  try dsimp only
  repeat' with_reducible first
    | assumption | apply State.linkFault_keeps | apply State.trainFail_keeps | split

theorem State.onTraining_keeps {r₀ : State} (s : State) (p : Nat) (f : Training → Training) (hk : Keeps r₀ s) :
    Keeps r₀ (State.onTraining s p f) := by
  unfold State.onTraining
  try dsimp only
  repeat' with_reducible first
    | assumption | apply onPort_keeps

theorem State.reserved_keeps {r₀ : State} (s : State) (p : Nat) (slot : Nat) (e : SlotEntry) (hk : Keeps r₀ s) :
    Keeps r₀ (State.reserved s p slot e) := by
  unfold State.reserved
  try dsimp only
  repeat' with_reducible first
    | assumption | apply State.sendScheduled_keeps | apply onPort_keeps | apply State.passSlot_keeps
    | apply State.voteDepart_keeps | split

theorem State.takeCalReq_keeps {r₀ : State} (s : State) (p : Nat) (b : List Byte) (hk : Keeps r₀ s) :
    Keeps r₀ (State.takeCalReq s p b) := by
  unfold State.takeCalReq
  try dsimp only
  repeat' with_reducible first
    | assumption | apply onPort_keeps

theorem State.takeCalResp_keeps {r₀ : State} (s : State) (p : Nat) (b : List Byte) (hk : Keeps r₀ s) :
    Keeps r₀ (State.takeCalResp s p b) := by
  unfold State.takeCalResp
  try dsimp only
  repeat' with_reducible first
    | assumption | apply State.onTraining_keeps | apply onPort_keeps | apply State.trainFail_keeps | split

theorem State.takeCtl_keeps {r₀ : State} (s : State) (p : Nat) (hk : Keeps r₀ s) :
    Keeps r₀ (State.takeCtl s p).2 := by
  unfold State.takeCtl
  try dsimp only
  repeat' with_reducible first
    | assumption | apply onPort_keeps | split

theorem State.takeEpochCheck_keeps {r₀ : State} (s : State) (p : Nat) (b : List Byte) (hk : Keeps r₀ s) :
    Keeps r₀ (State.takeEpochCheck s p b) := by
  unfold State.takeEpochCheck
  try dsimp only
  repeat' first
    | exact fun _ i => i
    | with_reducible first
        | assumption | apply onTime_keeps | apply onPort_keeps | split

theorem State.takeIdentity_keeps {r₀ : State} (s : State) (p : Nat) (b : List Byte) (hk : Keeps r₀ s) :
    Keeps r₀ (State.takeIdentity s p b) := by
  unfold State.takeIdentity
  try dsimp only
  repeat' with_reducible first
    | assumption | apply onPort_keeps | apply State.trainFail_keeps | apply State.onTraining_keeps | split

theorem State.trainingCell_keeps {r₀ : State} (s : State) (p : Nat) (t : Training) (hk : Keeps r₀ s) :
    Keeps r₀ (State.trainingCell s p t).2 := by
  unfold State.trainingCell
  try dsimp only
  repeat' with_reducible first
    | assumption | apply State.onTraining_keeps | split

theorem State.unreserved_keeps {r₀ : State} (s : State) (p : Nat) (slot : Nat) (hk : Keeps r₀ s) :
    Keeps r₀ (State.unreserved s p slot) := by
  unfold State.unreserved
  try dsimp only
  repeat' with_reducible first
    | assumption | apply State.takeCtl_keeps | apply State.passSlot_keeps | apply onPort_keeps | split

theorem execLinkTrain_keeps {r₀ : State} (c : Slot) (s : State) (hk : Keeps r₀ s) :
    OutKeeps r₀ (execLinkTrain c s) := by
  unfold execLinkTrain
  try dsimp only
  repeat' with_reducible first
    | assumption | apply aqvel_keeps | apply guarded_keeps | apply onCheck_keeps | apply onPort_keeps
    | apply State.linkTrainEnd_keeps | refine foldl_keeps ?_ fun _ _ _ => ?_
    | refine foldl_keeps_fst ?_ fun _ _ _ => ?_ | refine foldl_keeps_snd ?_ fun _ _ _ => ?_
    | refine foldl_keeps_third ?_ fun _ _ _ => ?_ | refine foldl_keeps_mid ?_ fun _ _ _ => ?_
    | exact Reply.keeps_fail | refine Reply.keeps_acceptedThen ?_ fun _ _ => ?_ | intro _ | split

theorem execLinkTrainPortActive_keeps {r₀ : State} (port : Nat) (s : State) (hk : Keeps r₀ s) :
    OutKeeps r₀ (execLinkTrainPortActive port s) := by
  unfold execLinkTrainPortActive
  try dsimp only
  repeat' with_reducible first
    | assumption | apply State.linkTrainEnd_keeps | apply onPort_keeps | refine OutKeeps.next ?_
    | exact OutKeeps.fault _ | split

theorem execLinkTrainWaitExpiry_keeps {r₀ : State} (s : State) (hk : Keeps r₀ s) :
    OutKeeps r₀ (execLinkTrainWaitExpiry s) := by
  unfold execLinkTrainWaitExpiry
  try dsimp only
  repeat' with_reducible first
    | assumption | apply State.linkTrainEnd_keeps | apply onPort_keeps | refine foldl_keeps ?_ fun _ _ _ => ?_
    | refine OutKeeps.next ?_ | split

theorem execLinkState_keeps {r₀ : State} (c : Slot) (s : State) (hk : Keeps r₀ s) :
    OutKeeps r₀ (execLinkState c s) := by
  unfold execLinkState
  try dsimp only
  repeat' with_reducible first
    | assumption | apply aqvel_keeps | apply guarded_keeps | exact Reply.keeps_fail
    | refine Reply.keeps_done ?_ | intro _ | split

theorem execSlotDeparture_keeps {r₀ : State} (port : Nat) (slot : Nat) (s : State) (hk : Keeps r₀ s) :
    OutKeeps r₀ (execSlotDeparture port slot s) := by
  unfold execSlotDeparture
  try dsimp only
  repeat' with_reducible first
    | assumption | apply State.trainingCell_keeps | apply State.passSlot_keeps | apply State.takeCtl_keeps
    | apply State.reserved_keeps | apply State.unreserved_keeps | refine OutKeeps.next ?_
    | exact OutKeeps.fault _ | split

theorem execBeaconDeadline_keeps {r₀ : State} (port : Nat) (s : State) (hk : Keeps r₀ s) :
    OutKeeps r₀ (execBeaconDeadline port s) := by
  unfold execBeaconDeadline
  try dsimp only
  repeat' first
    | exact fun _ i => i
    | with_reducible first
        | assumption | apply onCheck_keeps | apply State.faultOf_keeps | apply onTime_keeps
        | refine OutKeeps.next ?_ | exact OutKeeps.fault _ | split

theorem execIdleCellReceive_keeps {r₀ : State} (port : Nat) (_cell : List Byte) (s : State) (hk : Keeps r₀ s) :
    OutKeeps r₀ (execIdleCellReceive port _cell s) := by
  unfold execIdleCellReceive
  try dsimp only
  repeat' with_reducible first
    | assumption | refine OutKeeps.next ?_ | exact OutKeeps.fault _ | split

theorem execLinbyGroupReceive_keeps {r₀ : State} (g : GroupRx) (s : State) (hk : Keeps r₀ s) :
    OutKeeps r₀ (execLinbyGroupReceive g s) := by
  unfold execLinbyGroupReceive
  try dsimp only
  repeat' with_reducible first
    | assumption | apply onPort_keeps | apply onCheck_keeps | apply State.lockLost_keeps
    | apply State.linkFault_keeps | apply State.onTraining_keeps | refine OutKeeps.next ?_
    | exact OutKeeps.fault _ | split

theorem execLaneSignalLoss_keeps {r₀ : State} (port : Nat) (lane : Nat) (s : State) (hk : Keeps r₀ s) :
    OutKeeps r₀ (execLaneSignalLoss port lane s) := by
  unfold execLaneSignalLoss
  try dsimp only
  repeat' with_reducible first
    | assumption | apply State.linkFault_keeps | apply State.trainFail_keeps | refine OutKeeps.next ?_
    | exact OutKeeps.fault _ | split

theorem execPmdTrainingEnd_keeps {r₀ : State} (port : Nat) (ok : Bool) (s : State) (hk : Keeps r₀ s) :
    OutKeeps r₀ (execPmdTrainingEnd port ok s) := by
  unfold execPmdTrainingEnd
  try dsimp only
  repeat' with_reducible first
    | assumption | apply State.onTraining_keeps | apply State.trainFail_keeps | refine OutKeeps.next ?_
    | exact OutKeeps.fault _ | split

/-! ### Bgp.lean -/

theorem State.openStream_keeps {r₀ : State} (s : State) (x : Stream) (hk : Keeps r₀ s) :
    Keeps r₀ (State.openStream s x) := by
  unfold State.openStream
  try dsimp only
  repeat' with_reducible first
    | assumption | apply onBgp_keeps

theorem State.toInject_keeps {r₀ : State} (s : State) (order : Nat) (b : List Byte) (hk : Keeps r₀ s) :
    Keeps r₀ (State.toInject s order b) := by
  unfold State.toInject
  try dsimp only
  repeat' with_reducible first
    | assumption | apply onBgp_keeps

theorem State.pickIds_keeps {r₀ : State} (s : State) (c : Nat) (k : Nat) (hk : Keeps r₀ s) :
    Keeps r₀ (State.pickIds s c k).2 := by
  unfold State.pickIds
  try dsimp only
  repeat' with_reducible first
    | assumption | apply draw_keeps

theorem State.onTrack_keeps {r₀ : State} (s : State) (chip : Nat) (stream : Nat) (f : Track → Track)
    (hk : Keeps r₀ s) :
    Keeps r₀ (State.onTrack s chip stream f) := by
  unfold State.onTrack
  try dsimp only
  repeat' with_reducible first
    | assumption | apply onBgp_keeps

theorem State.sendAck_keeps {r₀ : State} (s : State) (chip : Nat) (stream : Nat) (hk : Keeps r₀ s) :
    Keeps r₀ (State.sendAck s chip stream) := by
  unfold State.sendAck
  try dsimp only
  repeat' with_reducible first
    | assumption | apply State.onTrack_keeps | apply State.toInject_keeps | split

theorem State.onStream_keeps {r₀ : State} (s : State) (chip : Nat) (id : Nat) (f : Stream → Stream)
    (hk : Keeps r₀ s) :
    Keeps r₀ (State.onStream s chip id f) := by
  unfold State.onStream
  try dsimp only
  repeat' with_reducible first
    | assumption | apply onBgp_keeps

theorem State.dropStream_keeps {r₀ : State} (s : State) (x : Stream) (hk : Keeps r₀ s) :
    Keeps r₀ (State.dropStream s x) := by
  unfold State.dropStream
  try dsimp only
  repeat' with_reducible first
    | assumption | apply onBgp_keeps

theorem State.dropRequest_keeps {r₀ : State} (s : State) (chip : Nat) (stream : Nat) (hk : Keeps r₀ s) :
    Keeps r₀ (State.dropRequest s chip stream) := by
  unfold State.dropRequest
  try dsimp only
  repeat' with_reducible first
    | assumption | apply onBgp_keeps

theorem State.pickId_keeps {r₀ : State} (s : State) (c : Nat) (hk : Keeps r₀ s) :
    Keeps r₀ (State.pickId s c).2 := by
  unfold State.pickId
  try dsimp only
  repeat' with_reducible first
    | assumption | apply State.pickIds_keeps

theorem State.sendRefuse_keeps {r₀ : State} (s : State) (chip : Nat) (cls : Nat) (stream : Nat) (reason : Nat)
    (rest : List Byte) (hk : Keeps r₀ s) :
    Keeps r₀ (State.sendRefuse s chip cls stream reason rest) := by
  unfold State.sendRefuse
  try dsimp only
  repeat' with_reducible first
    | assumption | apply State.countBgp_keeps | apply State.toInject_keeps

theorem State.giveSlot_keeps {r₀ : State} (s : State) (x : Slot1) (b : Packet) (hk : Keeps r₀ s) :
    Keeps r₀ (State.giveSlot s x b) := by
  unfold State.giveSlot
  try dsimp only
  repeat' with_reducible first
    | assumption | apply onPort_keeps

theorem State.endViews_keeps {r₀ : State} (s : State) (hk : Keeps r₀ s) :
    Keeps r₀ (State.endViews s) := by
  unfold State.endViews
  try dsimp only
  repeat' with_reducible first
    | assumption | apply State.sendDone_keeps | apply State.dropStream_keeps | apply State.sendRefuse_keeps
    | apply State.dropRequest_keeps | refine foldl_keeps ?_ fun _ _ _ => ?_ | split

end Sys2Proof.Machine
end

