-- ==== Sys2Proof/Laws/KeepsPlane.lean ====
section
/-! SUPPORT. One lemma per operation: what it keeps (Keeps.lean), for hampers, plots, reception, shifts, streams, the router, the schedule, the send queue and the vectors. -/
namespace Sys2Proof.Machine

/-! ### Hampers.lean -/

theorem State.writePages_keeps {r₀ : State} (s : State) (b : List Byte) (hk : Keeps r₀ s) :
    Keeps r₀ (State.writePages s b) := by
  unfold State.writePages
  try dsimp only
  repeat' with_reducible first
    | assumption | apply State.hbmWrite_keeps | refine foldl_keeps ?_ fun _ _ _ => ?_

theorem State.unpack_keeps {r₀ : State} (s : State) (b : List Byte) (hk : Keeps r₀ s) :
    Keeps r₀ (State.unpack s b) := by
  unfold State.unpack
  try dsimp only
  repeat' with_reducible first
    | assumption | apply onTrain_keeps | apply State.writePages_keeps

theorem State.onHamper_keeps {r₀ : State} (s : State) (f : Hamper → Hamper) (hk : Keeps r₀ s) :
    Keeps r₀ (State.onHamper s f) := by
  unfold State.onHamper
  try dsimp only
  repeat' with_reducible first
    | assumption | apply onSnap_keeps

theorem State.nvmeIssue_keeps {r₀ : State} (s : State) (c : Nvme) (hk : Keeps r₀ s) :
    Keeps r₀ (State.nvmeIssue s c) := by
  unfold State.nvmeIssue
  try dsimp only
  repeat' with_reducible first
    | assumption | apply onHost_keeps | apply emit_keeps

theorem State.onSlotIn_keeps {r₀ : State} (s : State) (ns : Nat) (j : Nat) (f : RingSlot → RingSlot)
    (hk : Keeps r₀ s) :
    Keeps r₀ (State.onSlotIn s ns j f) := by
  unfold State.onSlotIn
  try dsimp only
  repeat' with_reducible first
    | assumption | apply onSnap_keeps

theorem State.slotWrite_keeps {r₀ : State} (s : State) (ns : Nat) (j : Nat) (off : Nat) (data : List Byte)
    (use : Nat) (page : Nat) (hk : Keeps r₀ s) :
    Keeps r₀ (State.slotWrite s ns j off data use page) := by
  unfold State.slotWrite
  try dsimp only
  repeat' with_reducible first
    | assumption | apply State.nvmeIssue_keeps | apply State.onSlotIn_keeps | split

theorem State.hamperEnds_keeps {r₀ : State} (s : State) (hk : Keeps r₀ s) :
    Keeps r₀ (State.hamperEnds s) := by
  unfold State.hamperEnds
  try dsimp only
  repeat' with_reducible first
    | assumption | apply State.dropHamper_keeps | apply State.endOp_keeps | split

theorem State.stageFront_keeps {r₀ : State} (s : State) (hk : Keeps r₀ s) :
    Keeps r₀ (State.stageFront s) := by
  unfold State.stageFront
  try dsimp only
  repeat' with_reducible first
    | assumption | apply State.onHamper_keeps | apply State.hbmWrite_keeps | split

theorem State.partnerPass_keeps {r₀ : State} (s : State) (hk : Keeps r₀ s) :
    Keeps r₀ (State.partnerPass s) := by
  unfold State.partnerPass
  try dsimp only
  repeat' with_reducible first
    | assumption | apply State.pickId_keeps | apply State.openStream_keeps | split

theorem State.startDrain_keeps {r₀ : State} (s : State) (hk : Keeps r₀ s) :
    Keeps r₀ (State.startDrain s) := by
  unfold State.startDrain
  try dsimp only
  repeat' with_reducible first
    | assumption | apply State.onHamper_keeps | apply State.slotWrite_keeps | apply State.onSlotIn_keeps
    | apply State.hamperEnds_keeps | apply State.stageFront_keeps | apply State.partnerPass_keeps | split

theorem State.cursorBlob_keeps {r₀ : State} (s : State) (hk : Keeps r₀ s) :
    Keeps r₀ (State.cursorBlob s).2 := by
  unfold State.cursorBlob
  try dsimp only
  repeat' with_reducible first
    | assumption | apply State.copyRead_keeps | split

theorem State.capture_keeps {r₀ : State} (s : State) (t : Train) (tick : Nat) (flash : Option Nat)
    (staging : Option Nat) (partner : Bool) (job : Option Nat) (hk : Keeps r₀ s) :
    Keeps r₀ (State.capture s t tick flash staging partner job) := by
  unfold State.capture
  try dsimp only
  repeat' with_reducible first
    | assumption | apply State.cursorBlob_keeps | apply onSnap_keeps

theorem State.sealParked_keeps {r₀ : State} (s : State) (c : Slot) (job : Nat) (hk : Keeps r₀ s) :
    Keeps r₀ (State.sealParked s c job) := by
  unfold State.sealParked
  try dsimp only
  repeat' with_reducible first
    | assumption | apply State.failHamper_keeps | apply State.startDrain_keeps | apply State.capture_keeps
    | split

theorem State.recallSeal_keeps {r₀ : State} (s : State) (hk : Keeps r₀ s) :
    Keeps r₀ (State.recallSeal s) := by
  unfold State.recallSeal
  try dsimp only
  repeat' with_reducible first
    | assumption | apply State.sealParked_keeps | split

theorem State.hamperEnd_keeps {r₀ : State} (s : State) (hk : Keeps r₀ s) :
    Keeps r₀ (State.hamperEnd s) := by
  unfold State.hamperEnd
  try dsimp only
  repeat' with_reducible first
    | assumption | apply State.recallSeal_keeps | apply State.hamperEnds_keeps

theorem State.settlePages_keeps {r₀ : State} (s : State) (hk : Keeps r₀ s) :
    Keeps r₀ (State.settlePages s) := by
  unfold State.settlePages
  try dsimp only
  repeat' with_reducible first
    | assumption | apply onSnap_keeps | split

theorem State.hamperSkipped_keeps {r₀ : State} (s : State) (cause : Nat) (hk : Keeps r₀ s) :
    Keeps r₀ (State.hamperSkipped s cause) := by
  unfold State.hamperSkipped
  try dsimp only
  repeat' with_reducible first
    | assumption | apply State.event_keeps

theorem State.armHamper_keeps {r₀ : State} (s : State) (n : Nat) (base : Nat) (t : Train) (hk : Keeps r₀ s) :
    Keeps r₀ (State.armHamper s n base t) := by
  unfold State.armHamper
  try dsimp only
  repeat' with_reducible first
    | assumption | apply onTrain_keeps | apply State.endOp_keeps | apply State.hamperSkipped_keeps
    | apply State.capture_keeps | apply onSnap_keeps | split

theorem State.drainRead_keeps {r₀ : State} (s : State) (page : Nat) (hk : Keeps r₀ s) :
    Keeps r₀ (State.drainRead s page).2.2.2 := by
  unfold State.drainRead
  try dsimp only
  repeat' first
    | exact fun _ i => i
    | exact fun i => by simp [i]
    | with_reducible first
        | assumption | apply State.seenHost_keeps | apply onHbm_keeps

theorem State.nvmeFail_keeps {r₀ : State} (s : State) (c : Nvme) (detail : Nat) (hk : Keeps r₀ s) :
    Keeps r₀ (State.nvmeFail s c detail) := by
  unfold State.nvmeFail
  try dsimp only
  repeat' with_reducible first
    | assumption | apply State.endOp_keeps | apply State.recallSeal_keeps | apply State.failHamper_keeps
    | split

theorem State.failAllNvme_keeps {r₀ : State} (s : State) (detail : Nat) (hk : Keeps r₀ s) :
    Keeps r₀ (State.failAllNvme s detail) := by
  unfold State.failAllNvme
  try dsimp only
  repeat' with_reducible first
    | assumption | apply State.nvmeFail_keeps | apply onHost_keeps | refine foldl_keeps ?_ fun _ _ _ => ?_

theorem State.nvmeFlush_keeps {r₀ : State} (s : State) (ns : Nat) (use : Nat) (hk : Keeps r₀ s) :
    Keeps r₀ (State.nvmeFlush s ns use) := by
  unfold State.nvmeFlush
  try dsimp only
  repeat' with_reducible first
    | assumption | apply State.nvmeIssue_keeps

theorem State.flashNext_keeps {r₀ : State} (s : State) (hk : Keeps r₀ s) :
    Keeps r₀ (State.flashNext s) := by
  unfold State.flashNext
  try dsimp only
  repeat' with_reducible first
    | assumption | apply State.onHamper_keeps | apply State.nvmeFlush_keeps | apply State.slotWrite_keeps
    | apply State.onSlotIn_keeps | split

theorem State.onSlot_keeps {r₀ : State} (s : State) (j : Nat) (f : RingSlot → RingSlot) (hk : Keeps r₀ s) :
    Keeps r₀ (State.onSlot s j f) := by
  unfold State.onSlot
  try dsimp only
  repeat' with_reducible first
    | assumption | apply State.onSlotIn_keeps

theorem State.restoreSource_keeps {r₀ : State} (s : State) (c : Slot) (hk : Keeps r₀ s) :
    Keeps r₀ (State.restoreSource s c).2.2.2 := by
  unfold State.restoreSource
  try dsimp only
  repeat' with_reducible first
    | assumption | apply State.copyRead_keeps | split

theorem State.staged_keeps {r₀ : State} (s : State) (c : Nvme) (hk : Keeps r₀ s) :
    Keeps r₀ (State.staged s c) := by
  unfold State.staged
  try dsimp only
  repeat' with_reducible first
    | assumption | apply State.hbmWrite_keeps | apply State.endJob_keeps | split

theorem State.useRing.fresh_keeps {r₀ : State} (ns : Nat) (count : Nat) (lbas : Nat) (s : State) (hk : Keeps r₀ s) :
    Keeps r₀ (State.useRing.fresh ns count lbas s) := by
  unfold State.useRing.fresh
  try dsimp only
  repeat' with_reducible first
    | assumption | apply onSnap_keeps | apply State.nvmeIssue_keeps | refine foldl_keeps ?_ fun _ _ _ => ?_
    | split

theorem State.useRing_keeps {r₀ : State} (s : State) (ns : Nat) (count : Nat) (lbas : Nat) (hk : Keeps r₀ s) :
    Keeps r₀ (State.useRing s ns count lbas) := by
  unfold State.useRing
  try dsimp only
  repeat' with_reducible first
    | assumption | apply onSnap_keeps | apply State.useRing.fresh_keeps | split

theorem execHamperSeal_keeps {r₀ : State} (c : Slot) (s : State) (hk : Keeps r₀ s) :
    OutKeeps r₀ (execHamperSeal c s) := by
  unfold execHamperSeal
  try dsimp only
  repeat' with_reducible first
    | assumption | apply aqvel_keeps | apply guarded_keeps | apply State.sealParked_keeps | apply onTrain_keeps
    | exact Reply.keeps_fail | refine Reply.keeps_accepted ?_
    | refine Reply.keeps_acceptedThen ?_ fun _ _ => ?_ | intro _ | split

theorem execHamperRestore_keeps {r₀ : State} (c : Slot) (s : State) (hk : Keeps r₀ s) :
    OutKeeps r₀ (execHamperRestore c s) := by
  unfold execHamperRestore
  try dsimp only
  repeat' with_reducible first
    | assumption | apply aqvel_keeps | apply guarded_keeps | apply State.nvmeIssue_keeps
    | exact Reply.keeps_fail | refine Reply.keeps_accepted ?_ | intro _ | split

theorem execHamperList_keeps {r₀ : State} (c : Slot) (s : State) (hk : Keeps r₀ s) :
    OutKeeps r₀ (execHamperList c s) := by
  unfold execHamperList
  try dsimp only
  repeat' with_reducible first
    | assumption | apply aqvel_keeps | apply guarded_keeps | apply writesExt_keeps
    | apply State.nvmeIssue_keeps | apply State.onSlot_keeps | exact Reply.keeps_fail
    | refine Reply.keeps_done ?_ | refine Reply.keeps_accepted ?_ | intro _ | split

theorem execSetMirror_keeps {r₀ : State} (c : Slot) (s : State) (hk : Keeps r₀ s) :
    OutKeeps r₀ (execSetMirror c s) := by
  unfold execSetMirror
  try dsimp only
  repeat' with_reducible first
    | assumption | apply aqvel_keeps | apply guarded_keeps | apply onSnap_keeps | apply State.useRing_keeps
    | simp only [Keeps.mk_iff, KeepsOf.parts_iff] | exact Reply.keeps_fail | refine Reply.keeps_done ?_
    | intro _ | split

theorem execCopyWindow_keeps {r₀ : State} (engine : Nat) (page : Nat) (s : State) (hk : Keeps r₀ s) :
    OutKeeps r₀ (execCopyWindow engine page s) := by
  unfold execCopyWindow
  try dsimp only
  repeat' with_reducible first
    | assumption | apply State.copyRead_keeps | apply onSnap_keeps | apply State.hbmWrite_keeps
    | refine OutKeeps.next ?_ | exact OutKeeps.fault _ | split

theorem execHamperDrain_keeps {r₀ : State} (page : Nat) (s : State) (hk : Keeps r₀ s) :
    OutKeeps r₀ (execHamperDrain page s) := by
  unfold execHamperDrain
  try dsimp only
  repeat' with_reducible first
    | assumption | apply State.drainRead_keeps | apply State.onHamper_keeps | apply State.hbmWrite_keeps
    | apply State.slotWrite_keeps | apply State.hamperEnd_keeps | apply State.settlePages_keeps
    | apply State.flashNext_keeps | apply State.stageFront_keeps | refine OutKeeps.next ?_ | split

theorem execFlashInit_keeps {r₀ : State} (i : FlashInfo) (s : State) (hk : Keeps r₀ s) :
    OutKeeps r₀ (execFlashInit i s) := by
  unfold execFlashInit
  try dsimp only
  repeat' with_reducible first
    | assumption | apply onHost_keeps | refine OutKeeps.next ?_ | split

theorem execNvmeCompletion_keeps {r₀ : State} (status : Nat) (s : State) (hk : Keeps r₀ s) :
    OutKeeps r₀ (execNvmeCompletion status s) := by
  unfold execNvmeCompletion
  try dsimp only
  repeat' with_reducible first
    | assumption | apply onHost_keeps | apply State.staged_keeps | apply State.hamperEnd_keeps
    | apply State.settlePages_keeps | apply State.flashNext_keeps | apply State.nvmeIssue_keeps
    | apply State.nvmeFail_keeps | refine OutKeeps.next ?_ | split

theorem execNvmeTimeout_keeps {r₀ : State} (s : State) (hk : Keeps r₀ s) :
    OutKeeps r₀ (execNvmeTimeout s) := by
  unfold execNvmeTimeout
  try dsimp only
  repeat' with_reducible first
    | assumption | apply draw_keeps | apply emit_keeps | apply onHost_keeps | apply State.failAllNvme_keeps
    | refine OutKeeps.next ?_ | split

theorem execHamperRestoreEnd_keeps {r₀ : State} (s : State) (hk : Keeps r₀ s) :
    OutKeeps r₀ (execHamperRestoreEnd s) := by
  unfold execHamperRestoreEnd
  try dsimp only
  repeat' with_reducible first
    | assumption | apply State.restoreSource_keeps | apply State.endJob_keeps | apply onTrain_keeps
    | apply State.writePages_keeps | apply State.unpack_keeps | apply State.endHamper_keeps
    | apply onSnap_keeps | apply setPlot0_keeps | refine OutKeeps.next ?_ | split

theorem execFlashLinkDown_keeps {r₀ : State} (retrained : Bool) (s : State) (hk : Keeps r₀ s) :
    OutKeeps r₀ (execFlashLinkDown retrained s) := by
  unfold execFlashLinkDown
  try dsimp only
  repeat' with_reducible first
    | assumption | apply State.failAllNvme_keeps | apply onHost_keeps | refine OutKeeps.next ?_ | split

/-! ### Plots.lean -/

theorem State.endStop_keeps {r₀ : State} (s : State) (n : Nat) (dropped : Nat) (hk : Keeps r₀ s) :
    Keeps r₀ (State.endStop s n dropped) := by
  unfold State.endStop
  try dsimp only
  repeat' with_reducible first
    | assumption | apply State.endJob_keeps | split

theorem Mem.zeroBut_wf {m : Mem} (h : m.wf = true) (ks : List Nat)
    (lo hi : Nat) : (m.zeroBut ks lo hi).wf = true := by
  unfold Mem.zeroBut
  generalize List.range ((hi - lo) / 64) = l
  suffices ∀ z : Mem, z.wf = true → (l.foldl (fun z i =>
      let cw := hbmKey ks (lo + 64 * i) / 64
      z.setCw cw (m.datas (64 * cw) 64) (m.errOf cw)) z).wf = true from this _ (foldl_clearStack_wf h ks)
  induction l with
  | nil => exact fun z hz => hz
  | cons i l ih => exact fun z hz => ih _ (Mem.setCw_wf hz _ _ _)

theorem State.reconfigure_keeps {r₀ : State} (s : State) (n : Nat) (p : Plot) (zero : Bool) (b : List Byte)
    (h : Keeps r₀ s) : Keeps r₀ (State.reconfigure s n p zero b) := by
  unfold State.reconfigure
  extract_lets i lo s1 s2 s3
  have h1 : Keeps r₀ s1 := by
    show Keeps r₀ (if zero then _ else _)
    split
    · exact onMem_keeps h fun m k => ⟨Mem.zeroBut_wf k.1 _ _ _, k.2⟩
    · exact h
  exact onPlot_keeps (foldl_keeps (State.hbmWrite_keeps _ _ _ _ h1) fun t x ht => onTile_keeps ht fun _ _ => rfl)

theorem State.restoreContext_keeps {r₀ : State} (s : State) (n : Nat) (p : Plot) (hk : Keeps r₀ s) :
    Keeps r₀ (State.restoreContext s n p) := by
  unfold State.restoreContext
  try dsimp only
  repeat' first
    | exact fun _ i => i
    | with_reducible first
        | assumption | apply State.hostRead_keeps | apply onTile_keeps | refine foldl_keeps ?_ fun _ _ _ => ?_
        | refine foldl_keeps_fst ?_ fun _ _ _ => ?_ | refine foldl_keeps_snd ?_ fun _ _ _ => ?_
        | refine foldl_keeps_third ?_ fun _ _ _ => ?_ | refine foldl_keeps_mid ?_ fun _ _ _ => ?_ | split

theorem State.saveContext_keeps {r₀ : State} (s : State) (n : Nat) (p : Plot) (hk : Keeps r₀ s) :
    Keeps r₀ (State.saveContext s n p) := by
  unfold State.saveContext
  try dsimp only
  repeat' with_reducible first
    | assumption | apply State.hbmWrite_keeps | refine foldl_keeps ?_ fun _ _ _ => ?_

theorem State.stopEnd_keeps {r₀ : State} (s : State) (n : Nat) (hk : Keeps r₀ s) :
    Keeps r₀ (State.stopEnd s n) := by
  unfold State.stopEnd
  try dsimp only
  repeat' with_reducible first
    | assumption | apply onPlot_keeps | apply State.saveContext_keeps | apply State.endStop_keeps
    | apply State.rest_keeps | split

theorem State.stopIfDone_keeps {r₀ : State} (s : State) (n : Nat) (hk : Keeps r₀ s) :
    Keeps r₀ (State.stopIfDone s n) := by
  unfold State.stopIfDone
  try dsimp only
  repeat' with_reducible first
    | assumption | apply State.stopEnd_keeps | split

theorem execPlotStop_keeps {r₀ : State} (c : Slot) (s : State) (hk : Keeps r₀ s) :
    OutKeeps r₀ (execPlotStop c s) := by
  unfold execPlotStop
  try dsimp only
  repeat' with_reducible first
    | assumption | apply aqvel_keeps | apply guarded_keeps | apply onPlot_keeps | apply State.stopIfDone_keeps
    | exact Reply.keeps_fail | refine Reply.keeps_acceptedThen ?_ fun _ _ => ?_ | intro _ | split

theorem execPlotStart_keeps {r₀ : State} (c : Slot) (s : State) (hk : Keeps r₀ s) :
    OutKeeps r₀ (execPlotStart c s) := by
  unfold execPlotStart
  try dsimp only
  repeat' with_reducible first
    | assumption | apply aqvel_keeps | apply guarded_keeps | apply onPlot_keeps
    | apply State.restoreContext_keeps | exact Reply.keeps_fail | refine Reply.keeps_done ?_ | intro _ | split

theorem execPlotReconfig_keeps {r₀ : State} (c : Slot) (program : Option (List Byte)) (s : State) (hk : Keeps r₀ s) :
    OutKeeps r₀ (execPlotReconfig c program s) := by
  unfold execPlotReconfig
  try dsimp only
  repeat' with_reducible first
    | assumption | apply aqvel_keeps | apply guarded_keeps | apply readsExt_keeps | apply onPlot_keeps
    | exact Reply.keeps_fail | refine Reply.keeps_accepted ?_ | intro _ | split

theorem execPassStart_keeps {r₀ : State} (plot : Nat) (s : State) (hk : Keeps r₀ s) :
    OutKeeps r₀ (execPassStart plot s) := by
  unfold execPassStart
  try dsimp only
  repeat' first
    | exact fun _ i => i
    | with_reducible first
        | assumption | apply onPlot_keeps | apply onTile_keeps | apply State.refreshBy_keeps
        | refine foldl_keeps ?_ fun _ _ _ => ?_ | refine foldl_keeps_fst ?_ fun _ _ _ => ?_
        | refine foldl_keeps_snd ?_ fun _ _ _ => ?_ | refine foldl_keeps_third ?_ fun _ _ _ => ?_
        | refine foldl_keeps_mid ?_ fun _ _ _ => ?_ | refine OutKeeps.next ?_ | exact OutKeeps.fault _ | split

theorem execPassEnd_keeps {r₀ : State} (plot : Nat) (s : State) (hk : Keeps r₀ s) :
    OutKeeps r₀ (execPassEnd plot s) := by
  unfold execPassEnd
  try dsimp only
  repeat' with_reducible first
    | assumption | apply State.stopIfDone_keeps | apply State.rest_keeps | apply onPlot_keeps
    | apply State.closePass_keeps | apply State.signal_keeps | refine OutKeeps.next ?_ | exact OutKeeps.fault _
    | split

theorem execPlotReconfigEnd_keeps {r₀ : State} (plot : Nat) (s : State) (hk : Keeps r₀ s) :
    OutKeeps r₀ (execPlotReconfigEnd plot s) := by
  unfold execPlotReconfigEnd
  try dsimp only
  repeat' with_reducible first
    | assumption | apply State.endJob_keeps | apply State.reconfigure_keeps | refine OutKeeps.next ?_
    | exact OutKeeps.fault _ | split

/-! ### Receive.lean -/

theorem State.elastic_keeps {r₀ : State} (s : State) (p : Nat) (a : Arrival) (hk : Keeps r₀ s) :
    Keeps r₀ (State.elastic s p a) := by
  unfold State.elastic
  try dsimp only
  repeat' with_reducible first
    | assumption | apply State.linkFault_keeps | apply onPort_keeps | split

theorem State.toTile_keeps {r₀ : State} (s : State) (p : Nat) (phase : Nat) (e : SlotEntry) (void : Bool)
    (cell : Option (List Byte × Bool)) (hk : Keeps r₀ s) :
    Keeps r₀ (State.toTile s p phase e void cell) := by
  unfold State.toTile
  try dsimp only
  repeat' first
    | exact fun _ i => i
    | with_reducible first
        | assumption | apply onPort_keeps | apply State.roundCell_keeps | apply onTile_keeps
        | apply State.sramWrite_keeps | split

theorem State.forward_keeps {r₀ : State} (s : State) (p : Nat) (phase : Nat) (e : SlotEntry) (cell : List Byte)
    (trailer : Option Nat) (data : Option Nat) (hk : Keeps r₀ s) :
    Keeps r₀ (State.forward s p phase e cell trailer data) := by
  unfold State.forward
  try dsimp only
  repeat' with_reducible first
    | assumption | apply onCheck_keeps | apply State.failCheck_keeps | apply onPort_keeps | split

theorem State.handOn_keeps {r₀ : State} (s : State) (p : Nat) (phase : Nat) (tick : Nat) (ph : PhaseEntry) (r : Run)
    (e : SlotEntry) (cell : List Byte) (a : Arrival) (hk : Keeps r₀ s) :
    Keeps r₀ (State.handOn s p phase tick ph r e cell a) := by
  unfold State.handOn
  try dsimp only
  repeat' with_reducible first
    | assumption | apply onCheck_keeps | apply onPort_keeps | apply State.toTile_keeps
    | apply State.forward_keeps | apply State.voteArrive_keeps | split

theorem State.missed_keeps {r₀ : State} (s : State) (p : Nat) (slot : Nat) (k : Nat) (ph : PhaseEntry) (r : Run)
    (e : SlotEntry) (voteDue : Bool) (hk : Keeps r₀ s) :
    Keeps r₀ (State.missed s p slot k ph r e voteDue) := by
  unfold State.missed
  try dsimp only
  repeat' with_reducible first
    | assumption | apply State.cellFailed_keeps | apply State.toTile_keeps | split

theorem State.arriveReserved_keeps {r₀ : State} (s : State) (p : Nat) (tick : Nat) (slot : Nat) (k : Nat)
    (ph : PhaseEntry) (r : Run) (e : SlotEntry) (a : Arrival) (hk : Keeps r₀ s) :
    Keeps r₀ (State.arriveReserved s p tick slot k ph r e a) := by
  unfold State.arriveReserved
  try dsimp only
  repeat' with_reducible first
    | assumption | apply State.voteUnitFault_keeps | apply State.elastic_keeps | apply State.handOn_keeps
    | apply State.missed_keeps | apply onPort_keeps | split

theorem State.arriveElse_keeps {r₀ : State} (s : State) (p : Nat) (tick : Nat) (slot : Nat) (a : Arrival)
    (hk : Keeps r₀ s) :
    Keeps r₀ (State.arriveElse s p tick slot a) := by
  unfold State.arriveElse
  try dsimp only
  repeat' with_reducible first
    | assumption | apply onPort_keeps | apply State.elastic_keeps | apply State.cellFault_keeps | split

theorem State.arrive_keeps {r₀ : State} (s : State) (p : Nat) (tick : Nat) (slot : Nat) (a : Arrival)
    (hk : Keeps r₀ s) :
    Keeps r₀ (State.arrive s p tick slot a) := by
  unfold State.arrive
  try dsimp only
  repeat' with_reducible first
    | assumption | apply State.arriveReserved_keeps | apply State.arriveElse_keeps | split

theorem execScheduledCellReceive_keeps {r₀ : State} (port : Nat) (slot : Nat) (a : Arrival) (s : State)
    (hk : Keeps r₀ s) :
    OutKeeps r₀ (execScheduledCellReceive port slot a s) := by
  unfold execScheduledCellReceive
  try dsimp only
  repeat' with_reducible first
    | assumption | apply onPort_keeps | apply State.arrive_keeps | refine OutKeeps.next ?_
    | exact OutKeeps.fault _ | split

theorem execLinkControlCellReceive_keeps {r₀ : State} (port : Nat) (cell : List Byte) (slot : ControlAt) (s : State)
    (hk : Keeps r₀ s) :
    OutKeeps r₀ (execLinkControlCellReceive port cell slot s) := by
  unfold execLinkControlCellReceive
  try dsimp only
  repeat' with_reducible first
    | assumption | apply State.arriveReserved_keeps | apply onPort_keeps | apply State.takeIdentity_keeps
    | apply State.takeCalReq_keeps | apply State.takeCalResp_keeps | apply State.takeEpochCheck_keeps
    | refine OutKeeps.next ?_ | exact OutKeeps.fault _ | split

/-! ### Area.lean -/

theorem State.layLists_keeps {r₀ : State} (s : State) (i : Image) (v : Nat) (hk : Keeps r₀ s) :
    Keeps r₀ (State.layLists s i v) := by
  unfold State.layLists
  try dsimp only
  repeat' with_reducible first
    | assumption | apply onTrain_keeps | apply State.hbmWrite_keeps | refine foldl_keeps ?_ fun _ _ _ => ?_
    | refine foldl_keeps_fst ?_ fun _ _ _ => ?_ | refine foldl_keeps_snd ?_ fun _ _ _ => ?_
    | refine foldl_keeps_third ?_ fun _ _ _ => ?_ | refine foldl_keeps_mid ?_ fun _ _ _ => ?_ | split

theorem State.writeArea_keeps {r₀ : State} (s : State) (i : Image) (b : List Byte) (hk : Keeps r₀ s) :
    Keeps r₀ (State.writeArea s i b) := by
  unfold State.writeArea
  try dsimp only
  repeat' with_reducible first
    | assumption | apply State.hbmWrite_keeps | refine foldl_keeps ?_ fun _ _ _ => ?_

/-! ### Shift.lean -/

theorem State.sendDigest_keeps {r₀ : State} (s : State) (v : Serve) (at_ : Nat) (n : Nat) (hk : Keeps r₀ s) :
    Keeps r₀ (State.sendDigest s v at_ n) := by
  unfold State.sendDigest
  try dsimp only
  repeat' with_reducible first
    | assumption | apply State.copyRead_keeps | apply State.toInject_keeps
    | refine foldl_keeps ?_ fun _ _ _ => ?_ | refine foldl_keeps_fst ?_ fun _ _ _ => ?_
    | refine foldl_keeps_snd ?_ fun _ _ _ => ?_

theorem State.onShift_keeps {r₀ : State} (s : State) (f : Shift → Shift) (hk : Keeps r₀ s) :
    Keeps r₀ (State.onShift s f) := by
  unfold State.onShift
  try dsimp only
  repeat' with_reducible first
    | assumption | simp only [Keeps.mk_iff, KeepsOf.parts_iff]

theorem State.serveOne_keeps {r₀ : State} (s : State) (v : Serve) (hk : Keeps r₀ s) :
    Keeps r₀ (State.serveOne s v) := by
  unfold State.serveOne
  try dsimp only
  repeat' with_reducible first
    | assumption | apply State.openStream_keeps | apply State.sendDigest_keeps | apply onBgp_keeps
    | apply State.onShift_keeps | refine foldl_keeps ?_ fun _ _ _ => ?_ | split

theorem State.servePass_keeps {r₀ : State} (s : State) (hk : Keeps r₀ s) :
    Keeps r₀ (State.servePass s) := by
  unfold State.servePass
  try dsimp only
  repeat' with_reducible first
    | assumption | apply State.serveOne_keeps | refine foldl_keeps ?_ fun _ _ _ => ?_

theorem State.shiftAbort_keeps {r₀ : State} (s : State) (cause : Nat) (hk : Keeps r₀ s) :
    Keeps r₀ (State.shiftAbort s cause) := by
  unfold State.shiftAbort
  try dsimp only
  repeat' with_reducible first
    | assumption | apply onBgp_keeps | apply State.endOp_keeps | apply onTrain_keeps
    | simp only [Keeps.mk_iff, KeepsOf.parts_iff] | split

theorem State.sendRequest_keeps {r₀ : State} (s : State) (sh : Shift) (q : Request) (hk : Keeps r₀ s) :
    Keeps r₀ (State.sendRequest s sh q) := by
  unfold State.sendRequest
  try dsimp only
  repeat' with_reducible first
    | assumption | apply State.toInject_keeps

theorem State.nextRequest_keeps {r₀ : State} (s : State) (hk : Keeps r₀ s) :
    Keeps r₀ (State.nextRequest s) := by
  unfold State.nextRequest
  try dsimp only
  repeat' with_reducible first
    | assumption | apply State.pickIds_keeps | apply State.sendRequest_keeps | apply State.onShift_keeps
    | apply onSnap_keeps | apply State.shiftAbort_keeps | split

theorem State.placedBytes_keeps {r₀ : State} (s : State) (n : Nat) (hk : Keeps r₀ s) :
    Keeps r₀ (State.placedBytes s n) := by
  unfold State.placedBytes
  try dsimp only
  repeat' with_reducible first
    | assumption | apply State.onShift_keeps

theorem State.onMove_keeps {r₀ : State} (s : State) (k : Nat) (f : Move → Move) (hk : Keeps r₀ s) :
    Keeps r₀ (State.onMove s k f) := by
  unfold State.onMove
  try dsimp only
  repeat' with_reducible first
    | assumption | apply State.onShift_keeps

theorem State.takeRollback_keeps {r₀ : State} (s : State) (sh : Shift) (a : Nat) (room : Nat) (hk : Keeps r₀ s) :
    Keeps r₀ (State.takeRollback s sh a room) := by
  unfold State.takeRollback
  try dsimp only
  repeat' with_reducible first
    | assumption | apply State.copyRead_keeps | apply State.shiftAbort_keeps | apply onSnap_keeps
    | apply State.unpack_keeps | split

theorem State.settleRequest_keeps {r₀ : State} (s : State) (hk : Keeps r₀ s) :
    Keeps r₀ (State.settleRequest s) := by
  unfold State.settleRequest
  try dsimp only
  repeat' with_reducible first
    | assumption | apply State.shiftAbort_keeps | apply State.copyRead_keeps | apply State.hbmWrite_keeps
    | apply State.placedBytes_keeps | apply State.onMove_keeps | apply State.takeRollback_keeps
    | apply State.onShift_keeps | apply State.pickIds_keeps | apply State.sendRequest_keeps
    | refine foldl_keeps ?_ fun _ _ _ => ?_ | refine foldl_keeps_fst ?_ fun _ _ _ => ?_
    | refine foldl_keeps_snd ?_ fun _ _ _ => ?_ | refine foldl_keeps_third ?_ fun _ _ _ => ?_
    | refine foldl_keeps_mid ?_ fun _ _ _ => ?_ | split

theorem State.localMoves_keeps {r₀ : State} (s : State) (hk : Keeps r₀ s) :
    Keeps r₀ (State.localMoves s) := by
  unfold State.localMoves
  try dsimp only
  repeat' with_reducible first
    | assumption | apply State.takeRollback_keeps | apply State.placedBytes_keeps | apply State.onMove_keeps
    | apply State.copyRead_keeps | apply onTrain_keeps | apply State.hbmWrite_keeps
    | refine foldl_keeps ?_ fun _ _ _ => ?_ | refine foldl_keeps_fst ?_ fun _ _ _ => ?_
    | refine foldl_keeps_snd ?_ fun _ _ _ => ?_ | refine foldl_keeps_third ?_ fun _ _ _ => ?_
    | refine foldl_keeps_mid ?_ fun _ _ _ => ?_ | split

theorem State.shiftPass_keeps {r₀ : State} (s : State) (hk : Keeps r₀ s) :
    Keeps r₀ (State.shiftPass s) := by
  unfold State.shiftPass
  try dsimp only
  repeat' with_reducible first
    | assumption | apply State.servePass_keeps | apply State.shiftAbort_keeps | apply State.nextRequest_keeps
    | apply State.settleRequest_keeps | apply State.localMoves_keeps | split

theorem State.shiftPageIn_keeps {r₀ : State} (s : State) (chip : Nat) (stream : Nat) (hk : Keeps r₀ s) :
    Keeps r₀ (State.shiftPageIn s chip stream) := by
  unfold State.shiftPageIn
  try dsimp only
  repeat' with_reducible first
    | assumption | apply State.copyRead_keeps | apply State.shiftPass_keeps | apply State.onShift_keeps | split

theorem State.shiftStreamDone_keeps {r₀ : State} (s : State) (chip : Nat) (run : Nat) (page : Nat) (hk : Keeps r₀ s) :
    Keeps r₀ (State.shiftStreamDone s chip run page) := by
  unfold State.shiftStreamDone
  try dsimp only
  repeat' with_reducible first
    | assumption | apply State.shiftPass_keeps | apply onBgp_keeps

theorem State.shiftStreamLost_keeps {r₀ : State} (s : State) (chip : Nat) (run : Nat) (hk : Keeps r₀ s) :
    Keeps r₀ (State.shiftStreamLost s chip run) := by
  unfold State.shiftStreamLost
  try dsimp only
  repeat' with_reducible first
    | assumption | apply onBgp_keeps

theorem State.sendNotReady_keeps {r₀ : State} (s : State) (chip : Nat) (id : Nat) (run : Nat) (hk : Keeps r₀ s) :
    Keeps r₀ (State.sendNotReady s chip id run) := by
  unfold State.sendNotReady
  try dsimp only
  repeat' with_reducible first
    | assumption | apply State.toInject_keeps

theorem State.takeRequest_keeps {r₀ : State} (s : State) (chip : Nat) (id : Nat) (payload : List Byte)
    (hk : Keeps r₀ s) :
    Keeps r₀ (State.takeRequest s chip id payload) := by
  unfold State.takeRequest
  try dsimp only
  repeat' with_reducible first
    | assumption | apply State.sendNotReady_keeps | apply onBgp_keeps | split

theorem State.shiftReply_keeps {r₀ : State} (s : State) (chip : Nat) (flags : Nat) (len : Nat) (payload : List Byte)
    (hk : Keeps r₀ s) :
    Keeps r₀ (State.shiftReply s chip flags len payload) := by
  unfold State.shiftReply
  try dsimp only
  repeat' with_reducible first
    | assumption | apply State.onShift_keeps | apply State.shiftPass_keeps | split

theorem State.copiedRecords_keeps {r₀ : State} (s : State) (sh : Shift) (hk : Keeps r₀ s) :
    Keeps r₀ (State.copiedRecords s sh) := by
  unfold State.copiedRecords
  try dsimp only
  repeat' with_reducible first
    | assumption | apply onTrain_keeps | split

theorem State.shiftBegin_keeps {r₀ : State} (s : State) (c : Slot) (b : List Byte) (hk : Keeps r₀ s) :
    Keeps r₀ (State.shiftBegin s c b) := by
  unfold State.shiftBegin
  try dsimp only
  repeat' with_reducible first
    | assumption | apply State.endHamper_keeps | apply State.newEpoch_keeps | apply onTrain_keeps
    | apply State.refreshSlice_keeps | apply State.shiftPass_keeps
    | simp only [Keeps.mk_iff, KeepsOf.parts_iff] | split

theorem execPlaneShift_keeps {r₀ : State} (c : Slot) (s : State) (hk : Keeps r₀ s) :
    OutKeeps r₀ (execPlaneShift c s) := by
  unfold execPlaneShift
  try dsimp only
  repeat' with_reducible first
    | assumption | apply aqvel_keeps | apply guarded_keeps | apply readsExt_keeps
    | apply State.shiftBegin_keeps | exact Reply.keeps_fail | refine Reply.keeps_acceptedThen ?_ fun _ _ => ?_
    | intro _ | split

theorem execPlaneShiftDone_keeps {r₀ : State} (s : State) (hk : Keeps r₀ s) :
    OutKeeps r₀ (execPlaneShiftDone s) := by
  unfold execPlaneShiftDone
  try dsimp only
  repeat' with_reducible first
    | assumption | apply onTrain_keeps | apply State.copiedRecords_keeps | apply State.layLists_keeps
    | apply State.endJob_keeps | apply setPlot0_keeps | simp only [Keeps.mk_iff, KeepsOf.parts_iff]
    | refine OutKeeps.next ?_ | split

theorem execPlaneShiftWaitExpiry_keeps {r₀ : State} (s : State) (hk : Keeps r₀ s) :
    OutKeeps r₀ (execPlaneShiftWaitExpiry s) := by
  unfold execPlaneShiftWaitExpiry
  try dsimp only
  repeat' with_reducible first
    | assumption | apply State.shiftAbort_keeps | refine OutKeeps.next ?_ | split

theorem execShiftRetryTimer_keeps {r₀ : State} (run : Nat) (s : State) (hk : Keeps r₀ s) :
    OutKeeps r₀ (execShiftRetryTimer run s) := by
  unfold execShiftRetryTimer
  try dsimp only
  repeat' with_reducible first
    | assumption | apply State.shiftAbort_keeps | apply State.sendRequest_keeps | apply State.onShift_keeps
    | refine OutKeeps.next ?_ | split

theorem execLeaveSlice_keeps {r₀ : State} (c : Slot) (s : State) (hk : Keeps r₀ s) :
    OutKeeps r₀ (execLeaveSlice c s) := by
  unfold execLeaveSlice
  try dsimp only
  repeat' with_reducible first
    | assumption | apply aqvel_keeps | apply guarded_keeps | apply State.newEpoch_keeps
    | apply State.endHamper_keeps | apply onTrain_keeps | apply setPlot0_keeps | apply onSnap_keeps
    | apply State.refreshSlice_keeps | simp only [Keeps.mk_iff, KeepsOf.parts_iff]
    | refine Reply.keeps_acceptedThen ?_ fun _ _ => ?_ | intro _

theorem execLeaveSliceEnd_keeps {r₀ : State} (s : State) (h : Keeps r₀ s) : OutKeeps r₀ (execLeaveSliceEnd s) := by
  unfold execLeaveSliceEnd
  split
  · exact .next h
  · refine .next (State.endJob_keeps _ _ _ _ _ ?_)
    split
    · exact foldl_keeps h fun t k ht => onMem_keeps ht fun _ i => ⟨clearStack_wf i.1 _, i.2⟩
    · exact h

/-! ### Streams.lean -/

theorem State.dropFetch_keeps {r₀ : State} (s : State) (chip : Nat) (stream : Nat) (hk : Keeps r₀ s) :
    Keeps r₀ (State.dropFetch s chip stream) := by
  unfold State.dropFetch
  try dsimp only
  repeat' with_reducible first
    | assumption | apply onBgp_keeps

theorem State.partnerIn_keeps {r₀ : State} (s : State) (a : Nat) (n : Nat) (hk : Keeps r₀ s) :
    Keeps r₀ (State.partnerIn s a n) := by
  unfold State.partnerIn
  try dsimp only
  repeat' with_reducible first
    | assumption | apply State.copyRead_keeps | apply onSnap_keeps | split

theorem State.streamIn_keeps {r₀ : State} (s : State) (h : PktHead) (poison : Nat) (hk : Keeps r₀ s) :
    Keeps r₀ (State.streamIn s h poison) := by
  unfold State.streamIn
  try dsimp only
  repeat' with_reducible first
    | assumption | apply State.sendDone_keeps | apply State.dropFetch_keeps | apply State.partnerIn_keeps
    | apply State.shiftPageIn_keeps | split

theorem State.onFetch_keeps {r₀ : State} (s : State) (chip : Nat) (stream : Nat) (f : Fetch → Fetch)
    (hk : Keeps r₀ s) :
    Keeps r₀ (State.onFetch s chip stream f) := by
  unfold State.onFetch
  try dsimp only
  repeat' with_reducible first
    | assumption | apply onBgp_keeps

theorem State.newTrack_keeps {r₀ : State} (s : State) (h : PktHead) (hk : Keeps r₀ s) :
    Keeps r₀ (State.newTrack s h) := by
  unfold State.newTrack
  try dsimp only
  repeat' with_reducible first
    | assumption | apply onBgp_keeps | apply onSnap_keeps | split

theorem State.trackReject_keeps {r₀ : State} (s : State) (h : PktHead) (hk : Keeps r₀ s) :
    Keeps r₀ (State.trackReject s h) := by
  unfold State.trackReject
  try dsimp only
  repeat' with_reducible first
    | assumption | apply State.sendAck_keeps | apply State.countBgp_keeps | apply State.onTrack_keeps
    | apply State.sendDone_keeps | apply State.dropFetch_keeps | split

theorem State.trackAccept_keeps {r₀ : State} (s : State) (h : PktHead) (d : Nat) (whole : Bool) (hk : Keeps r₀ s) :
    Keeps r₀ (State.trackAccept s h d whole) := by
  unfold State.trackAccept
  try dsimp only
  repeat' with_reducible first
    | assumption | apply State.onTrack_keeps | apply State.onFetch_keeps | apply State.sendAck_keeps | split

theorem State.streamComplete_keeps {r₀ : State} (s : State) (x : Stream) (hk : Keeps r₀ s) :
    Keeps r₀ (State.streamComplete s x) := by
  unfold State.streamComplete
  try dsimp only
  repeat' with_reducible first
    | assumption | apply State.dropStream_keeps | apply State.sendDone_keeps | apply State.dropRequest_keeps
    | apply State.hamperEnd_keeps | apply State.settlePages_keeps | apply State.partnerPass_keeps
    | apply State.onHamper_keeps | apply State.shiftStreamDone_keeps | split

theorem State.streamFailed_keeps {r₀ : State} (s : State) (x : Stream) (status : Nat) (cause : Nat)
    (hk : Keeps r₀ s) :
    Keeps r₀ (State.streamFailed s x status cause) := by
  unfold State.streamFailed
  try dsimp only
  repeat' with_reducible first
    | assumption | apply State.dropStream_keeps | apply State.sendDone_keeps | apply State.dropRequest_keeps
    | apply State.hamperEnd_keeps | apply State.settlePages_keeps | apply State.onHamper_keeps
    | apply State.shiftStreamLost_keeps | split

theorem State.takeAck_keeps {r₀ : State} (s : State) (chip : Nat) (stream : Nat) (payload : List Byte)
    (hk : Keeps r₀ s) :
    Keeps r₀ (State.takeAck s chip stream payload) := by
  unfold State.takeAck
  try dsimp only
  repeat' with_reducible first
    | assumption | apply State.onStream_keeps | apply State.streamComplete_keeps
    | apply State.streamFailed_keeps | apply State.settlePages_keeps | split

theorem State.takeFetch_keeps {r₀ : State} (s : State) (chip : Nat) (stream : Nat) (payload : List Byte)
    (hk : Keeps r₀ s) :
    Keeps r₀ (State.takeFetch s chip stream payload) := by
  unfold State.takeFetch
  try dsimp only
  repeat' with_reducible first
    | assumption | apply State.countBgp_keeps | apply State.sendRefuse_keeps | apply State.openStream_keeps
    | apply onBgp_keeps | split

theorem State.takeRefuse_keeps {r₀ : State} (s : State) (chip : Nat) (stream : Nat) (payload : List Byte)
    (hk : Keeps r₀ s) :
    Keeps r₀ (State.takeRefuse s chip stream payload) := by
  unfold State.takeRefuse
  try dsimp only
  repeat' with_reducible first
    | assumption | apply State.sendDone_keeps | apply State.dropFetch_keeps | apply State.onFetch_keeps | split

theorem trackPacket_keeps {r₀ : State} (h : PktHead) (t : Track) (payload : List Byte) (x : Ejection)
    (hk : Keeps r₀ x.st) :
    Keeps r₀ (trackPacket h t payload x).st := by
  unfold trackPacket
  extract_lets now s
  have hs : Keeps r₀ s := State.onTrack_keeps _ _ _ _ hk
  clear_value s
  repeat' with_reducible first
    | exact State.sendAck_keeps _ _ _ (State.countBgp_keeps _ _ hs) | exact State.countBgp_keeps _ _ hs
    | exact State.trackReject_keeps _ _ hs | exact State.trackAccept_keeps _ _ _ _ hs | split

theorem toTracker_keeps {r₀ : State} (h : PktHead) (payload : List Byte) (x : Ejection) (hk : Keeps r₀ x.st) :
    Keeps r₀ (toTracker h payload x).st := by
  unfold toTracker
  split
  · exact trackPacket_keeps _ _ _ _ hk
  · split
    · exact State.countBgp_keeps _ _ hk
    · dsimp only
      split
      · exact trackPacket_keeps _ _ _ _ (State.newTrack_keeps _ _ hk)
      · exact State.newTrack_keeps _ _ hk

theorem takePacket_keeps {r₀ : State} (b : List Byte) (x : Ejection) (hk : Keeps r₀ x.st) :
    Keeps r₀ (takePacket b x).st := by
  unfold takePacket
  dsimp only
  repeat' with_reducible first
    | exact hk | exact toTracker_keeps _ _ _ hk | exact State.takeAck_keeps _ _ _ _ hk
    | exact State.takeFetch_keeps _ _ _ _ hk | exact State.takeRefuse_keeps _ _ _ _ hk
    | exact State.shiftPass_keeps _ (State.takeRequest_keeps _ _ _ _ hk) | exact State.shiftReply_keeps _ _ _ _ _ hk
    | split

theorem ejectPackets_keeps {r₀ : State} (n : Nat) (x : Ejection) (hk : Keeps r₀ x.st) :
    Keeps r₀ (ejectPackets n x).st := by
  induction n generalizing x with
  | zero => exact hk
  | succ n ih =>
    unfold ejectPackets
    split
    · exact hk
    · exact ih _ (takePacket_keeps _ _ (onBgp_keeps hk))

theorem Ejection.finish_keeps {r₀ : State} (x : Ejection) (hk : Keeps r₀ x.st) : Keeps r₀ x.finish :=
  foldl_keeps (foldl_keeps hk fun _ _ ht => State.hbmWrite_keeps _ _ _ _ ht) fun _ _ ht => State.streamIn_keeps _ _ _ ht

theorem State.dropTrack_keeps {r₀ : State} (s : State) (chip : Nat) (stream : Nat) (hk : Keeps r₀ s) :
    Keeps r₀ (State.dropTrack s chip stream) := by
  unfold State.dropTrack
  try dsimp only
  repeat' with_reducible first
    | assumption | apply onBgp_keeps

theorem hamperBytesAux_keeps {r₀ : State} (h : Hamper) (fuel off n : Nat) (x : List TByte × State)
    (hk : Keeps r₀ x.2) :
    Keeps r₀ (hamperBytesAux h fuel off n x).2 := by
  induction fuel generalizing off n x with
  | zero => simpa only [hamperBytesAux] using hk
  | succ fuel ih =>
    cases n with
    | zero => simpa only [hamperBytesAux] using hk
    | succ n =>
      simp only [hamperBytesAux]
      split
      · exact ih _ _ (_, _) hk
      · exact ih _ _ (_, _) (State.seenHost_keeps _ _ _ (onHbm_keeps hk fun i => hbmFetch_wf i _ _ _))

theorem State.streamPacket_keeps {r₀ : State} (s : State) (x : Stream) (seq : Nat) (hk : Keeps r₀ s) :
    Keeps r₀ (State.streamPacket s x seq).2.2 := by
  unfold State.streamPacket
  try dsimp only
  repeat' with_reducible first
    | assumption | apply hamperBytesAux_keeps | apply State.copyRead_keeps | split

theorem execEjectionWrite_keeps {r₀ : State} (packets : Nat) (s : State) (hk : Keeps r₀ s) :
    OutKeeps r₀ (execEjectionWrite packets s) :=
  .next (Ejection.finish_keeps _ (ejectPackets_keeps _ _ hk))

theorem execAckTimer_keeps {r₀ : State} (chip : Nat) (stream : Nat) (s : State) (hk : Keeps r₀ s) :
    OutKeeps r₀ (execAckTimer chip stream s) := by
  unfold execAckTimer
  try dsimp only
  repeat' with_reducible first
    | assumption | apply State.sendAck_keeps | refine OutKeeps.next ?_ | split

theorem execTrackerIdleExpiry_keeps {r₀ : State} (chip : Nat) (stream : Nat) (s : State) (hk : Keeps r₀ s) :
    OutKeeps r₀ (execTrackerIdleExpiry chip stream s) := by
  unfold execTrackerIdleExpiry
  try dsimp only
  repeat' with_reducible first
    | assumption | apply State.dropTrack_keeps | refine OutKeeps.next ?_ | split

theorem execRetransmitTimeout_keeps {r₀ : State} (chip : Nat) (stream : Nat) (seq : Nat) (s : State)
    (hk : Keeps r₀ s) :
    OutKeeps r₀ (execRetransmitTimeout chip stream seq s) := by
  unfold execRetransmitTimeout
  try dsimp only
  repeat' with_reducible first
    | assumption | apply State.streamFailed_keeps | apply State.event_keeps | apply State.onStream_keeps
    | refine OutKeeps.next ?_ | split

theorem execFetchTimeout_keeps {r₀ : State} (stream : Nat) (s : State) (hk : Keeps r₀ s) :
    OutKeeps r₀ (execFetchTimeout stream s) := by
  unfold execFetchTimeout
  try dsimp only
  repeat' with_reducible first
    | assumption | apply State.onFetch_keeps | refine OutKeeps.next ?_ | split

theorem execFetchRetryTimer_keeps {r₀ : State} (stream : Nat) (s : State) (hk : Keeps r₀ s) :
    OutKeeps r₀ (execFetchRetryTimer stream s) := by
  unfold execFetchRetryTimer
  try dsimp only
  repeat' with_reducible first
    | assumption | apply State.onFetch_keeps | apply State.pickId_keeps | apply State.dropFetch_keeps
    | apply onBgp_keeps | refine OutKeeps.next ?_ | split

/-! ### Router.lean -/

theorem Slots.give_keeps {r₀ : State} (x : Slots) (k : Slot1) (b : Packet) (hk : Keeps r₀ x.2) :
    Keeps r₀ (Slots.give x k b).2 := by
  unfold Slots.give
  try dsimp only
  repeat' with_reducible first
    | assumption | apply State.giveSlot_keeps

theorem State.regive_keeps {r₀ : State} (s : State) (hk : Keeps r₀ s) :
    Keeps r₀ (State.regive s).2 := by
  unfold State.regive
  try dsimp only
  repeat' with_reducible first
    | assumption | apply onPorts_keeps | apply Slots.give_keeps | apply State.giveSlot_keeps
    | refine foldl_keeps ?_ fun _ _ _ => ?_ | refine foldl_keeps_fst ?_ fun _ _ _ => ?_
    | refine foldl_keeps_snd ?_ fun _ _ _ => ?_ | refine foldl_keeps_third ?_ fun _ _ _ => ?_
    | refine foldl_keeps_mid ?_ fun _ _ _ => ?_ | split

theorem assignOne_keeps {r₀ : State} (every : List Slot1) (x : Slots) (p : Packet) (hk : Keeps r₀ x.2) :
    Keeps r₀ (assignOne every x p).2 := by
  unfold assignOne
  try dsimp only
  repeat' with_reducible first
    | assumption | apply Slots.give_keeps | apply onBgp_keeps | apply State.countBgp_keeps | split

theorem injectReady_keeps {r₀ : State} (order : Nat) (l : List (Nat × List Byte)) (x : Inject)
    (h : Keeps r₀ x.st) : Keeps r₀ (injectReady order l x).st := by
  induction l generalizing x with
  | nil => exact h
  | cons p l ih =>
    unfold injectReady
    split
    · exact ih _ h
    · split
      · exact ih _ h
      · exact ih _ (onBgp_keeps (State.giveSlot_keeps _ _ _ h))

theorem injectStream_keeps {r₀ : State} (chip id fuel : Nat) (x : Inject) (h : Keeps r₀ x.st) :
    Keeps r₀ (injectStream chip id fuel x).st := by
  induction fuel generalizing x with
  | zero => exact h
  | succ fuel ih =>
    unfold injectStream
    split
    · exact h
    · split
      · exact h
      · split
        · exact h
        · split
          · exact h
          · refine ih _ ?_
            dsimp only
            split
            · exact State.countBgp_keeps _ _
                (State.onStream_keeps _ _ _ _ (State.giveSlot_keeps _ _ _ (State.streamPacket_keeps _ _ _ h)))
            · exact State.onStream_keeps _ _ _ _ (State.giveSlot_keeps _ _ _ (State.streamPacket_keeps _ _ _ h))

theorem injectFetches_keeps {r₀ : State} (l : List Fetch) (x : Inject) (h : Keeps r₀ x.st) :
    Keeps r₀ (injectFetches l x).st := by
  induction l generalizing x with
  | nil => exact h
  | cons f l ih =>
    unfold injectFetches
    split
    · exact ih _ h
    · split
      · exact ih _ h
      · exact ih _ (State.onFetch_keeps _ _ _ _ (State.giveSlot_keeps _ _ _ h))

theorem injectClass_keeps {r₀ : State} (order : Nat) (x : Inject) (h : Keeps r₀ x.st) :
    Keeps r₀ (injectClass order x).st := by
  unfold injectClass
  extract_lets x1 x2
  have h1 : Keeps r₀ x1.st := injectReady_keeps _ _ _ h
  have h2 : Keeps r₀ x2.st :=
    foldl_keeps_on (fun y : Inject => y.st) h1 fun y z hy => injectStream_keeps _ _ _ _ hy
  split
  · exact injectFetches_keeps _ _ h2
  · exact h2

theorem State.assignSlots_keeps {r₀ : State} (s : State) (h : Keeps r₀ s) : Keeps r₀ (State.assignSlots s) := by
  unfold State.assignSlots
  extract_lets every x queue y
  have hx : Keeps r₀ x.2 := State.regive_keeps _ h
  have hy : Keeps r₀ y.2 :=
    foldl_keeps_on (fun b : Slots => b.2) (onBgp_keeps hx) fun b p hb => assignOne_keeps _ _ _ hb
  exact foldl_keeps_on (fun b : Inject => b.st) hy fun b o hb => injectClass_keeps _ _ hb

theorem State.ejectOrTransit_keeps {r₀ : State} (s : State) (p : Packet) (hk : Keeps r₀ s) :
    Keeps r₀ (State.ejectOrTransit s p) := by
  unfold State.ejectOrTransit
  try dsimp only
  repeat' with_reducible first
    | assumption | apply onBgp_keeps | apply State.countBgp_keeps | split

theorem State.setSluiceState_keeps {r₀ : State} (s : State) (hk : Keeps r₀ s) :
    Keeps r₀ (State.setSluiceState s) := by
  unfold State.setSluiceState
  try dsimp only
  repeat' with_reducible first
    | assumption | apply onBgp_keeps

theorem State.takeMarks_keeps {r₀ : State} (s : State) (hk : Keeps r₀ s) :
    Keeps r₀ (State.takeMarks s) := by
  unfold State.takeMarks
  try dsimp only
  repeat' with_reducible first
    | assumption | apply onBgp_keeps

theorem execSetSluice_keeps {r₀ : State} (c : Slot) (s : State) (hk : Keeps r₀ s) :
    OutKeeps r₀ (execSetSluice c s) := by
  unfold execSetSluice
  try dsimp only
  repeat' with_reducible first
    | assumption | apply aqvel_keeps | apply guarded_keeps | apply onBgp_keeps | exact Reply.keeps_fail
    | refine Reply.keeps_done ?_ | intro _ | split

theorem execBackgroundCellReceive_keeps {r₀ : State} (port : Nat) (cell : List Byte) (fecBad : Bool) (s : State)
    (hk : Keeps r₀ s) :
    OutKeeps r₀ (execBackgroundCellReceive port cell fecBad s) := by
  unfold execBackgroundCellReceive
  try dsimp only
  repeat' with_reducible first
    | assumption | apply State.countBgp_keeps | apply State.ejectOrTransit_keeps | apply State.event_keeps
    | apply onBgp_keeps | refine OutKeeps.next ?_ | exact OutKeeps.fault _ | split

theorem execRouterTick_keeps {r₀ : State} (s : State) (hk : Keeps r₀ s) :
    OutKeeps r₀ (execRouterTick s) := by
  unfold execRouterTick
  try dsimp only
  repeat' with_reducible first
    | assumption | apply State.takeMarks_keeps | apply State.assignSlots_keeps
    | apply State.setSluiceState_keeps | apply State.partnerPass_keeps | apply State.shiftPass_keeps
    | refine OutKeeps.next ?_ | split

/-! ### Schedule.lean -/

theorem State.toVariant_keeps {r₀ : State} (s : State) (v : Nat) (hk : Keeps r₀ s) :
    Keeps r₀ (State.toVariant s v) := by
  unfold State.toVariant
  try dsimp only
  repeat' with_reducible first
    | assumption | apply State.endHamper_keeps | apply onTrain_keeps | split

theorem State.applyChanges_keeps {r₀ : State} (s : State) (n : Nat) (hk : Keeps r₀ s) :
    Keeps r₀ (State.applyChanges s n) := by
  unfold State.applyChanges
  try dsimp only
  repeat' with_reducible first
    | assumption | apply State.toVariant_keeps | apply onTrain_keeps | refine foldl_keeps ?_ fun _ _ _ => ?_
    | split

theorem State.beginRun_keeps {r₀ : State} (s : State) (n idx base : Nat) (prev : List FaultRec) (h : Keeps r₀ s) :
    Keeps r₀ (State.beginRun s n idx base prev) :=
  onPorts_keeps (onTiles_keeps (onTrain_keeps h) fun _ i => i)

theorem State.startAudit_keeps {r₀ : State} (s : State) (n : Nat) (hk : Keeps r₀ s) :
    Keeps r₀ (State.startAudit s n) := by
  unfold State.startAudit
  try dsimp only
  repeat' with_reducible first
    | assumption | apply onTrain_keeps | apply State.copyRead_keeps | split

theorem State.beginStep_keeps {r₀ : State} (s : State) (base : Nat) (hk : Keeps r₀ s) :
    Keeps r₀ (State.beginStep s base) := by
  unfold State.beginStep
  try dsimp only
  repeat' with_reducible first
    | assumption | apply State.beginRun_keeps | apply State.startAudit_keeps | apply State.armHamper_keeps
    | apply State.applyChanges_keeps

theorem State.compareAudit_keeps {r₀ : State} (s : State) (r : Run) (a : Audit) (hk : Keeps r₀ s) :
    Keeps r₀ (State.compareAudit s r a) := by
  unfold State.compareAudit
  try dsimp only
  repeat' with_reducible first
    | assumption | apply State.copyRead_keeps | apply State.hbmWrite_keeps | apply State.writeRecord_keeps
    | apply State.eventOf_keeps | apply State.endJob_keeps | split

theorem State.endAudit_keeps {r₀ : State} (s : State) (r : Run) (hk : Keeps r₀ s) :
    Keeps r₀ (State.endAudit s r) := by
  unfold State.endAudit
  try dsimp only
  repeat' with_reducible first
    | assumption | apply State.hbmWrite_keeps | apply State.endJob_keeps | apply onTrain_keeps
    | apply State.compareAudit_keeps | split

theorem State.commit_keeps {r₀ : State} (s : State) (r : Run) (hk : Keeps r₀ s) :
    Keeps r₀ (State.commit s r) := by
  unfold State.commit
  try dsimp only
  repeat' with_reducible first
    | assumption | apply State.event_keeps | apply State.closeRun_keeps | apply onTrain_keeps
    | apply State.endAudit_keeps | apply onSnap_keeps | apply State.startDrain_keeps
    | apply State.releaseReads_keeps | apply State.endViews_keeps | split

theorem State.dropLaterStops_keeps {r₀ : State} (s : State) (halt : Nat) (hk : Keeps r₀ s) :
    Keeps r₀ (State.dropLaterStops s halt) := by
  unfold State.dropLaterStops
  try dsimp only
  repeat' with_reducible first
    | assumption | apply onTrain_keeps | apply State.abortJobs_keeps

theorem State.expectBeacons_keeps {r₀ : State} (s : State) (r : Run) (phase : Nat) (ph : PhaseEntry)
    (hk : Keeps r₀ s) :
    Keeps r₀ (State.expectBeacons s r phase ph) := by
  unfold State.expectBeacons
  try dsimp only
  repeat' with_reducible first
    | assumption | apply onCheck_keeps | refine foldl_keeps ?_ fun _ _ _ => ?_ | split

theorem State.fetchGroup_keeps {r₀ : State} (s : State) (plot : Nat) (tile : Nat) (key : Nat) (group : Nat)
    (l : List (List Byte)) (hk : Keeps r₀ s) :
    Keeps r₀ (State.fetchGroup s plot tile key group l).2 := by
  unfold State.fetchGroup
  try dsimp only
  repeat' first
    | exact fun _ i => i
    | exact fun i => by simp [i]
    | with_reducible first
        | assumption | apply State.seenHbm_keeps | apply onHbm_keeps | apply onMem_keeps | split

theorem State.recallNow_keeps {r₀ : State} (s : State) (t : Nat) (hk : Keeps r₀ s) :
    Keeps r₀ (State.recallNow s t) := by
  unfold State.recallNow
  try dsimp only
  repeat' with_reducible first
    | assumption | apply State.park_keeps | apply State.endJob_keeps | apply State.recallSeal_keeps
    | refine foldl_keeps ?_ fun _ _ _ => ?_ | split

theorem State.stopNow_keeps {r₀ : State} (s : State) (n : Nat) (hk : Keeps r₀ s) :
    Keeps r₀ (State.stopNow s n) := by
  unfold State.stopNow
  try dsimp only
  repeat' with_reducible first
    | assumption | apply onTrain_keeps | apply setPlot0_keeps | apply State.leaveRun_keeps
    | apply State.closeRun_keeps | apply State.rest_keeps | apply onPorts_keeps | apply State.endJob_keeps
    | refine foldl_keeps ?_ fun _ _ _ => ?_

theorem State.unload_keeps {r₀ : State} (s : State) (hk : Keeps r₀ s) :
    Keeps r₀ (State.unload s) := by
  unfold State.unload
  try dsimp only
  repeat' with_reducible first
    | assumption | apply State.refreshSlice_keeps | apply onTrain_keeps | apply setPlot0_keeps

theorem execLoadImage_keeps {r₀ : State} (c : Slot) (image : Option (List Byte)) (s : State) (hk : Keeps r₀ s) :
    OutKeeps r₀ (execLoadImage c image s) := by
  unfold execLoadImage
  try dsimp only
  repeat' with_reducible first
    | assumption | apply aqvel_keeps | apply guarded_keeps | apply readsExt_keeps | apply onTrain_keeps
    | exact Reply.keeps_fail | refine Reply.keeps_accepted ?_ | intro _ | split

theorem execLoadImageValidationEnd_keeps {r₀ : State} (s : State) (hk : Keeps r₀ s) :
    OutKeeps r₀ (execLoadImageValidationEnd s) := by
  unfold execLoadImageValidationEnd
  try dsimp only
  repeat' with_reducible first
    | assumption | apply State.endJob_keeps | apply State.unload_keeps | apply onTrain_keeps
    | apply setPlot0_keeps | apply State.writeArea_keeps | apply onSnap_keeps | apply State.refreshSlice_keeps
    | simp only [Keeps.mk_iff, KeepsOf.parts_iff] | refine OutKeeps.next ?_ | split

theorem execArm_keeps {r₀ : State} (c : Slot) (s : State) (hk : Keeps r₀ s) :
    OutKeeps r₀ (execArm c s) := by
  unfold execArm
  try dsimp only
  repeat' with_reducible first
    | assumption | apply aqvel_keeps | apply guarded_keeps | refine Reply.keeps_accepted ?_ | intro _

theorem execStart_keeps {r₀ : State} (c : Slot) (s : State) (hk : Keeps r₀ s) :
    OutKeeps r₀ (execStart c s) := by
  unfold execStart
  try dsimp only
  repeat' with_reducible first
    | assumption | apply aqvel_keeps | apply guarded_keeps | apply State.abortJobs_keeps | apply onTrain_keeps
    | exact Reply.keeps_fail | refine Reply.keeps_accepted ?_ | intro _ | split

theorem execStop_keeps {r₀ : State} (c : Slot) (s : State) (hk : Keeps r₀ s) :
    OutKeeps r₀ (execStop c s) := by
  unfold execStop
  try dsimp only
  repeat' with_reducible first
    | assumption | apply aqvel_keeps | apply guarded_keeps | apply onTrain_keeps | exact Reply.keeps_fail
    | refine Reply.keeps_accepted ?_ | intro _ | split

theorem execSelectVariant_keeps {r₀ : State} (c : Slot) (s : State) (hk : Keeps r₀ s) :
    OutKeeps r₀ (execSelectVariant c s) := by
  unfold execSelectVariant
  try dsimp only
  repeat' with_reducible first
    | assumption | apply aqvel_keeps | apply guarded_keeps | apply onTrain_keeps | apply State.toVariant_keeps
    | exact Reply.keeps_fail | refine Reply.keeps_done ?_ | intro _ | split

theorem execSetPolicy_keeps {r₀ : State} (c : Slot) (s : State) (hk : Keeps r₀ s) :
    OutKeeps r₀ (execSetPolicy c s) := by
  unfold execSetPolicy
  try dsimp only
  repeat' with_reducible first
    | assumption | apply aqvel_keeps | apply guarded_keeps | apply onTrain_keeps | exact Reply.keeps_fail
    | refine Reply.keeps_done ?_ | intro _ | split

theorem execRecallNotice_keeps {r₀ : State} (c : Slot) (s : State) (hk : Keeps r₀ s) :
    OutKeeps r₀ (execRecallNotice c s) := by
  unfold execRecallNotice
  try dsimp only
  repeat' with_reducible first
    | assumption | apply aqvel_keeps | apply guarded_keeps | apply onTrain_keeps
    | apply State.dropLaterStops_keeps | exact Reply.keeps_fail
    | refine Reply.keeps_acceptedThen ?_ fun _ _ => ?_ | intro _ | split

theorem execRecallHalt_keeps {r₀ : State} (s : State) (hk : Keeps r₀ s) :
    OutKeeps r₀ (execRecallHalt s) := by
  unfold execRecallHalt
  try dsimp only
  repeat' with_reducible first
    | assumption | apply State.recallNow_keeps | refine OutKeeps.next ?_ | split

theorem execAudit_keeps {r₀ : State} (c : Slot) (s : State) (hk : Keeps r₀ s) :
    OutKeeps r₀ (execAudit c s) := by
  unfold execAudit
  try dsimp only
  repeat' with_reducible first
    | assumption | apply aqvel_keeps | apply guarded_keeps | apply onTrain_keeps | exact Reply.keeps_fail
    | refine Reply.keeps_accepted ?_ | intro _ | split

theorem execStepBoundary.starts_keeps {r₀ : State} (s : State) (t0 : Nat) (hk : Keeps r₀ s) :
    Keeps r₀ (execStepBoundary.starts s t0) := by
  unfold execStepBoundary.starts
  try dsimp only
  repeat' with_reducible first
    | assumption | apply setPlot0_keeps | apply State.dropSeal_keeps | apply State.refreshBy_keeps
    | apply State.beginStep_keeps | apply State.endJob_keeps | refine foldl_keeps ?_ fun _ _ _ => ?_
    | simp only [Keeps.mk_iff, KeepsOf.parts_iff] | split

theorem execStepBoundary_keeps {r₀ : State} (s : State) (hk : Keeps r₀ s) :
    OutKeeps r₀ (execStepBoundary s) := by
  unfold execStepBoundary
  try dsimp only
  repeat' with_reducible first
    | assumption | apply State.recallNow_keeps | apply execStepBoundary.starts_keeps | apply State.park_keeps
    | apply State.stopNow_keeps | apply State.beginRun_keeps | apply State.applyChanges_keeps
    | apply State.leaveRun_keeps | apply State.beginStep_keeps | apply State.closeRun_keeps
    | refine OutKeeps.next ?_ | split

theorem execPhaseStart_keeps {r₀ : State} (s : State) (h : Keeps r₀ s) : OutKeeps r₀ (execPhaseStart s) := by
  unfold execPhaseStart
  split
  · exact .next h
  · split
    · exact .next h
    · split
      · exact .next h
      · rename_i ph _ _
        extract_lets s1 s2 idle s3 s4 s5
        have h2 : Keeps r₀ s2 := onTiles_keeps (onRun_keeps h) fun _ i => i
        have h3 : Keeps r₀ s3 := by
          show Keeps r₀ (if idle then _ else _)
          split
          · exact h2
          · exact State.expectBeacons_keeps _ _ _ _ h2
        have h5 : Keeps r₀ s5 := by
          show Keeps r₀ (if ph.kind == 3 && !idle then _ else _)
          split
          · exact onTrain_keeps (onPorts_keeps h3)
          · exact onPorts_keeps h3
        clear_value s5
        refine .next ?_
        split
        · exact State.beginVote_keeps _ h5
        · exact h5

theorem execDescriptorFetch_keeps {r₀ : State} (plot : Nat) (tile : Nat) (group : Nat) (s : State) (hk : Keeps r₀ s) :
    OutKeeps r₀ (execDescriptorFetch plot tile group s) := by
  unfold execDescriptorFetch
  try dsimp only
  repeat' first
    | exact fun _ i => i
    | with_reducible first
        | assumption | apply onTile_keeps | apply State.fetchGroup_keeps | refine foldl_keeps ?_ fun _ _ _ => ?_
        | refine foldl_keeps_fst ?_ fun _ _ _ => ?_ | refine foldl_keeps_snd ?_ fun _ _ _ => ?_
        | refine foldl_keeps_third ?_ fun _ _ _ => ?_ | refine foldl_keeps_mid ?_ fun _ _ _ => ?_
        | refine OutKeeps.next ?_ | exact OutKeeps.fault _ | split

theorem execHbmRefreshWindow_keeps {r₀ : State} (stack : Nat) (s : State) (hk : Keeps r₀ s) :
    OutKeeps r₀ (execHbmRefreshWindow stack s) := by
  unfold execHbmRefreshWindow
  try dsimp only
  repeat' with_reducible first
    | assumption | apply onStack_keeps | refine OutKeeps.next ?_ | exact OutKeeps.fault _ | split

theorem execStepCommit_keeps {r₀ : State} (s : State) (hk : Keeps r₀ s) :
    OutKeeps r₀ (execStepCommit s) := by
  unfold execStepCommit
  try dsimp only
  repeat' with_reducible first
    | assumption | apply State.commit_keeps | refine OutKeeps.next ?_ | split

theorem execArmEnd_keeps {r₀ : State} (s : State) (hk : Keeps r₀ s) :
    OutKeeps r₀ (execArmEnd s) := by
  unfold execArmEnd
  try dsimp only
  repeat' with_reducible first
    | assumption | apply State.endJob_keeps | apply onTrain_keeps | apply State.layLists_keeps
    | apply setPlot0_keeps | refine OutKeeps.next ?_ | split

theorem execHbmControllerRefresh_keeps {r₀ : State} (stack : Nat) (s : State) (hk : Keeps r₀ s) :
    OutKeeps r₀ (execHbmControllerRefresh stack s) := by
  unfold execHbmControllerRefresh
  try dsimp only
  repeat' with_reducible first
    | assumption | apply onStack_keeps | refine OutKeeps.next ?_ | exact OutKeeps.fault _ | split

/-! ### SendQueue.lean -/

theorem State.abortSends_keeps {r₀ : State} (s : State) (hk : Keeps r₀ s) :
    Keeps r₀ (State.abortSends s) := by
  unfold State.abortSends
  try dsimp only
  repeat' with_reducible first
    | assumption | apply State.streamFailed_keeps | apply State.sendDone_keeps | apply State.dropFetch_keeps
    | refine foldl_keeps ?_ fun _ _ _ => ?_ | refine foldl_keeps_fst ?_ fun _ _ _ => ?_
    | refine foldl_keeps_snd ?_ fun _ _ _ => ?_ | refine foldl_keeps_third ?_ fun _ _ _ => ?_
    | refine foldl_keeps_mid ?_ fun _ _ _ => ?_ | split

theorem State.freshSends_keeps {r₀ : State} (s : State) (t : State) (hk18 : Keeps r₀ t) :
    Keeps r₀ (State.freshSends s t) := by
  unfold State.freshSends
  try dsimp only
  repeat' with_reducible first
    | assumption | simp only [Keeps.mk_iff, KeepsOf.parts_iff] | split

theorem State.sendAbort_keeps {r₀ : State} (s : State) (hk : Keeps r₀ s) :
    Keeps r₀ (State.sendAbort s) := by
  unfold State.sendAbort
  try dsimp only
  repeat' with_reducible first
    | assumption | apply State.drained_keeps | apply State.abortSends_keeps | apply State.onQ_keeps | split

theorem execSendQueueEnable_keeps {r₀ : State} (s : State) (hk : Keeps r₀ s) :
    OutKeeps r₀ (execSendQueueEnable s) := by
  unfold execSendQueueEnable
  try dsimp only
  repeat' with_reducible first
    | assumption | apply State.onQ_keeps | simp only [Keeps.mk_iff, KeepsOf.parts_iff]
    | refine OutKeeps.next ?_ | split

theorem execSendQueueDrain_keeps {r₀ : State} (s : State) (hk : Keeps r₀ s) :
    OutKeeps r₀ (execSendQueueDrain s) := by
  unfold execSendQueueDrain
  try dsimp only
  repeat' with_reducible first
    | assumption | apply State.queueDrain_keeps | refine OutKeeps.next ?_

theorem execSendQueueAbort_keeps {r₀ : State} (s : State) (hk : Keeps r₀ s) :
    OutKeeps r₀ (execSendQueueAbort s) := by
  unfold execSendQueueAbort
  try dsimp only
  repeat' with_reducible first
    | assumption | apply State.sendAbort_keeps | refine OutKeeps.next ?_

theorem execSendQtailDoorbell_keeps {r₀ : State} (value : W32) (s : State) (hk : Keeps r₀ s) :
    OutKeeps r₀ (execSendQtailDoorbell value s) := by
  unfold execSendQtailDoorbell
  try dsimp only
  repeat' with_reducible first
    | assumption | apply State.onQ_keeps | refine OutKeeps.next ?_

theorem execSendEntryStart_keeps {r₀ : State} (e : SendStart) (s : State) (hk : Keeps r₀ s) :
    OutKeeps r₀ (execSendEntryStart e s) := by
  unfold execSendEntryStart
  try dsimp only
  repeat' with_reducible first
    | assumption | apply State.onQ_keeps | apply State.copyPost_keeps | apply State.pickId_keeps
    | apply State.openStream_keeps | apply onBgp_keeps | simp only [Keeps.mk_iff, KeepsOf.parts_iff]
    | refine OutKeeps.next ?_ | split

theorem execRegisterWrite_keeps {r₀ : State} (fn : Nat) (off : Nat) (width : Nat) (value : W64) (s : State)
    (hk : Keeps r₀ s) :
    OutKeeps r₀ (execRegisterWrite fn off width value s) := by
  unfold execRegisterWrite
  try dsimp only
  repeat' with_reducible first
    | assumption | apply State.freshSends_keeps | apply State.writeAccess_keeps | apply State.sendAbort_keeps
    | refine OutKeeps.next ?_ | exact OutKeeps.fault _ | intro _ | split

/-! ### Vectors.lean -/

theorem Op.effect_keeps {r₀ : State} (a1 : Op) (a2 : Dc) (a3 : State) (hk : Keeps r₀ a3) :
    Keeps r₀ (Op.effect a1 a2 a3) := by
  unfold Op.effect
  try dsimp only
  repeat' with_reducible first
    | assumption | apply State.matMul_keeps | apply State.vector_keeps | apply State.update_keeps
    | apply State.pairCheck_keeps | apply State.convert_keeps | apply State.contextSave_keeps
    | apply State.contextRestore_keeps | apply State.digest_keeps | split

theorem State.endVectors_keeps {r₀ : State} (s : State) (j : Job) (v : VecRun) (hk : Keeps r₀ s) :
    Keeps r₀ (State.endVectors s j v) := by
  unfold State.endVectors
  try dsimp only
  repeat' with_reducible first
    | assumption | apply State.endJob_keeps | apply State.zeroTiles_keeps
    | simp only [Keeps.mk_iff, KeepsOf.parts_iff]

theorem State.vectorBox_keeps {r₀ : State} (s : State) (r : VRec) (phys : Nat) (h : Keeps r₀ s) :
    Keeps r₀ (State.vectorBox s r phys) := by
  unfold State.vectorBox
  exact foldl_keeps (onTile_keeps h fun _ i => Tile.wf_iff.2 ⟨(Tile.wf_iff.1 i).1, rfl⟩) fun _ _ ht =>
    onTile_keeps ht fun _ i => Tile.wf_iff.2 ⟨Mem.store_wf (Tile.wf_iff.1 i).1 _ _, (Tile.wf_iff.1 i).2⟩

theorem State.vectorOn_keeps {r₀ : State} (s : State) (r : VRec) (tile phys : Nat) (fired : List Nat)
    (h : Keeps r₀ s) :
    Keeps r₀ (State.vectorOn s r tile phys fired).2 := by
  unfold State.vectorOn
  extract_lets box got cycles checks
  have hb : Keeps r₀ box := foldl_keeps (State.vectorBox_keeps _ _ _ h) fun t x ht => by
    split
    · exact Op.effect_keeps _ _ _ (onTile_keeps ht fun _ i => Tile.wf_iff.2 ⟨(Tile.wf_iff.1 i).1, rfl⟩)
    · exact ht
  clear_value box
  exact ⟨h.pending, h.out, h.time, h.aq, hb.mem⟩

theorem State.vectorTiles_keeps {r₀ : State} (s : State) (r : VRec) (fired : List Nat) (l : List (Nat × Nat))
    (h : Keeps r₀ s) : Keeps r₀ (State.vectorTiles s r fired l).2 := by
  induction l generalizing s with
  | nil => exact h
  | cons x l ih =>
    unfold State.vectorTiles
    exact ih _ (State.vectorOn_keeps _ _ _ _ _ h)

theorem State.runVector_keeps {r₀ : State} (s : State) (v : VecRun) (r : VRec) (fired : List Nat) (hk : Keeps r₀ s) :
    Keeps r₀ (State.runVector s v r fired).2 := by
  unfold State.runVector
  try dsimp only
  repeat' with_reducible first
    | assumption | apply State.vectorTiles_keeps | split

theorem State.nextVector_keeps {r₀ : State} (s : State) (j : Job) (v : VecRun) (r : VRec) (fired : List Nat)
    (hk : Keeps r₀ s) :
    Keeps r₀ (State.nextVector s j v r fired).1 := by
  unfold State.nextVector
  try dsimp only
  repeat' with_reducible first
    | assumption | apply State.runVector_keeps | apply State.extWrite_keeps | split

theorem execRunVectors_keeps {r₀ : State} (c : Slot) (s : State) (hk : Keeps r₀ s) :
    OutKeeps r₀ (execRunVectors c s) := by
  unfold execRunVectors
  try dsimp only
  repeat' with_reducible first
    | assumption | apply aqvel_keeps | apply guarded_keeps | apply readsExt_keeps
    | simp only [Keeps.mk_iff, KeepsOf.parts_iff] | exact Reply.keeps_fail | refine Reply.keeps_accepted ?_
    | intro _ | split

theorem execVectorRunEnd_keeps {r₀ : State} (fired : Option Nat) (s : State) (hk : Keeps r₀ s) :
    OutKeeps r₀ (execVectorRunEnd fired s) := by
  unfold execVectorRunEnd
  try dsimp only
  repeat' with_reducible first
    | assumption | apply State.endVectors_keeps | apply State.nextVector_keeps
    | simp only [Keeps.mk_iff, KeepsOf.parts_iff] | refine OutKeeps.next ?_ | split

end Sys2Proof.Machine
end

