-- ==== Sys2Proof/WellFormed.lean ====
section
/-! DEFINITION. Which operand values a command may have: units the chip has, fields within the widths the manual gives them,
and byte strings of the lengths it fixes. The machine is total and needs none of it; an ill-formed command is one that no
agent can send. -/
namespace Sys2Proof

/-- A queue pair that exists (R359). -/
def Source.wf : Source → Bool
  | .pair n => decide (n < 8)
  | .endpoint _ => true

/-- A slot carries 32 inline bytes (Table 15.5), and its buffer, where it can be read, the length it states. -/
def Slot.wf (c : Slot) : Bool :=
  c.src.wf && c.inl.length == 32 && match c.ext with
    | some b => b.length == c.extLen.toNat
    | none => true

/-- A descriptor's place: a plot, a logical tile, and flips of bytes. -/
def At.wf (x : At) : Bool := decide (x.plot < 4) && decide (x.tile < 192) && decide (x.index < 2 ^ 20)

/-- Header fields within their widths (Table 3.7). -/
def DHead.wf (h : DHead) : Bool :=
  decide (h.start < 2 ^ 48) && decide (h.duration < 2 ^ 32) && decide (h.phase < 2 ^ 16) && decide (h.record < 2 ^ 16)
    && decide (h.tensor < 2 ^ 16)

/-- A descriptor command. -/
def descWf (x : At) (h : DHead) : Bool := x.wf && h.wf

/-- A port (R208). -/
def portWf (p : Nat) : Bool := decide (p < 10)
/-- A function: PF0 or a VF (R430). -/
def fnWf (f : Nat) : Bool := decide (f < 5)
/-- A cell of 256 bytes (R220). -/
def cellWf (b : List Byte) : Bool := b.length == 256

/-- Five extents of at least 1 and four strides (Table 7.3). -/
def extentsWf (ext : List Nat) (strides : List Int) : Bool :=
  ext.length == 5 && ext.all (fun n => decide (1 ≤ n)) && strides.length == 4

/-- Whether a command is well formed. -/
def Instr.wf : Instr → Bool
  | .getInfo c => c.wf
  | .getState c => c.wf
  | .readCounters c => c.wf
  | .runSelftest c => c.wf
  | .readSelftest c => c.wf
  | .runVectors c => c.wf
  | .setProfile c => c.wf
  | .readProfile c => c.wf
  | .writeProfile c => c.wf
  | .plotStop c => c.wf
  | .plotStart c => c.wf
  | .plotReconfig c _ => c.wf
  | .loadImage c _ => c.wf
  | .loadImageValidationEnd => true
  | .arm c => c.wf
  | .start c => c.wf
  | .stop c => c.wf
  | .selectVariant c => c.wf
  | .setPolicy c => c.wf
  | .linkTrain c => c.wf
  | .linkTrainPortActive p => portWf p
  | .linkTrainWaitExpiry => true
  | .linkState c => c.wf
  | .setCoord c => c.wf
  | .setRouteEpoch c => c.wf
  | .setSluice c => c.wf
  | .timeArm c => c.wf
  | .hamperSeal c => c.wf
  | .hamperRestore c => c.wf
  | .hamperList c => c.wf
  | .setMirror c => c.wf
  | .recallNotice c => c.wf
  | .recallHalt => true
  | .planeShift c => c.wf
  | .planeShiftDone => true
  | .planeShiftWaitExpiry => true
  | .shiftRetryTimer _ => true
  | .leaveSlice c => c.wf
  | .audit c => c.wf
  | .readEvents c => c.wf
  | .readCper c => c.wf
  | .clearSuspect c => c.wf
  | .readJournal c => c.wf
  | .fwStage c => c.wf
  | .fwActivate c => c.wf
  | .controllerRestartEnd => true
  | .fwRevertTimeout => true
  | .readPower c => c.wf
  | .readThermal c => c.wf
  | .reset c => c.wf
  | .commandChipReset => true
  | .completionWrite n _ => decide (n < 8)
  | .mgtQueueEnable n => decide (n < 8)
  | .mgtQueueDisable n => decide (n < 8)
  | .mgtSqtailDoorbell n _ _ => decide (n < 8)
  | .mgtCqheadWrite n _ => decide (n < 8)
  | .dmaQueueEnable q => decide (q < 5)
  | .dmaQueueDrain q => decide (q < 5)
  | .dmaQueueAbort q _ => decide (q < 5)
  | .dmaQtailDoorbell q _ => decide (q < 5)
  | .hostCopyEntryStart q _ => decide (q < 5)
  | .hostCopyComplete q _ _ => decide (q < 5)
  | .sendQueueEnable => true
  | .sendQueueDrain => true
  | .sendQueueAbort => true
  | .sendQtailDoorbell _ => true
  | .sendEntryStart _ => true
  | .timNowLoRead f => fnWf f
  | .hstEventSeqLoRead f => fnWf f
  | .hstJournalSeqLoRead f => fnWf f
  | .hstPassPost f n => fnWf f && decide (n < 2 ^ 16)
  | .registerWrite f _ w _ => fnWf f && (w == 4 || w == 8)
  | .bar2Read f _ n => fnWf f && decide (1 ≤ n)
  | .bar2Write f _ d => fnWf f && decide (1 ≤ d.length)
  | .bufWrite _ off d => decide (off + d.length ≤ 65536)
  | .bufRead _ off n => decide (off + n ≤ 65536)
  | .setEndpointId _ => true
  | .ftsyncRisingEdge => true
  | .timeArmWaitExpiry => true
  | .epochCheckSend => true
  | .epochCheckWindowClose => true
  | .refLost => true
  | .corePllLock => true
  | .pllReferenceSwitch => true
  | .stepBoundary => true
  | .phaseStart => true
  | .descriptorFetch p t _ => decide (p < 4) && decide (t < 192)
  | .matrixMultiply x h _ => descWf x h
  | .vectorFunction x h _ => descWf x h
  | .updateDescriptor x h _ => descWf x h
  | .pairCheck x h _ => descWf x h
  | .formatConversion x h _ => descWf x h
  | .tileDmaIn x h o => descWf x h && extentsWf o.ext o.strides
  | .tileDmaOut x h o => descWf x h && extentsWf o.ext o.strides
  | .tileDmaPermute x h o => descWf x h && extentsWf o.ext o.strides && o.perm.length == 5
  | .gather x h _ => descWf x h
  | .scatter x h _ => descWf x h
  | .copyEngine x h _ => descWf x h
  | .chainHandoff x h _ => descWf x h
  | .cellEgress x h _ => descWf x h
  | .cellIngress x h _ => descWf x h
  | .wait x h _ => descWf x h
  | .contextSave x h _ => descWf x h
  | .contextRestore x h _ => descWf x h
  | .scaleRecordUpdate x h => descWf x h
  | .digestDescriptor x h _ => descWf x h
  | .collectivePack x h _ => descWf x h
  | .collectiveRound x h _ => descWf x h
  | .collectiveCheck x h _ => descWf x h
  | .place x h _ => descWf x h
  | .combine x h _ => descWf x h
  | .copyWindow e _ => decide (e < 16)
  | .hbmRefreshWindow k => decide (k < 8)
  | .slotDeparture p _ => portWf p
  | .scheduledCellReceive p _ a => portWf p && match a.cell with
      | some b => cellWf b
      | none => true
  | .votePhaseEnd => true
  | .beaconDeadline p => portWf p
  | .stepCommit => true
  | .backgroundCellReceive p b _ => portWf p && cellWf b
  | .linkControlCellReceive p b _ => portWf p && cellWf b
  | .idleCellReceive p b => portWf p && cellWf b
  | .linbyGroupReceive g => portWf g.port && decide (g.lane < 16)
  | .laneSignalLoss p l => portWf p && decide (l < 16)
  | .routerTick => true
  | .ejectionWrite _ => true
  | .ackTimer _ _ => true
  | .trackerIdleExpiry _ _ => true
  | .retransmitTimeout _ _ _ => true
  | .fetchTimeout _ => true
  | .fetchRetryTimer _ => true
  | .unscheduledCopyGroup q => decide (q < 5)
  | .hamperDrain _ => true
  | .passStart p => decide (p < 4)
  | .passEnd p => decide (p < 4)
  | .vectorRunEnd f => match f with
      | some k => decide (1 ≤ k) && decide (k ≤ 0x1C)
      | none => true
  | .powerOnReset _ => true
  | .pwrOkDeassert => true
  | .pinReset => true
  | .supplyDipBegin _ mv => decide (mv < 2 ^ 16)
  | .supplyDipEnd mv => decide (mv < 2 ^ 16)
  | .supplyReset _ => true
  | .supplyDipTimeout => true
  | .thermalSample l => l.length == 24
  | .thermalTrip => true
  | .powerSample mv ma => mv.length == 6 && ma.length == 6
  | .bootComplete _ => true
  | .selftestStepEnd r => r.tiles.all (fun t => decide (t.1 < 12) && decide (t.2 < 17)) && r.hstacks.all (fun k => decide (k < 8))
      && r.ports.all portWf
  | .flashInit i => i.nsLbas.length == 4
  | .nvmeCompletion st => decide (st < 2 ^ 15)
  | .nvmeTimeout => true
  | .hostLinkReset => true
  | .vfFlr v => decide (1 ≤ v) && decide (v ≤ 4)
  | .pmdTrainingEnd p _ => portWf p
  | .armEnd => true
  | .setProfileEnd => true
  | .writeProfileEnd _ => true
  | .plotReconfigEnd p => decide (p < 4)
  | .fwStageEnd => true
  | .hamperRestoreEnd => true
  | .leaveSliceEnd => true
  | .resetNDeassert n id => decide (n < 4) && decide (id < 64)
  | .flashLinkDown _ => true
  | .hbmControllerRefresh k => decide (k < 8)
  | .badOpcode _ c => c.wf
  | .tapInstruction _ _ => true

end Sys2Proof
end

