-- ==== Sys2Proof/Tests/Slice0.lean ====
section
/-! SUPPORT. Small tests of the model: ill-formed commands that the check refuses, and, for every statement with hypotheses, a
concrete state and operands that meet all of them together, clause by clause. The values come from the manual's tables and
rules, or are small ones made up here. -/
namespace Sys2Proof.Tests

open Machine

set_option Elab.async false

/-! ### Helpers -/

/-- A chip in READY with a sideband endpoint ID and its stacks in the controller's care. -/
def ready : State := { State.reset with
  chip := { State.reset.chip with st := .ready, trained := true }
  aq := { State.reset.aq with eid := some 9 }
  mem := { State.reset.mem with hstacks := State.reset.mem.hstacks.map (fun k => { k with refresh := .controller }) } }

/-- A slot from the sideband with the CRC that R367 asks for. -/
def slot (opcode : Nat) (target : Byte) (inl : List Byte) (extLen : W32) : Slot :=
  let c : Slot := ⟨.endpoint 9, 7, target, 0, 32, 0, extLen, 0, 0, 0, slice inl 0 32, none⟩
  { c with crc := crc32c (slotBytes c opcode) }

/-- A state whose sideband buffer begins with these bytes. -/
def withBuf (s : State) (b : List Byte) : State := { s with aq := { s.aq with buf := bufPut [] 0 b } }

/-- The training plot in a state. -/
def plotIs (s : State) (p : PlotState) : State := s.setPlot0 p

/-- A state with one command in progress. -/
def withJob (s : State) (opcode : Nat) (c : Slot) : State := s.addJob opcode c

/-- A run of step 1 that began at tick 0. -/
def run1 : Run := ⟨1, 0, 0, 8, false, 0, 0, false, false, 0, false, false, 0, 0, 0, 0, none,
  ⟨true, false, 0, 0, 0, 0, 0, 0, 0⟩, false, none, [], none, none, false, false, [], []⟩

/-- A small schedule: an upstream phase of 4 ticks, a vote phase and an update phase of 2 ticks each. -/
def sched0 : Sched := ⟨0, [⟨0, 0, 4, 0, 0⟩, ⟨2, 4, 2, 0, 0⟩, ⟨3, 6, 2, 0, 0⟩], [], [], [], []⟩

/-- A small image of one member. -/
def image0 : Image := ⟨5, 0, false, [1, 1, 1, 1], 0, [0, 0, 0], 0, 1, false, false, 0, 1,
  List.replicate 10 ⟨false, 0, 0⟩, [⟨0, 4, 0, 0, 0⟩], [], [⟨0, 0, 1, false, 8, 0⟩], 0 :: List.replicate 16 0xFD, [sched0], 0, []⟩

/-- A training plot that runs step 1 under VALID. -/
def training : State := { plotIs ready .running with
  time := { ready.time with valid := true, locked := true }
  place := ⟨some ⟨0, 0, 0, 0, [1, 1, 1, 1], [1, 1, 1, 1], 0, [0, 0, 0]⟩, 0, 0 :: List.replicate 16 0xFD⟩
  train := { ready.train with image := some image0, run := some run1 } }

/-! ### Ill-formed commands -/

theorem test_wf_pair : Source.wf (.pair 8) = false ∧ Source.wf (.pair 7) = true := by decide
theorem test_wf_inline : Slot.wf { slot 0x0101 0xFF [] 0 with inl := zeros 31 } = false := by decide +kernel
theorem test_wf_ext : Slot.wf { slot 0x0101 0xFF [] 4 with ext := some [1, 2, 3] } = false := by decide +kernel
theorem test_wf_plot : At.wf ⟨4, 0, 0, ⟨false, none, false, [], [], []⟩⟩ = false := by decide
theorem test_wf_tile : At.wf ⟨0, 192, 0, ⟨false, none, false, [], [], []⟩⟩ = false := by decide
theorem test_wf_index : At.wf ⟨0, 0, 2 ^ 20, ⟨false, none, false, [], [], []⟩⟩ = false := by decide +kernel
theorem test_wf_start : DHead.wf ⟨2 ^ 48, 0, false, 0, 0, 0⟩ = false := by decide +kernel
theorem test_wf_duration : DHead.wf ⟨0, 2 ^ 32, false, 0, 0, 0⟩ = false := by decide +kernel
theorem test_wf_phase : DHead.wf ⟨0, 0, false, 2 ^ 16, 0, 0⟩ = false := by decide +kernel
theorem test_wf_record : DHead.wf ⟨0, 0, false, 0, 2 ^ 16, 0⟩ = false := by decide +kernel
theorem test_wf_tensor : DHead.wf ⟨0, 0, false, 0, 0, 2 ^ 16⟩ = false := by decide +kernel
theorem test_wf_descriptor : Instr.wf (.wait ⟨0, 192, 0, ⟨false, none, false, [], [], []⟩⟩ ⟨0, 0, false, 0, 0, 0⟩ 0) = false := by
  decide +kernel
theorem test_wf_extents : extentsWf [1, 1, 1, 1, 0] [0, 0, 0, 0] = false ∧ extentsWf [1, 1, 1, 1] [0, 0, 0, 0] = false ∧
    extentsWf [1, 1, 1, 1, 1] [0, 0, 0] = false := by decide
theorem test_wf_permute : Instr.wf (.tileDmaPermute ⟨0, 0, 0, ⟨false, none, false, [], [], []⟩⟩ ⟨0, 0, false, 0, 0, 0⟩
    ⟨0, 0, 4, 0, false, false, false, false, false, [1, 1, 1, 1, 1], [0, 1, 2, 3], [0, 0, 0, 0]⟩) = false := by decide +kernel
theorem test_wf_port : portWf 10 = false ∧ portWf 9 = true := by decide
theorem test_wf_function : fnWf 5 = false ∧ fnWf 4 = true := by decide
theorem test_wf_cell : Instr.wf (.idleCellReceive 0 (zeros 255)) = false ∧ Instr.wf (.idleCellReceive 0 (zeros 256)) = true := by
  decide +kernel
theorem test_wf_arrival : Instr.wf (.scheduledCellReceive 0 0 ⟨some (zeros 255), 0, false, false, false, none, none⟩) = false := by
  decide +kernel
theorem test_wf_width : Instr.wf (.registerWrite 0 0 2 0) = false := by decide
theorem test_wf_bar2 : Instr.wf (.bar2Read 0 0 0) = false ∧ Instr.wf (.bar2Write 0 0 []) = false := by decide
theorem test_wf_buffer : Instr.wf (.bufWrite 9 65535 [1, 2]) = false ∧ Instr.wf (.bufRead 9 65535 2) = false := by decide +kernel
theorem test_wf_posts : Instr.wf (.hstPassPost 1 65536) = false := by decide +kernel
theorem test_wf_queue : Instr.wf (.dmaQueueEnable 5) = false ∧ Instr.wf (.mgtQueueEnable 8) = false := by decide
theorem test_wf_fetch : Instr.wf (.descriptorFetch 4 0 0) = false ∧ Instr.wf (.descriptorFetch 0 192 0) = false := by decide
theorem test_wf_engine : Instr.wf (.copyWindow 16 0) = false := by decide
theorem test_wf_stack : Instr.wf (.hbmRefreshWindow 8) = false ∧ Instr.wf (.hbmControllerRefresh 8) = false := by decide
theorem test_wf_lane : Instr.wf (.laneSignalLoss 0 16) = false ∧ Instr.wf (.linbyGroupReceive ⟨0, 16, 0, 0, 0, true⟩) = false := by
  decide +kernel
theorem test_wf_vector : Instr.wf (.vectorRunEnd (some 0)) = false ∧ Instr.wf (.vectorRunEnd (some 0x1D)) = false := by decide
theorem test_wf_millivolts : Instr.wf (.supplyDipBegin true (2 ^ 16)) = false ∧ Instr.wf (.supplyDipEnd (2 ^ 16)) = false := by
  decide +kernel
theorem test_wf_samples : Instr.wf (.thermalSample [0]) = false ∧ Instr.wf (.powerSample [1] [1]) = false := by decide
theorem test_wf_selftest : Instr.wf (.selftestStepEnd ⟨[(12, 0)], [], [], false, 0⟩) = false ∧
    Instr.wf (.selftestStepEnd ⟨[(0, 17)], [], [], false, 0⟩) = false ∧ Instr.wf (.selftestStepEnd ⟨[], [8], [], false, 0⟩) = false ∧
    Instr.wf (.selftestStepEnd ⟨[], [], [10], false, 0⟩) = false := by decide
theorem test_wf_flash : Instr.wf (.flashInit ⟨true, 4, 5, 1, [0], 16, 1023⟩) = false ∧ Instr.wf (.nvmeCompletion (2 ^ 15)) = false := by
  decide +kernel
theorem test_wf_vf : Instr.wf (.vfFlr 0) = false ∧ Instr.wf (.vfFlr 5) = false ∧ Instr.wf (.vfFlr 4) = true := by decide
theorem test_wf_plots : Instr.wf (.passStart 4) = false ∧ Instr.wf (.passEnd 4) = false ∧ Instr.wf (.plotReconfigEnd 4) = false := by
  decide
theorem test_wf_straps : Instr.wf (.resetNDeassert 4 0) = false ∧ Instr.wf (.resetNDeassert 0 64) = false := by decide

/-! ### The queue -/

theorem test_front_command : ({ ready with pending := [.routerTick] } : State).pending = .routerTick :: [] := by rfl


/-! ### A small image -/

/-- A section of an image: type, variant, scope kind, scope, entry size, rows (Table 3.2, Table 3.3). -/
structure Sec where
  ty : Nat
  var : Nat
  kind : Nat
  scope : Nat
  esize : Nat
  rows : List (List Byte)

/-- Its directory entry at an offset. -/
def Sec.entry (x : Sec) (off : Nat) : List Byte :=
  leBytes 2 x.ty ++ leBytes 1 x.var ++ leBytes 1 x.kind ++ leBytes 2 x.scope ++ zeros 2 ++ leBytes 8 off
    ++ leBytes 8 (32 + x.rows.length * x.esize) ++ leBytes 4 x.rows.length ++ leBytes 2 x.esize ++ zeros 2

/-- The sections laid out from an offset: directory and bodies. -/
def layOut : Nat → List Sec → List Byte × List Byte
  | _, [] => ([], [])
  | off, x :: l =>
    let body := padTo 64 (x.entry off ++ (x.rows.map (fun r => slice r 0 x.esize)).flatten)
    let r := layOut (off + body.length) l
    (x.entry off ++ r.1, body ++ r.2)

/-- An image of these sections: magic, header bytes 26 to 63 after the count of sections, sections, and the hash (R44). -/
def build (magic : String) (head : List Byte) (l : List Sec) : List Byte :=
  let first := roundUp (128 + 32 * l.length) 64
  let r := layOut first l
  let n := first + r.2.length + 32
  let b := slice (ascii 4 magic ++ leBytes 2 1 ++ leBytes 2 0 ++ leBytes 8 5 ++ leBytes 8 n ++ leBytes 2 l.length ++ head) 0 128
    ++ slice r.1 0 (first - 128) ++ r.2
  b ++ sha256 b

/-- The sections that training images and serving programs share. -/
def commonSecs (phases : List (List Byte)) (period nst : Nat) : List Sec :=
  [⟨1, 0xFF, 0, 0, 16, (List.range 10).map (fun p => leBytes 1 p)⟩, ⟨2, 0, 0, 0, 32, phases⟩,
   ⟨5, 0xFF, 0, 0, 32, [leBytes 8 0 ++ leBytes 4 4 ++ [0, 0, 0xFF]]⟩, ⟨6, 0xFF, 0, 0, 64, []⟩,
   ⟨9, 0xFF, 0, 0, 32, [[0, 0, 1, 0, 0, 0, 0, 0] ++ leBytes 8 period]⟩]
    ++ (List.range nst).map (fun k => ⟨8, 0, 3, k, 16, [leBytes 4 0 ++ leBytes 2 2 ++ zeros 2 ++ leBytes 4 2]⟩)

/-- A training image of one member: an upstream, a vote and an update phase of 1, 1 and 2 ticks. -/
def imageBytes : List Byte := build "NSI1" ([1, 0, 1, 1, 1, 1, 0, 0, 0, 0, 0, 0, 0, 0] ++ zeros 8 ++ leBytes 4 1)
  (commonSecs [leBytes 2 0 ++ [0, 0, 0, 0, 0, 0] ++ leBytes 8 0 ++ leBytes 4 1, leBytes 2 1 ++ [2, 0, 0, 0, 0, 0] ++ leBytes 8 1
      ++ leBytes 4 1, leBytes 2 2 ++ [3, 0, 0, 0, 0, 0] ++ leBytes 8 2 ++ leBytes 4 2] 4 8
    ++ [⟨10, 0xFF, 0, 0, 1, [0] :: List.replicate 16 [0xFD]⟩])

/-- A serving program of profile 3 with one phase of 4 ticks. -/
def programBytes : List Byte := build "NSP1" ([1, 3, 1, 1, 1, 1, 0, 0, 0, 0, 0, 0, 0, 0] ++ zeros 8 ++ leBytes 4 1)
  (commonSecs [leBytes 2 0 ++ [0, 0, 0, 0, 0, 0] ++ leBytes 8 0 ++ leBytes 4 4] 4 2)

/-! ### Reports, records and settings -/

theorem test_meets_getInfo : (let c := slot 0x0101 0xFF [] 256
    Sound ready 0x0101 .chip c anywhere && Clean c [(0, 32)] [] && 256 ≤ c.extLen.toNat && (ready.taken c).reaches c) = true := by
  decide +kernel
theorem test_meets_readCounters : (let c := slot 0x0103 0xFF [2, 1] 4096
    Sound ready 0x0103 .chip c anywhere && Clean c [(2, 30)] [(1, 1)] && arg c 0 1 ≤ 2 && counterBytes (arg c 0 1) ≤ c.extLen.toNat
      && (ready.taken c).reaches c) = true := by
  decide +kernel
theorem test_meets_readSelftest : (let c := slot 0x0202 0xFF [] 256
    Sound ready 0x0202 .chip c anywhere && Clean c [(0, 32)] [] && 256 ≤ c.extLen.toNat && (ready.taken c).reaches c) = true := by
  decide +kernel
theorem test_meets_readProfile : (let c := slot 0x0302 0xFF [3] 64
    Sound ready 0x0302 .chip c anywhere && Clean c [(1, 31)] [] && arg c 0 1 ≤ 3 && 64 ≤ c.extLen.toNat
      && (ready.taken c).reaches c) = true := by
  decide +kernel
theorem test_meets_linkState : (let c := slot 0x0502 0xFF [9] 0
    Sound ready 0x0502 .chip c anywhere && Clean c [(1, 31)] [] && arg c 0 1 ≤ 9 && c.extLen == 0) = true := by
  decide +kernel
theorem test_meets_readPower : (let c := slot 0x0A01 0xFF [] 128
    Sound ready 0x0A01 .chip c anywhere && Clean c [(0, 32)] [] && 128 ≤ c.extLen.toNat && (ready.taken c).reaches c) = true := by
  decide +kernel
theorem test_meets_hamperListReport : (let c := slot 0x0603 0 [] 0
    Sound ready 0x0603 .plot c anywhere && Clean c [(1, 3), (16, 16)] [] && arg c 0 1 == 0 && !(ready.taken c).flashFailed
      && 32 * ((ready.taken c).ring?.elim [] (·.slots)).length ≤ c.extLen.toNat && (ready.taken c).reaches c) = true := by
  decide +kernel
theorem test_meets_readEvents : (let c := slot 0x0801 0xFF [0, 0, 0, 0, 0, 0, 0, 0, 5] 64
    Sound ready 0x0801 .chip c anywhere && Clean c [(12, 20)] [] && c.extLen != 0 && c.extLen.toNat % 64 == 0
      && (ready.taken c).reaches c) = true := by
  decide +kernel
theorem test_meets_readJournal : (let c := slot 0x0804 0xFF [0, 0, 0, 0, 0, 0, 0, 0, 5] 128
    Sound ready 0x0804 .chip c anywhere && Clean c [(12, 20)] [] && c.extLen != 0 && c.extLen.toNat % 64 == 0
      && (ready.taken c).reaches c) = true := by
  decide +kernel
theorem test_meets_readCper : (let c := slot 0x0802 0xFF [0, 0, 0, 0, 0, 0, 0, 0, 1, 0, 0, 0, 5] 328
    Sound ready 0x0802 .chip c anywhere && Clean c [(9, 3), (16, 16)] [(8, 1)] && c.extLen != 0 && c.extLen.toNat % 328 == 0
      && (ready.taken c).reaches c) = true := by
  decide +kernel
theorem test_meets_getState : (let c := slot 0x0102 0xFF [] 64
    Sound ready 0x0102 .chip c anywhere && Clean c [(0, 32)] [] && 64 ≤ c.extLen.toNat && (ready.taken c).reaches c) = true ∧
    (let c := slot 0x0102 0xFF [] 0
    Sound ready 0x0102 .chip c anywhere && Clean c [(0, 32)] [] && c.extLen == 0) = true := by
  decide +kernel
theorem test_meets_readThermal : (let c := slot 0x0A02 0xFF [] 200
    Sound ready 0x0A02 .chip c anywhere && Clean c [(0, 32)] [] && 200 ≤ c.extLen.toNat && (ready.taken c).reaches c
      && (ready.taken c).power.sensors.contains Sensor.reset
      && (ready.taken c).power.sensors.all (fun y => y.value ≤ Sensor.reset.value)) = true := by
  decide +kernel

theorem test_meets_setCoord : (let c := slot 0x0503 0xFF [0, 0, 0, 0, 1, 1, 1, 1, 1, 1, 1, 1, 0, 0, 0, 0] 0
    c.extLen == 0 && Sound ready 0x0503 .chip c (fun u => trainIn [.empty, .loaded] u && u.ports.all (fun p => p.st == 0 || p.st == 3))
      && Clean c [(16, 16)] [] && (coordBad c).isNone) = true := by
  decide +kernel
theorem test_meets_setRouteEpoch : (let c := slot 0x0504 0xFF [200] 0
    c.extLen == 0 && Sound ready 0x0504 .chip c (trainIn [.empty, .loaded]) && Clean c [(1, 31)] []) = true := by
  decide +kernel
theorem test_meets_setSluice : (let c := slot 0x0505 0xFF [0xFF, 0x1F, 0x00, 0x20] 0
    c.extLen == 0 && Sound ready 0x0505 .chip c anywhere && Clean c [(4, 28)] [] && 0 < arg c 0 2 && arg c 0 2 < arg c 2 2
      && arg c 2 2 ≤ 8192) = true ∧ (let c := slot 0x0505 0xFF [] 0
    Sound ready 0x0505 .chip c anywhere && Clean c [(4, 28)] [] && arg c 0 2 == 0 && arg c 2 2 == 0) = true := by
  decide +kernel
theorem test_meets_selectVariant : (let s := { plotIs ready .armed with train := { ready.train with image := some image0 } }
    let c := slot 0x0405 0 [] 0
    c.extLen == 0 && Sound s 0x0405 .plot c (trainIn [.armed, .running]) && Clean c [(9, 23)] [] && (s.taken c).stepArgOk (arg c 0 8)
      && (image0.variant? (arg c 8 1)).isSome && arg c 8 1 == (s.taken c).train.variant) = true ∧
    (let i : Image := { image0 with variants := [⟨0, 0, 1, false, 8, 0⟩, ⟨2, 0, 1, false, 8, 0⟩] }
    let s := { plotIs ready .armed with train := { ready.train with image := some i } }
    let c := slot 0x0405 0 (zeros 8 ++ [2]) 0
    Sound s 0x0405 .plot c (trainIn [.armed, .running]) && Clean c [(9, 23)] [] && (s.taken c).stepArgOk (arg c 0 8)
      && (i.variant? (arg c 8 1)).isSome && arg c 8 1 == 2 && (s.taken c).train.variant == 0) = true := by
  decide +kernel
theorem test_meets_setPolicy : (let s := { plotIs ready .armed with train := { ready.train with image := some image0 } }
    let c := slot 0x0406 0 [0, 0, 0, 0, 0, 0, 0, 0, 0xFF, 1] 0
    c.extLen == 0 && Sound s 0x0406 .plot c (trainIn [.loaded, .armed, .running, .parked]) && Clean c [(10, 22)] []
      && (s.taken c).stepArgOk (arg c 0 8) && [0, 1, 0xFF].contains (arg c 8 1) && arg c 8 1 != 1
      && [0, 1, 0xFF].contains (arg c 9 1)) = true := by
  decide +kernel
theorem test_meets_clearSuspect : (let c := slot 0x0803 0xFF [] 0
    c.extLen == 0 && Sound ready 0x0803 .chip c (fun u => u.chip.profile != 0 || u.plot0.st == .empty) && Clean c [(0, 32)] []) = true := by
  decide +kernel

/-- A serving chip: profile 1, one plot of PF0's first VF. -/
def serving : State := { ready with
  chip := { ready.chip with profile := 1 }
  plots := [Plot.fresh (List.range 12) (List.range 8) 1]
  time := { ready.time with locked := true, pll := .ftref } }

theorem test_meets_plotStart : (let s := plotIs serving .loaded
    let c := slot 0x0305 0 [] 0
    c.extLen == 0 && Sound s 0x0305 .plot c (fun u => u.chip.profile != 0 && plotIn [.loaded] u c && u.time.locked && u.cool)
      && Clean c [(0, 32)] [] && ((s.taken c).plot? c.target.toNat).isSome) = true := by
  decide +kernel

/-- A chip whose inactive bank holds a valid image. -/
def twoBanks : State := { ready with flash := { ready.flash with banks := [⟨true, 1, 1⟩, ⟨true, 2, 2⟩] } }

theorem test_meets_fwActivate : (let c := slot 0x0902 0xFF [1] 0
    c.extLen == 0 && Sound twoBanks 0x0902 .chip c anywhere && Clean c [(1, 31)] [] && arg c 0 1 == 1
      && (twoBanks.taken c).flash.inactive.valid) = true ∧ (let c := slot 0x0902 0xFF [0] 0
    c.extLen == 0 && Sound twoBanks 0x0902 .chip c anywhere && Clean c [(1, 31)] [] && arg c 0 1 == 0
      && (twoBanks.taken c).flash.inactive.valid && !(twoBanks.taken c).snap.hamper.any (·.draining)) = true := by
  decide +kernel

/-! ### Configurations that are accepted -/

theorem test_meets_setProfile : (let c := slot 0x0301 0xFF [3] 0
    Sound ready 0x0301 .chip c (fun u => u.plots.all (fun p => p.st == .empty)) && Clean c [(1, 31)] [] && c.extLen == 0
      && arg c 0 1 ≤ 3) = true := by
  decide +kernel
theorem test_meets_writeProfile : (let s := withBuf ready (nth shippedProfiles 2 [])
    let c := slot 0x0303 0xFF [2] 64
    Sound s 0x0303 .chip c anywhere && Clean c [(1, 31)] [] && c.extLen == 64 && arg c 0 1 ≤ 3
      && ((s.taken c).extBytes c).any (fun b => (profileBad (arg c 0 1) b).isNone)) = true := by
  decide +kernel



/-- A chip of profile 3. -/
def four : State := { ready with
  chip := { ready.chip with profile := 3 }, plots := plotsOf (nth shippedProfiles 3 []) }

theorem test_meets_plotReconfig : (let s := withBuf four (ascii 4 "PCR1" ++ [1])
    let c := slot 0x0306 0 [] 80
    Sound s 0x0306 .plot c (fun u => u.chip.profile != 0 && plotIn [.empty, .loaded] u c
        && (u.plot? c.target.toNat).any (fun p => !p.bad)) && Clean c [(0, 32)] [] && c.extLen.toNat % 16 == 0
      && ((s.taken c).extBytes c).any (fun b => (configBad b).isNone)
      && ((s.taken c).plot? c.target.toNat).any (fun p => (s.taken c).programTarget p == ⟨true, 3, 3, 2⟩)) = true := by
  decide +kernel
theorem test_meets_loadImage : (let c := slot 0x0401 0 [] 16
    Sound ready 0x0401 .plot c (trainIn [.empty, .loaded]) && Clean c [(0, 32)] [] && c.extLen.toNat % 16 == 0
      && (ready.taken c).reaches c) = true := by
  decide +kernel
theorem test_meets_runSelftest : (let c := slot 0x0201 0xFF [1, 1] 0
    Sound ready 0x0201 .either c (fun u => (if c.target == 0xFF then allPlotsIn [.empty] u else plotIn [.empty] u c) && u.cool)
      && Clean c [(2, 30)] [(1, 1)] && c.extLen == 0 && arg c 0 1 ≤ 1 && c.target == 0xFF) = true := by
  decide +kernel

/-- A set of one vector of kind 1, the first draw of Table 6.3 (Tables 20.2 to 20.4). -/
def vectorSet : List Byte :=
  let r := slice (leBytes 4 128 ++ zeros 4 ++ [1, 0, 0, 0xFF] ++ zeros 4 ++ leBytes 8 1 ++ leBytes 8 3) 0 64
    ++ slice ([0, 0] ++ leBytes 2 0x42 ++ leBytes 4 32 ++ leBytes 4 64 ++ leBytes 4 9 ++ leBytes 2 0x68CC) 0 64
  slice (ascii 4 "TVS1" ++ leBytes 2 1 ++ zeros 2 ++ leBytes 4 1 ++ zeros 4 ++ leBytes 8 192 ++ leBytes 8 192
    ++ leBytes 4 (crc32c r).toNat) 0 64 ++ r

set_option maxRecDepth 10000 in
theorem test_meets_runVectors : (let s := withBuf ready vectorSet
    let c := slot 0x0203 0xFF [1] 208
    Sound s 0x0203 .either c (fun u => if c.target == 0xFF then allPlotsIn [.empty, .loaded] u
        else plotIn [.empty, .loaded] u c) && Clean c [(1, 31)] [(0, 1)] && 64 ≤ c.extLen.toNat
      && ((s.taken c).extBytes c).any (fun b => (setBad b c.extLen.toNat ((s.taken c).vectorScope c.target.toNat).length).isNone))
      = true := by
  decide +kernel
theorem test_meets_fwStage : (let c := slot 0x0901 0xFF (zeros 8 ++ leBytes 8 256 ++ [3]) 4
    Sound ready 0x0901 .chip c anywhere && Clean c [(17, 15)] [(16, 3)] && c.extLen != 0 && arg c 8 8 ≤ 24 * 2 ^ 20
      && arg c 16 1 % 2 == 1 && arg c 0 8 == 0 && (ready.taken c).reaches c) = true ∧
    (let s : State := { ready with flash := { ready.flash with staging := some ⟨256, [1, 2]⟩ } }
    let c := slot 0x0901 0xFF (leBytes 8 2 ++ leBytes 8 256) 4
    Sound s 0x0901 .chip c anywhere && Clean c [(17, 15)] [(16, 3)] && c.extLen != 0 && arg c 8 8 ≤ 24 * 2 ^ 20
      && arg c 16 1 % 2 == 0 && (s.taken c).flash.staging == some ⟨256, [1, 2]⟩ && arg c 0 8 == 2 && (s.taken c).reaches c) = true := by
  decide +kernel
theorem test_meets_fwStageEnd : (let u : State := { ready with flash := { ready.flash with staging := some ⟨256, [1, 2]⟩ } }
    let s := withJob u 0x0901 (slot 0x0901 0xFF [] 4)
    (s.job? 0x0901).isSome && s.flash.staging.isSome) = true := by
  decide +kernel

/-! ### The training job -/

/-- A chip with a valid fabric time and a plot state. -/
def timed (p : PlotState) : State := { plotIs ready p with time := { ready.time with valid := true, locked := true } }

theorem test_meets_arm : (let s := timed .loaded
    let c := slot 0x0402 0 [] 0
    c.extLen == 0 && Sound s 0x0402 .plot c (fun u => trainIn [.loaded] u && u.time.valid && !u.flash.suspect && u.cool)
      && Clean c [(0, 32)] []) = true := by
  decide +kernel
theorem test_meets_start : (let s := timed .parked
    let c := slot 0x0403 0 (leBytes 8 1563) 0
    Sound s 0x0403 .plot c (fun u => trainIn [.armed, .parked] u && u.cool && !u.train.updateHalted &&
        !(u.plot0.st == .parked && (u.train.shiftAborted || u.shift.isSome))) && Clean c [(8, 24)] []
      && (s.taken c).fabric + ticksPerMs ≤ arg c 0 8) = true := by
  decide +kernel
theorem test_meets_stop : (let c := slot 0x0404 0 (leBytes 8 3) 0
    Sound training 0x0404 .plot c (trainIn [.running]) && Clean c [(8, 24)] [] && (training.taken c).leadOk (arg c 0 8)) = true := by
  decide +kernel
theorem test_meets_timeArm : (let c := slot 0x0506 0xFF (leBytes 4 60000 ++ leBytes 4 77 ++ [0xFF, 3]) 0
    Sound ready 0x0506 .chip c (trainIn [.empty, .loaded]) && Clean c [(10, 22)] [(9, 3)] && arg c 0 4 ≤ 60000) = true := by
  decide +kernel
theorem test_meets_audit : (let c := slot 0x0704 0 (leBytes 8 3 ++ zeros 8 ++ leBytes 8 64) 0
    Sound training 0x0704 .plot c (fun u => trainIn [.running] u && !u.flash.suspect) && Clean c [(9, 7)] [] && arg c 8 1 == 0
      && (training.taken c).leadOk (arg c 0 8) && arg c 24 8 == 0 && arg c 16 8 % 64 == 0
      && (regionAt ((training.taken c).regions 0) (arg c 16 8) ((training.taken c).auditRoom 0)).any (fun r => r.2.kind == 0)) = true ∧
    (let s : State := { training with place := { training.place with map := 0xFE :: List.replicate 16 0xFF } }
    let c := slot 0x0704 0 (leBytes 8 3 ++ [1] ++ zeros 7 ++ leBytes 8 64 ++ leBytes 8 3) 0
    Sound s 0x0704 .plot c (fun u => trainIn [.running] u && !u.flash.suspect) && Clean c [(9, 7)] [] && arg c 8 1 == 1
      && (s.taken c).isSpare && (s.taken c).leadOk (arg c 24 8) && arg c 16 8 % 64 == 0
      && (regionAt ((s.taken c).regions 0) (arg c 16 8) ((s.taken c).auditRoom 1)).any (fun r => r.2.kind == 0)) = true := by
  decide +kernel
theorem test_meets_recallNotice : (let c := slot 0x0701 0 (leBytes 8 1563) 0
    Sound training 0x0701 .plot c (trainIn [.armed, .running]) && Clean c [(9, 7), (24, 8)] [(8, 3)]
      && (training.taken c).fabric + ticksPerMs ≤ arg c 0 8 && ((training.taken c).sealBad c).isNone) = true := by
  decide +kernel

/-! ### Hampers -/

/-- A parked or armed training plot whose job has the small image. -/
def withImage (p : PlotState) : State := { timed p with
  place := training.place, train := { ready.train with image := some image0 } }

/-- A scratch region wide enough for a hamper's staging area. -/
def wide (s : State) : State := s.onTrain (fun t => { t with
  image := some { image0 with regions := [⟨0, 16, 0, 0, 0xFF⟩] } })

theorem test_meets_hamperSeal : (let s := wide (withImage .armed)
    let c := slot 0x0601 0 (leBytes 8 1 ++ [2] ++ zeros 7 ++ leBytes 8 4096) 0
    let u := s.taken c
    Sound s 0x0601 .plot c (trainIn [.armed, .running, .parked]) && Clean c [(9, 7), (24, 8)] [(8, 3)] && c.extLen == 0
      && arg c 8 1 != 0 && !u.snap.hamper.any (·.draining) && u.train.changes.isEmpty && (u.sealBad c).isNone
      && u.plot0.st != .parked && u.leadOk (arg c 0 8) && u.shadowsOk) = true ∧
    (let s := wide (withImage .parked)
    let c := slot 0x0601 0 (leBytes 8 0 ++ [2] ++ zeros 7 ++ leBytes 8 4096) 0
    let u := s.taken c
    Sound s 0x0601 .plot c (trainIn [.armed, .running, .parked]) && Clean c [(9, 7), (24, 8)] [(8, 3)] && c.extLen == 0
      && arg c 8 1 != 0 && !u.snap.hamper.any (·.draining) && u.train.changes.isEmpty && (u.sealBad c).isNone
      && u.plot0.st == .parked && !u.train.updateHalted) = true := by
  decide +kernel

/-- A state whose ring in namespace 1 has a sealed, an unsealed and a newer sealed slot. -/
def ringed (s : State) : State := { s with
  snap := { s.snap with ns := 1, rings := [⟨1, 3, 1, [⟨1, 4, 5, zeros 4096⟩, ⟨2, 0, 0, []⟩, ⟨1, 6, 5, zeros 4096⟩]⟩] }
  host := { s.host with flState := 2, nsUsable := 1, nsLbas := [4096, 0, 0, 0] } }

theorem test_meets_hamperRestore : (let s := wide (withImage .loaded)
    let c := slot 0x0602 0 ([1, 0, 0, 0] ++ zeros 4 ++ leBytes 8 4096) 0
    let u := s.taken c
    Sound s 0x0602 .plot c (fun u => if auditLoad c then trainIn [.running] u && u.isSpare else trainIn [.loaded, .parked] u)
      && Clean c [(2, 2), (16, 16)] [(1, 1)] && c.extLen == 0 && arg c 0 1 == 1 && u.stagingOk 0 (arg c 8 8) 256) = true ∧
    (let s := ringed (withImage .parked)
    let c := slot 0x0602 0 ([0, 0, 0, 0, 2]) 0
    let u := s.taken c
    Sound s 0x0602 .plot c (fun u => if auditLoad c then trainIn [.running] u && u.isSpare else trainIn [.loaded, .parked] u)
      && Clean c [(2, 2), (16, 16)] [(1, 1)] && c.extLen == 0 && arg c 0 1 == 0 && !u.flashFailed
      && u.ring?.any (fun r => (r.slots[arg c 4 4]?).isSome)) = true := by
  decide +kernel
theorem test_meets_hamperList : (let s := ringed (wide (withImage .loaded))
    let c := slot 0x0603 0 ([1, 0, 0, 0, 0, 0, 0, 0] ++ leBytes 8 4096) 0
    let u := s.taken c
    Sound s 0x0603 .plot c anywhere && Clean c [(1, 3), (16, 16)] [] && c.extLen == 0 && !u.flashFailed && !u.slotBusy (arg c 4 4)
      && u.ring?.any (fun r => (r.slots[arg c 4 4]?).any (fun x => x.st == 1
        && u.stagingOk c.target.toNat (arg c 8 8) (fieldAt x.data 112 8))) && arg c 0 1 == 1) = true ∧
    (let s := ringed (withImage .loaded)
    let c := slot 0x0603 0 [2, 0, 0, 0, 1] 0
    let u := s.taken c
    Sound s 0x0603 .plot c anywhere && Clean c [(1, 3), (16, 16)] [] && c.extLen == 0 && !u.flashFailed && !u.slotBusy (arg c 4 4)
      && u.ring?.any (fun r => (r.slots[arg c 4 4]?).isSome && r.newest != some (arg c 4 4)) && arg c 0 1 == 2) = true := by
  decide +kernel
theorem test_meets_setMirror : (let s := ringed (wide (withImage .loaded))
    let c := slot 0x0604 0 (leBytes 4 1 ++ leBytes 4 4 ++ [1, 0, 0, 0] ++ leBytes 4 64 ++ leBytes 8 64) 0
    let u := s.taken c
    let most := ({ u with snap := { u.snap with cursor := arg c 16 8 } } : State).hamperMost
    Sound s 0x0604 .plot c (trainIn [.loaded, .armed, .running]) && Clean c [(9, 3), (24, 8)] [] && c.extLen == 0
      && u.modeOf 0 == 1 && arg c 0 4 == 1 && arg c 8 1 ≤ 4 && !u.flashFailed && u.host.flState == 2
      && bit u.host.nsUsable (arg c 8 1 - 1) && 1 ≤ arg c 12 4 && arg c 12 4 ≤ 64
      && !u.relabels (arg c 8 1) (arg c 12 4) ((nth u.host.nsLbas (arg c 8 1 - 1) 0 - 16) / max (arg c 12 4) 1)
      && most ≤ (nth u.host.nsLbas (arg c 8 1 - 1) 0 - 16) / max (arg c 12 4) 1 * 4096 && arg c 16 8 % 64 == 0
      && (regionAt (u.regions 0) (arg c 16 8) 65540).any (fun r => r.2.kind == 0)) = true := by
  decide +kernel

/-! ### Effects that follow the completion -/

theorem test_meets_plotStop : (let s := plotIs serving .running
    let c := slot 0x0304 0 [1] 0
    Sound s 0x0304 .plot c (fun u => u.chip.profile != 0 && plotIn [.running] u c) && Clean c [(1, 31)] [] && c.extLen == 0
      && arg c 0 1 ≤ 1) = true := by
  decide +kernel
theorem test_meets_linkTrain : (let s : State := { ready with place := training.place }
    let c := slot 0x0501 0xFF [0x0F, 0, 16, 0, 0xFF, 7, 0x10, 0x27] 0
    Sound s 0x0501 .chip c (trainIn [.empty, .loaded, .parked]) && Clean c [(3, 1), (8, 24)] [(1, 3)] && c.extLen == 0
      && (s.taken c).place.coord.isSome && [8, 12, 16].contains (arg c 2 1) && (trainMask c).all (fun p => arg c 2 1 ≤ maxLanes p)
      && arg c 4 2 == 2047 && arg c 6 2 == 10000) = true := by
  decide +kernel
theorem test_meets_planeShift : (let s := withBuf (withImage .parked) (zeros 64)
    let c := slot 0x0702 0 (leBytes 8 1 ++ 0 :: List.replicate 16 0xFD) 64
    let u := s.taken c
    Sound s 0x0702 .plot c (fun u => trainIn [.parked] u && !u.flash.suspect && u.modeOf 0 != 0) && Clean c [(30, 2)] [(27, 1)]
      && (u.extBytes c).any (fun b => 64 + 32 * fieldAt b 0 4 == c.extLen.toNat && (tableBad b (fieldAt b 0 4)).isNone)
      && arg c 0 8 == u.train.committed + 1 && (image0.variant? (arg c 26 1)).any (fun e =>
        mapOk ((slice c.inl 8 17).map (·.toNat)) e.active (nth image0.shape 3 1 + image0.spare)) && arg c 26 1 == 0
      && arg c 27 1 == 0) = true := by
  decide +kernel
theorem test_meets_leaveSlice : (let c := slot 0x0703 0 [1] 0
    Sound ready 0x0703 .plot c (fun u => trainIn [.empty, .loaded, .parked] u
        && !u.shift.any (fun h => h.persReaders != 0 || h.partReaders != 0)) && Clean c [(1, 31)] [(0, 1)] && c.extLen == 0) = true := by
  decide +kernel
theorem test_meets_reset : [(0xFF, [0, 1]), (0xFF, [1, 0]), (0, [2, 0])].all (fun (x : Byte × List Byte) =>
    let c := slot 0x0B01 x.1 x.2 0
    Sound ready 0x0B01 .either c anywhere && Clean c [(2, 30)] [] && c.extLen == 0) = true := by
  decide +kernel

/-! ### Work that ends -/

theorem test_meets_setProfileEnd : (let s := withJob ready 0x0301 (slot 0x0301 0xFF [3] 0)
    (s.job? 0x0301).any (fun j => (s.flash.profile? (arg j.slot 0 1)).isSome)) = true := by
  decide +kernel
theorem test_meets_writeProfileEnd : (let s := withJob (withBuf ready (nth shippedProfiles 2 [])) 0x0303 (slot 0x0303 0xFF [2] 64)
    (s.job? 0x0303).any (fun j => (s.extBytes j.slot).any (fun b => (profileBad (arg j.slot 0 1) b).isNone))) = true := by
  decide +kernel
theorem test_meets_plotReconfigEnd : (let u := four.onPlot 3 (fun p => { p with config := some (true, programBytes) })
    let s := withJob u 0x0306 (slot 0x0306 3 [] 80)
    (s.plotJob 0x0306 3).isSome && (s.plot? 3).any (fun p => p.config.isSome)) = true := by
  decide +kernel

/-- A chip that validates an image. -/
def validating (p : Place) (b : List Byte) : State :=
  withJob ({ ready with place := p, train := { ready.train with loading := some b } } : State) 0x0401 (slot 0x0401 0 [] 16)

theorem test_meets_loadImageValidationEnd_invalid : (let s := validating training.place [0]
    (s.job? 0x0401).isSome && s.train.loading == some [0] && (imageBad trainTarget [0]).isSome) = true := by
  decide +kernel
theorem test_meets_armEnd : (let s := withJob (withImage .loaded) 0x0402 (slot 0x0402 0 [] 0)
    (s.job? 0x0402).isSome && s.train.image == some image0 && (s.fitBad image0).isNone) = true := by
  decide +kernel
theorem test_meets_controllerRestartEnd : (let t : State := { twoBanks with chip := { twoBanks.chip with restart := some (1, true) } }
    let s := withJob t 0x0902 (slot 0x0902 0xFF [] 0)
    (s.job? 0x0902).isSome && s.chip.restart == some (1, true)) = true := by
  decide +kernel

/-! ### Waits -/

/-- A chip that waits for its epoch edge, or checks it. -/
def arming (edge : Bool) (tick deadline : Nat) (seen : List (Nat × Bool)) : State :=
  withJob ({ ready with time := { ready.time with
    valid := edge, locked := true, tick := tick, arming := some ⟨77, [3], seen, deadline, edge, false⟩ } } : State) 0x0506
    (slot 0x0506 0xFF [] 0)

theorem test_meets_timeArmWaitExpiry : (let s := arming false 0 0 []
    (s.job? 0x0506).isSome && s.time.arming.any (fun a => !a.edge && a.deadline ≤ s.time.cyc)) = true := by
  decide +kernel
theorem test_meets_epochCheckWindowClose : [[(3, true)], [], [(3, true), (3, true)]].map (fun l =>
    let s := arming true 16 0 l
    (s.job? 0x0506).isSome && s.time.valid && 16 ≤ s.time.tick && s.time.arming.any (fun a => a.edge
      && (a.mask.filter (fun p => decide (a.seen.filter (fun x => x.1 == p) ≠ [(p, true)]))).isEmpty)) = [true, false, false] := by
  decide +kernel
theorem test_meets_linkTrainWaitExpiry : (let t := withJob ready 0x0501 (slot 0x0501 0xFF [1, 0, 8, 0, 0, 0, 1] 0)
    let s := t.onTime (fun x => { x with cyc := Config.cyclesPerMs })
    (s.job? 0x0501).any (fun j => j.began + trainWait j.slot * Config.cyclesPerMs ≤ s.time.cyc)) = true := by
  decide +kernel

/-- A plane shift whose moves are finished. -/
def shifting : State := withJob ({ withImage .parked with shift := some ⟨[], 1, 1, none, none, 0, 0, 0, 0, none, 0, [], none, 0⟩ } : State)
  0x0702 (slot 0x0702 0 [] 64)

theorem test_meets_planeShiftDone : (shifting.job? 0x0702).isSome ∧ shifting.shift.any (fun h => h.moves.all (·.finished)
    && h.persReaders == 0 && h.partReaders == 0 && h.deadline ≤ shifting.time.cyc) = true := by
  decide +kernel
theorem test_meets_leaveSliceEnd : ((withJob ready 0x0703 (slot 0x0703 0 [1] 0)).job? 0x0703).isSome := by decide +kernel
theorem test_meets_recallHalt : (let s : State := { withImage .armed with train := { ready.train with changes := [.recall 0 false none] } }
    s.recallTick == some 0 && s.train.run.isNone && 0 ≤ s.time.tick) = true ∧
    (let s := training.onTrain (fun t => { t with changes := [.recall 0 false none] })
    s.recallTick == some 0 && s.train.run == some run1 && 0 < s.updateTick run1 && s.time.tick < s.updateTick run1) = true ∧
    (let r : Run := { run1 with passed := some false }
    let t := training.onTrain (fun t => { t with changes := [.recall 8 false none], run := some r })
    let s := t.onTime (fun x => { x with tick := 8 })
    s.recallTick == some 8 && s.train.run == some r && s.updateTick r ≤ s.time.tick && 8 ≤ r.base + r.period && s.runOver r) = true := by
  decide +kernel

/-! ### Restore -/

/-- A sealed hamper of no pages for the small image (Tables 14.1, R326, R327). -/
def hamperBytes : List Byte :=
  let h := slice ((withImage .loaded).hamperHeader { (withImage .loaded).train with committed := 4 } 100 0 0 0) 0 128
  slice (h ++ leBytes 8 (sealDigest h [] [] [])) 0 4096

/-- A chip that restores from slot 0 of its ring, plainly or as an audit load. -/
def restoring (b : List Byte) (audit : Byte) : State := withJob ({ withImage .loaded with
  snap := { ready.snap with ns := 1, rings := [⟨1, 1, 1, [⟨1, 4, 5, b⟩]⟩] } } : State) 0x0602 (slot 0x0602 0 [0, audit] 0)

theorem test_meets_hamperRestoreEnd : [0, 1].all (fun audit => (let s := restoring hamperBytes audit
    !s.host.nvme.any (fun c => c.use_ == 3) && (s.job? 0x0602).any (fun j =>
      let x := s.restoreSource j.slot
      (x.2.2.2.hamperBad x.1 x.2.1 x.2.2.1 (auditLoad j.slot)).isNone && auditLoad j.slot == (audit == 1)))) = true := by
  decide +kernel
theorem test_meets_hamperRestoreEnd_bad : (let s := restoring (0 :: hamperBytes.tail) 0
    (s.job? 0x0602).any (fun j =>
      let x := s.restoreSource j.slot
      x.2.2.2.hamperBad x.1 x.2.1 x.2.2.1 (auditLoad j.slot) == some (stBadParam, 1))) = true := by
  decide +kernel

/-! ### Tests and vectors -/

theorem test_meets_vectorRunEnd : (let t : State := { withBuf ready vectorSet with vec := some ⟨0xFF, false, vectorSet, 0, 64, 0, 0, []⟩ }
    let s := withJob t 0x0203 (slot 0x0203 0xFF [] 208)
    (s.job? 0x0203).isSome && (match parseRecord vectorSet (s.vectorScope 0xFF).length (fieldAt vectorSet 16 8) 64 with
      | .ok r => r.len == 128
      | .error _ => false) && fieldAt vectorSet 8 4 == 1) = true ∧
    (let b := putAt vectorSet 8 [2]
    (match parseRecord b 192 (fieldAt b 16 8) 64 with
      | .ok _ => true
      | .error _ => false) && 0 + 1 < fieldAt b 8 4) = true := by
  decide +kernel

/-- A self-test in progress. -/
def testing (scope kind step : Nat) : State := withJob ({ ready with
  chip := { ready.chip with st := if kind == 2 then .selftest else .ready, test := some ⟨scope, kind, false, step, false, false, 0, []⟩ } } : State)
  0x0201 (slot 0x0201 0xFF [] 0)

theorem test_meets_selftestStepEnd : ([(0xFF, 2, 1, false), (0, 0, 3, false), (0xFF, 2, 6, false), (0xFF, 0, 6, false), (0xFF, 2, 4, true),
    (0, 1, 5, true)].all (fun (x : Nat × Nat × Nat × Bool) =>
    let s := testing x.1 x.2.1 x.2.2.1
    s.chip.test.any (fun t => !t.dipped && stepFails s t ⟨[], [], [], x.2.2.2, 5⟩ == x.2.2.2) && (s.job? 0x0201).isSome)) = true := by
  decide +kernel

/-! ### Queue pairs and copies -/

/-- A queue pair with rings of 64 entries. -/
def pair64 (running : Bool) : Pair := { Pair.reset with sqSize := 64, cqSize := 64, sqTail := 63, cqTail := 62, running := running }

theorem test_meets_mgtQueueEnable : (let s := ready.onPair 3 (fun _ => pair64 false)
    !(s.pair 3).running && s.pairExists 3 && (s.pair 3).valid) = true ∧ (let s := ready.onPair 3 (fun _ => { pair64 false with sqSize := 65 })
    !(s.pair 3).running && s.pairExists 3 && !(s.pair 3).valid) = true := by
  decide +kernel
theorem test_meets_mgtDoorbells : (let s := ready.onPair 0 (fun _ => pair64 true)
    let p := s.pair 0
    p.running && p.sqSize.toNat == 64 && 0 < 64 && p.visible.length + (0 + 64 - p.sqTail.toNat) % 64 ≤ 63
      && (62 + 64 - p.cqHead.toNat) % 64 ≤ (p.cqTail.toNat + 64 - p.cqHead.toNat) % 64) = true := by
  decide +kernel
theorem test_meets_completionWrite : (let w : Waiting := ⟨⟨7, 0, 0, 0, 0, 1⟩, true⟩
    let s := ready.onPair 7 (fun _ => { pair64 true with waiting := [w] })
    (s.pair 7).running && (s.pair 7).waiting == [w] && 0 < (s.pair 7).ringFree) = true := by
  decide +kernel

/-- A copy entry of 2 KiB from the small image's scratch region to another place of it. -/
def copy2k (kind : Nat) : CopyEntry := ⟨kind, true, 7, 0, 0x100000, 2048, 0, 0, 0, 0, 0, false, zeros 2048⟩

/-- A chip whose queue 0 is in a state, with a ring of 64 entries and one entry waiting. -/
def copying (st : Nat) : State := { withImage .loaded with dma := { ready.dma with
  queues := { DmaQueue.reset with size := 64, head := 63, tail := 0, st := st } :: List.replicate 4 DmaQueue.reset } }

/-- The small image with a region that the host may write. -/
def hostRegion (s : State) : State := s.onTrain (fun t => { t with image := some { image0 with regions := [⟨0, 4, 0, 1, 0xFF⟩] } })

theorem test_meets_dmaQueueEnable : ((copying 0).dmaQ 0).st = 0 ∧ (copying 0).queuePlot 0 = some 0 ∧ ((copying 1).dmaQ 0).st ≠ 0 := by
  decide +kernel
theorem test_meets_dmaQueueRunning : (let s := copying 1
    (s.dmaQ 0).st == 1 && (63 : W32).toNat < (s.dmaQ 0).size.toNat && 0 < s.dma.queues.length && (s.queuePlot 0).isSome
      && (s.copyJob? 0).isNone) = true := by
  decide +kernel
theorem test_meets_hostCopyEntryStart : (let s := hostRegion (copying 1)
    let e := copy2k 2
    (s.dmaQ 0).st == 1 && (s.dmaQ 0).head != (s.dmaQ 0).tail && (s.copyJob? 0).isNone && s.queuePlot 0 == some 0 && !entryBad s 0 e
      && e.kind == 2 && s.hostMayWrite 0 e.dst (copySpans e).2 && !s.copyWaits 0 e) = true ∧ (let s := copying 2
    let e := copy2k 3
    (s.dmaQ 0).st == 2 && (s.dmaQ 0).head != (s.dmaQ 0).drainTo && (s.copyJob? 0).isNone && s.queuePlot 0 == some 0
      && !entryBad s 0 e && !s.copyWaits 0 e) = true ∧ (let s := copying 3
    (s.dmaQ 0).st == 3 && (s.dmaQ 0).head != (s.dmaQ 0).tail && (s.copyJob? 0).isNone) = true ∧
    entryBad (copying 1) 0 { copy2k 3 with rows := 1 } = true := by
  decide +kernel
theorem test_meets_copyPermuted : (let s := hostRegion (copying 1)
    let e : CopyEntry := { copy2k 1 with dst := 2048, rows := 32, cols := 64, srcPitch := 64, dstPitch := 32 }
    !entryBad s 0 e && e.dst + (permSpans e).2 ≥ e.src + (permSpans e).1 && e.src + (permSpans e).1 ≤ e.dst
      && s.hostMayWrite 0 e.dst (copySpans e).2 && !s.copyWaits 0 e) = true := by
  decide +kernel
theorem test_meets_copyJob : [1024, 2048].all (fun n => (let s := (copying 1).setCopyJob 0 (some ⟨copy2k 3, n, stDone, []⟩)
    (s.copyJob? 0).any (fun j => j.status == stDone && j.entry.kind == 3 && !s.copyWaits 0 j.entry) && s.queuePlot 0 == some 0
      && (s.dmaQ 0).st == 1 && 0 < s.dma.queues.length)) = true ∧
    (let s := (copying 1).setCopyJob 0 (some ⟨copy2k 3, 2048, stDone, []⟩)
    (finishCopy 0 0 2048 4 s).copyJob? 0 == some ⟨copy2k 3, 2048, stDone, []⟩) = true := by
  decide +kernel

/-- A chip whose send queue is in a state with one entry waiting. -/
def sending (st : Nat) : State := { withImage .loaded with
  dma := { ready.dma with send := { DmaQueue.reset with size := 64, head := 0, tail := 1, st := st } }
  ports := { Port.reset with st := 2, lanes := 8, neigh := some ⟨0, 0, 0, 0, 0⟩ } :: List.replicate 9 Port.reset }

theorem test_meets_sendQueue : ((sending 0).dma.send.st = 0) ∧ (let s := sending 1
    s.dma.send.st == 1 && (63 : W32).toNat < s.dma.send.size.toNat && s.dma.sendJobs.isEmpty) = true ∧ (let s := sending 3
    s.dma.send.st == 3 && s.dma.send.head != s.dma.send.tail) = true := by
  decide +kernel

/-! ### Registers -/

theorem test_meets_registerWrite : ready.chip.held = ⟨false, false, false⟩ ∧ 0x30008 % 8 = 0 ∧ 0x3000C % 4 = 0 ∧ (2 ≠ 4 ∧ 2 ≠ 8) := by
  decide
theorem test_meets_apbase : 4 < ready.host.apbase.length := by decide
theorem test_meets_msix : (let s := ready.onHost (fun h => { h with msix := h.msix.set 0 ((0, 0, true, true) :: msixReset 7) })
    (s.host.msix[0]?).any (fun e => e[0]? == some (0, 0, true, true))) = true := by
  decide +kernel
theorem test_meets_bar2 : (let s := hostRegion (withImage .loaded)
    s.chip.st == .ready && s.spaceOf 0 == some 0 && s.hostMayWrite 0 ((nth s.host.apbase 0 0).toNat + 64) 4
      && !s.hostMayWrite 0 ((nth s.host.apbase 0 0).toNat + 0x800000) 4 && !s.mustWait 0 64 4 && 64 + 4 ≤ hbmBytes (s.stacksOf 0)) = true ∧
    (ready.onStack 7 (fun k => { k with refresh := .selfRefresh })).mustWait 0 64 4 = true ∧
    hbmBytes (ready.stacksOf 0) ≤ 0x100000000000 := by
  decide +kernel
theorem test_meets_buffer : ready.aq.eid.isSome ∧ 1 ≤ 1024 ∧ 64512 + 1024 ≤ 65536 := by decide

/-! ### Fabric time -/

theorem test_meets_ftsync : (let s : State := { ready with time := { ready.time with locked := true, armed := true } }
    s.time.locked && s.time.armed) = true ∧ [0, 1023].all (fun c => (let s : State := { timed .empty with
      time := { (timed .empty).time with cycle := c } }
    s.time.locked && !s.time.armed && s.time.valid && s.time.cycle == c)) = true := by
  decide +kernel
theorem test_meets_epochCheckSend : (let s : State := { arming true 8 100 [] with
      ports := List.replicate 3 Port.reset ++ { Port.reset with st := 2 } :: List.replicate 6 Port.reset }
    s.time.valid && s.time.tick == 8 && s.time.cycle == 0 && s.time.arming.any (fun a => a.edge && !a.sent && a.mask == [3])
      && s.ports.length == 10) = true := by
  decide +kernel
theorem test_meets_reference : (timed .empty).time.locked ∧ (∀ p ∈ ready.plots, p.st ≠ .running ∧ p.st ≠ .draining) ∧
    (training.time.pll ≠ .ftref ∧ ∃ p ∈ training.plots, p.st = .running ∨ p.st = .draining) ∧
    ({ ready.time with pll := .holdover } : TimeBlock).pll = .holdover ∧ ready.chip.trained ∧ 7 < ready.mem.hstacks.length := by
  decide +kernel

/-! ### Steps -/

/-- A plot that waits for S0 = 0. -/
def waiting0 : State := (withImage .armed).onTrain (fun t => { t with next := some 0 })

theorem test_meets_stepBoundary_first : (waiting0.time.valid && waiting0.train.run.isNone && waiting0.train.next == some 0
    && 0 ≤ waiting0.time.tick && waiting0.recallTick.isNone) = true ∧
    (let s := waiting0.onTrain (fun t => { t with changes := [.recall 0 false none] })
    s.recallTick == some 0 && s.train.next == some 0) = true := by
  decide +kernel

/-- A run that is ended0: its vote failed, its last tick has passed. -/
def ended0 (t : Train → Train) : State := (training.onTime (fun x => { x with tick := 8 })).onTrain (fun x =>
  t { x with run := some { run1 with passed := some false } })

theorem test_meets_stepBoundary_next : [fun t => { t with mustPark := true }, fun t => { t with changes := [.recall 8 false none] },
    fun t => { t with changes := [.stop 1] }, id].all (fun (f : Train → Train) => (ended0 f).time.valid
      && (ended0 f).train.run.any (fun r => (ended0 f).runOver r)) = true ∧
    (ended0 (fun t => { t with mustPark := true })).train.mustPark = true ∧
    (ended0 (fun t => { t with changes := [.recall 8 false none] })).recallTick = some 8 ∧
    (ended0 (fun t => { t with changes := [.stop 1] })).stopDue 1 = true ∧ (ended0 id).stopDue 1 = false ∧ (ended0 id).recallTick = none := by
  decide +kernel
theorem test_meets_phaseStart : (training.phases[run1.begun]?).any (fun ph => training.time.valid
    && run1.base + ph.start ≤ training.time.tick && ph.kind != 3) = true ∧
    (let r : Run := { run1 with begun := 2, passed := some true }
    let s := (training.onTime (fun x => { x with tick := 6 })).onTrain (fun t => { t with run := some r })
    (s.phases[r.begun]?).any (fun ph => r.base + ph.start ≤ s.time.tick && ph.kind == 3 && r.passed.isSome)) = true := by
  decide +kernel
theorem test_meets_stepCommit : (let r : Run := { run1 with begun := 3, passed := some true }
    let s := (training.onTime (fun x => { x with tick := 8 })).onTrain (fun t => { t with run := some r })
    (s.phases[r.begun - 1]?).any (fun ph => ph.kind == 3 && r.base + ph.start + ph.length ≤ s.time.tick)
      && s.train.committed < r.step && s.time.valid) = true := by
  decide +kernel
theorem test_meets_votePhaseEnd : (let r : Run := { run1 with begun := 2 }
    let s := (training.onTime (fun x => { x with tick := 5, cycle := 1023 })).onTrain (fun t => { t with run := some r })
    (s.phases[r.begun - 1]?).any (fun ph => ph.kind == 2 && r.phaseStart ph + ph.length * 1024 ≤ s.fabricCycle + 1) && !r.phaseOver
      && r.passed.isNone && (s.axesFrom 0).isEmpty && !s.isSpare) = true ∧
    (let r : Run := { run1 with begun := 2 }
    let t := (training.onTime (fun x => { x with tick := 5, cycle := 1023 })).onTrain (fun t => { t with run := some r })
    let s : State := { t with place := { t.place with map := 0xFE :: List.replicate 16 0xFF } }
    (s.phases[r.begun - 1]?).any (fun ph => ph.kind == 2 && r.phaseStart ph + ph.length * 1024 ≤ s.fabricCycle + 1) && s.isSpare) = true := by
  decide +kernel
theorem test_meets_beaconDeadline : [some true, none].all (fun b => (let d : BeaconDue := ⟨0, 0, 0, 4095, b⟩
    let t := training.onTime (fun x => { x with tick := 3, cycle := 1023 })
    let s := t.onCheck 9 (fun k => { k with beacons := [d] })
    (s.check 9).beacons == [d] && (d.expected / 1024 + 1) * 1024 ≤ s.fabricCycle + 1 && s.train.run == some run1
      && run1.base == d.base)) = true := by
  decide +kernel
theorem test_meets_descriptorFetch : (training.fetchLists 0).isSome ∧ (training.plots[0]?).any (fun p => 191 < 16 * p.clusters.length)
    ∧ (training.tile 191).groups.length ≤ 128 := by
  decide +kernel
theorem test_meets_refresh : (let s := ready.onStack 7 (fun k => { k with refresh := .controller })
    (s.stack 7).refresh == .controller && (State.reset.stack 7).refresh != .controller) = true ∧
    (let i : Image := { image0 with scheds := [{ sched0 with refresh := [(7, [⟨0, 2, 4⟩])] }] }
    let s := (training.onTrain (fun t => { t with image := some i })).onStack 7 (fun k => { k with refresh := .image })
    (s.stack 7).refresh == .image && run1.base ≤ s.time.tick
      && (i.windows (baseVar s.train.variant) 7).contains (s.time.tick - run1.base)) = true := by
  decide +kernel
theorem test_meets_refresh_pass :
    (let p : Plot := { (default : Plot) with
      hstacks := [7], pass := some ⟨0, false, false, []⟩
      program := some { image0 with scheds := [{ sched0 with refresh := [(0, [⟨0, 2, 4⟩])] }] } }
    let s := ({ serving with plots := [p] } : State).onStack 7 (fun k => { k with refresh := .image })
    let t := s.onTime (fun t => { t with cyc := 2048 })
    let u := s.onTime (fun t => { t with cyc := 1024 })
    t.train.run.isNone && t.chip.profile != 0 && (t.stack 7).refresh == .image && t.inWindow 7 && !t.inWindow 6 && !u.inWindow 7)
      = true := by
  decide +kernel

/-! ### Descriptors -/

/-- A tile DMA descriptor of 64 bytes into page 0 of a persistent region in phase 2 (Table 7.3). -/
def windowedWrite : List (List Byte) :=
  [slice (leBytes 6 7168 ++ zeros 2 ++ leBytes 4 4160 ++ [0x0D, 0] ++ leBytes 2 2 ++ [0xFF, 0xFF] ++ zeros 6 ++ [16]) 0 64,
   slice (leBytes 6 7168 ++ zeros 2 ++ leBytes 4 100 ++ [5, 0] ++ leBytes 2 2 ++ [0xFF, 0xFF] ++ zeros 6 ++ zeros 12
    ++ ([1, 1, 1, 1, 1].map (leBytes 2)).flatten ++ leBytes 2 1) 0 64]

/-- The armed form of a job with one persistent page and its shadow. -/
def armedImage : Image := { image0 with
  regions := [⟨0, 1, 1, 0, 1⟩, ⟨1, 1, 3, 0, 0xFF⟩], scheds := [sched0, { sched0 with var := 1, descs := [(0, windowedWrite)] }] }

theorem test_meets_copyWindow : (let r : Run := { run1 with begun := 3, passed := some true, armedForm := true }
    let t := (training.onTime (fun x => { x with tick := 7 })).onTrain (fun t => { t with image := some armedImage, run := some r })
    let s := t.onSnap (fun n => { n with snap := [0] })
    s.inArmedUpdate && !s.isSpare && s.windowsBegun (some 0) true != 0 && s.snap.copied.length < s.windowsBegun none false
      && s.windowPages.contains 0 && (regionAt (s.regions 0) 0 1).any (fun g => s.freeShadow g.2.shadow == some 1)) = true := by
  decide +kernel

/-- A place on tile 0 of plot 0, with no physical fault. -/
def here : At := ⟨0, 0, 0, ⟨false, none, false, [], [], []⟩⟩

/-- A descriptor of 64 bytes: its type, start, phase and scale record, and fields as (offset, bytes, value) (Table 3.7). -/
def desc (ty start phase record : Nat) (fields : List (Nat × Nat × Nat)) : List Byte :=
  fields.foldl (fun b f => putAt b f.1 (leBytes f.2.1 f.2.2))
    (slice (leBytes 6 start ++ zeros 6 ++ [BitVec.ofNat 8 ty, 1] ++ leBytes 2 phase ++ leBytes 2 record) 0 64)

/-- Whether a descriptor that stands in group 0 of tile 0 runs there now. -/
def descRuns (s : State) (b : List Byte) : Bool :=
  let t := s.onTile 0 (fun t => { t with groups := [(0, slice b 0 1024)] })
  (parseOp b).any (fun o => (t.runs here (parseHead b) o).isSome)

/-- A step in its first phase, with a D reduction in its collective table. -/
def upstream : State :=
  let i : Image := { image0 with scheds := [{ sched0 with colls := [⟨1, 3, 0, 0, 1, 0, 0, 0, 0, 0, 0, 0, 0, 0, 0⟩,
    ⟨4, 3, 2, 4, 1, 0, 1, 0, 0, 1, 1, 16, 0, 0, 0⟩] }] }
  training.onTrain (fun t => { t with
    image := some i, run := some { run1 with begun := 1 }, records := [(ScaleRec.ofBytes (zeros 64)).fresh] })

/-- The same in the update phase of a run that passed. -/
def updating : State := (upstream.onTime (fun t => { t with tick := 6 })).onTrain (fun t => { t with
  run := some { run1 with begun := 3, passed := some true } })

/-- Fields of a tile DMA of one element, of a gather of one row of 4 bytes, and of a collective's step (Tables 7.3, 7.4, 12.5). -/
def dmaFields : List (Nat × Nat × Nat) := [(24, 6, 0x1000), (34, 1, 2), (36, 2, 1), (38, 2, 1), (40, 2, 1), (42, 2, 1), (44, 2, 1), (46, 2, 1)]
def gatherFields : List (Nat × Nat × Nat) := [(24, 6, 0x1000), (34, 4, 64), (38, 4, 1), (42, 4, 4), (46, 4, 4), (50, 4, 1)]
def collFields (op coll h : Nat) (fp32 : Bool) : List (Nat × Nat × Nat) :=
  [(24, 1, op), (25, 1, 0xFF), (26, 1, if fp32 then 0x1F else 0x0F), (27, 1, if op < 3 then 1 else 0), (28, 2, coll), (38, 2, h),
    (44, 4, 0x8000), (48, 4, 16)]

theorem test_meets_computing : [desc 1 0 0 0 [(28, 4, 0x1000), (32, 4, 0x2000), (36, 2, 1), (38, 2, 1), (40, 4, 32), (44, 1, 0x33)],
    desc 3 0 0 0 [(28, 4, 0x1000), (32, 4, 1), (40, 4, 1)], desc 2 0 0 0xFFFF [(40, 4, 1), (44, 4, 1)],
    desc 2 0 0 0xFFFF [(24, 1, 0x5B), (40, 4, 1), (44, 4, 1), (50, 1, 2)], desc 10 0 0 0xFFFF [(24, 1, 3), (32, 2, 256)],
    desc 17 0 0 0xFFFF [(24, 1, 1), (32, 4, 1), (36, 4, 8)]].map (descRuns upstream) = [true, true, true, true, true, true] := by
  decide +kernel
theorem test_meets_updates : [desc 2 6144 2 0 [(24, 1, 0xC1), (25, 1, 1), (32, 4, 0x1000), (36, 4, 0x2000), (40, 4, 1), (44, 4, 1),
    (52, 2, 4095)], desc 16 6144 2 0 []].map (descRuns updating) = [true, true] := by
  decide +kernel
theorem test_meets_moving : [desc 4 0 0 0xFFFF dmaFields, desc 5 0 0 0xFFFF dmaFields,
    desc 6 0 0 0xFFFF [(24, 6, 0x1000), (34, 1, 2), (36, 2, 1), (38, 2, 1), (40, 2, 1), (42, 2, 1), (44, 2, 1), (46, 2, 0x4688)],
    desc 7 0 0 0xFFFF gatherFields, desc 8 0 0 0xFFFF gatherFields, desc 9 0 0 0xFFFF [(24, 1, 15), (34, 6, 0x1000), (40, 8, 64)],
    desc 14 0 0 0xFFFF [], desc 15 0 0 0xFFFF [(24, 4, 64)], desc 13 0 0 0xFFFF [(24, 1, 0x1F)]].map (descRuns upstream) =
      [true, true, true, true, true, true, true, true, true] ∧ 15 < 2 * (upstream.stacksOf 0).length := by
  decide +kernel
theorem test_meets_fabric : upstream.chip.profile = 0 ∧ [desc 11 0 0 0xFFFF [(24, 1, 9), (30, 2, 1), (36, 4, 240)],
    desc 12 0 0 0xFFFF [(24, 1, 9), (30, 2, 1), (36, 4, 1)], desc 18 0 0 0xFFFF (collFields 0 0 0 true),
    desc 18 0 0 0xFFFF (collFields 1 0 1 true), desc 18 0 0 0xFFFF (collFields 2 0 0 true), desc 18 0 0 0xFFFF (collFields 3 1 0 false),
    desc 18 0 0 0xFFFF (collFields 4 1 0 false)].map (descRuns upstream) = [true, true, true, true, true, true, true] := by
  decide +kernel
theorem test_meets_serving : serving.chip.profile ≠ 0 := by decide

/-- A chip whose port 0 leads to the chip at t = 1. -/
def plane : State := { withImage .loaded with
  place := { training.place with coord := some ⟨0, 0, 0, 0, [2, 1, 1, 1], [2, 1, 1, 1], 0, [0, 0, 0]⟩ }
  train := { ready.train with image := some { image0 with shape := [2, 1, 1, 1], ports := ⟨true, 8, 100⟩ :: List.replicate 9 ⟨false, 0, 0⟩ } }
  ports := { Port.reset with st := 2, lanes := 8 } :: List.replicate 9 Port.reset }

theorem test_meets_sendEntryStart : (let s : State := { plane with dma := (sending 1).dma }
    let e : SendEntry := ⟨0, true, 7, 0x8000, 0, 0x1000, 448, false⟩
    let d := s.dma.send
    let n : DmaQueue := { d with head := BitVec.ofNat 32 ((d.head.toNat + 1) % max d.size.toNat 1) }
    let u : State := { s with dma := { s.dma with send := n, sendNext := s.dma.sendNext + 1, sendJobs := [(s.dma.sendNext, e)] } }
    d.st == 1 && d.head != d.tail && s.dma.sendJobs.length < 256 && s.bgp.streams.length < 4096 && u.planeOn && !u.sendBad e) = true := by
  decide +kernel

/-! ### Ports and cells -/

/-- Port 9 of a timed chip, in a state, training in a stage. -/
def link (st stage : Nat) : State := (timed .empty).onPort 9 (fun p => { p with
  st := st, lanes := 8, pinned := 100, train := if stage = 0 then none else some ⟨stage, 8, 160, false, false, false, 0, 0, []⟩ })

theorem test_meets_linkTraining : [1, 5].all (fun k => ((link 1 k).port 9).train.any (fun t => t.stage == k)) = true ∧
    [0, 1, 2, 3].all (fun st => ((link st 0).port 9).st == st && 7 < ((link st 0).port 9).lanes) = true := by
  decide +kernel
theorem test_meets_linbyGroup : (let s := link 2 0
    let r := groupCheck 9 7 (nth (s.check 9).lanes 7 LaneRx.reset) 0
    (s.port 9).st == 2 && (s.port 9).train.isNone && 7 < (s.port 9).lanes && (!r.2.locked || r.2.bad < 3)
      && (List.replicate 8 s.ownTick).length ≤ 8 && 8 < (List.replicate 9 s.ownTick).length) = true := by
  decide +kernel

/-- A step whose port 9 is ACTIVE in the slice and whose slot map holds an entry of kind `kind` for slot 5 of phase 0. -/
def slotted (kind : Nat) : State :=
  let i : Image := { image0 with
    ports := List.replicate 9 ⟨false, 0, 0⟩ ++ [⟨true, 8, 100⟩]
    scheds := [{ sched0 with phases := [⟨0, 0, 4, 0, 5⟩, ⟨2, 4, 2, 0, 0⟩, ⟨3, 6, 2, 0, 0⟩], slots := [(9, [⟨0, 0, 5, 3, kind, 0xFF, 0⟩])] }] }
  ((training.onTrain (fun t => { t with image := some i, run := some { run1 with begun := 1 } })).onPort 9 (fun p =>
    { p with st := 2, lanes := 8, pinned := 100, inSlice := true })).onTime (fun t => { t with cycle := 5 * 1024 / 480 })

theorem test_meets_slotDeparture : ((slotted 3).egressEntry 9 0 5).isSome ∧ ((slotted 3).port 9).st = 2 ∧
    ((slotted 3).port 9).train = none ∧ 5 < ((slotted 3).port 9).slots ∧ (slotted 3).time.valid ∧
    (slotted 3).time.cycle = 5 * 1024 / max ((slotted 3).port 9).slots 1 ∧ (slotted 1).egressEntry 9 0 5 = none := by
  decide +kernel
theorem test_meets_slotDeparture_others : (let s := (slotted 1).onPort 9 (fun p => { p with ctl := [⟨idleCell, 0, none⟩] })
    (((s.port 9).ctl.find? (fun c => decide (c.notBefore ≤ s.time.cyc))).isSome)) = true ∧
    (let s := (slotted 1).onPort 9 (fun p => { p with bg := [(5, ⟨zeros 256, 0⟩)] })
    s.planeOn && (s.port 9).ctl.isEmpty && ((s.port 9).bg.find? (fun x => x.1 == 5)).isSome) = true ∧
    ((slotted 1).port 9).ctl = [] ∧ ((slotted 1).port 9).bg = [] := by
  decide +kernel
theorem test_meets_beaconDeparture : (let s := slotted 3
    9 < s.ports.length && 9 < s.checks.length && (match s.egressEntry 9 0 5, s.phaseAt 0 with
      | some e, some (k, ph) => k == 0 && e.kind == 3 && e.tick == 0 && e.slot == ph.beacon
      | _, _ => false)) = true := by
  decide +kernel

/-- The cycle at which slot 5 of tick 0 of port 9 is released. -/
def released (kind : Nat) : State := (slotted kind).onTime (fun t => { t with cycle := 5 * 1024 / 480 + 100 })

/-- The beacon's cell as the neighbor sends it (Table 10.11). -/
def beaconCell : List Byte := schedCell 0 0 3 0 0 0 (zeros 240) 1

set_option maxRecDepth 10000 in
theorem test_meets_scheduledCellReceive : (let s := released 3
    s.time.valid && 5 < (s.port 9).slots && (s.port 9).pinned ≤ s.fabricCycle && (s.fabricCycle - (s.port 9).pinned) / 1024 == 0
      && (s.fabricCycle - (s.port 9).pinned) % 1024 == 5 * 1024 / max (s.port 9).slots 1 && (match s.ingressEntry 9 0 5, s.phaseAt 0 with
      | some e, some (k, ph) => e.isBeacon ph && s.cellOk 9 k 0 e beaconCell && (s.runAt 0).isSome
      | _, _ => false)) = true := by
  decide +kernel
set_option maxRecDepth 10000 in
theorem test_meets_linkControl : (let s := released 1
    (s.port 9).st == 2 && (s.ingressEntry 9 ((s.fabricCycle - (s.port 9).pinned) / 1024) 5).isSome
      && (s.phaseAt ((s.fabricCycle - (s.port 9).pinned) / 1024)).isSome && (s.runAt ((s.fabricCycle - (s.port 9).pinned) / 1024)).isSome
      && (s.ingressEntry 9 ((s.fabricCycle - (s.port 9).pinned) / 1024) 6).isNone) = true ∧ ((link 1 3).port 9).st = 1 ∧
    [1, 2, 3, 4].all (fun k => cellCheckOk (ctlCell k (zeros 240)) && cellKind (ctlCell k (zeros 240)) == 3
      && fieldAt (ctlCell k (zeros 240)) 1 1 == k) = true ∧ cellCheckOk (zeros 256) = false ∧ fieldAt (ctlCell 5 []) 1 1 = 5 := by
  decide +kernel

/-! ### The background plane -/

/-- A packet from the chip at t = 1 to this one, or on to it, with a class. -/
def pkt (dst cls hops epoch : Nat) : List Byte := packet ⟨false, dst, 0x8000, cls, 1, 0, 0, 2, 0x1000, 224, 0, 0, hops, epoch⟩ (zeros 224)

theorem test_meets_background : (plane.planeOn && headOk (pkt 0 1 0 0) && !headOk (zeros 256) && (headOf (pkt 0 1 0 9)).epoch != plane.place.epoch
    && !plane.unroutable 0x8000 && plane.unroutable 0x10000 && plane.selfChip == 0 && (headOf (pkt 0x8000 1 1023 0)).hops == 1023
    && plane.bgp.eject.length < 4096 && (plane.port 0).st == 2 && (plane.port 9).st != 2) = true ∧ ready.planeOn = false := by
  decide +kernel
theorem test_meets_routerTick : ready.bgp.lastTick = none ∧ plane.bgp.lastTick ≠ some 0 := by decide +kernel
theorem test_meets_ejectionWrite : (let t : Track := ⟨0x8000, 1, 1, 2, 1, 0, 1, 0, 2, none, 0⟩
    let s := plane.onBgp (fun b => { b with eject := [⟨pkt 0 1 0 0, 0⟩], tracker := [t] })
    s.bgp.eject.head?.any (fun x => (headOf x.bytes).cls == 1 && s.track? (headOf x.bytes).src (headOf x.bytes).stream == some t)
      && t.st != 1) = true := by
  decide +kernel

/-- A plane with a tracker entry, a stream with two packets in flight and a fetch, all long ago. -/
def old (again : List Nat) (sent : Nat) (f : Fetch) : State := { plane.onTime (fun t => { t with cyc := 16777216 }) with
  bgp := { plane.bgp with
    tracker := [⟨0x8000, 1, 1, 2, 1, 0, 1, 0, 2, some 0, 0⟩]
    streams := [⟨0x8000, 4, 1, 0, 2, 0, 448, 0, .host 0, 2, 0, 0, 0, [(1, 0, sent)], 0, again⟩]
    fetches := [f] } }

theorem test_meets_timers : (let s := old [] 7 ⟨0x8000, 6, 0, 64, 0, 0, false, 0, 0, 0, false⟩
    s.ownTick == 16384 && (s.track? 0x8000 1).any (fun t => t.ackFrom == some 0 && t.st != 1 && t.last + 16384 ≤ s.ownTick)
      && (s.stream? 0x8000 4).any (fun x => (x.flight.find? (fun g => g.1 == 1)).any (fun f => f.2.1 + 16384 ≤ s.ownTick && f.2.2 < 8)
        && !x.again.contains 1)
      && (s.bgp.fetches.find? (fun f => f.stream == 6 && !f.toSend && f.reason == 0 && !f.answered
        && decide (f.sentAt + 16384 ≤ s.ownTick))).isSome) = true := by
  decide +kernel
theorem test_meets_timers_last : ((old [] 8 ⟨0x8000, 6, 0, 64, 0, 0, false, 0, 0, 1, false⟩).stream? 0x8000 4).any (fun x =>
      (x.flight.find? (fun g => g.1 == 1)).any (fun f => 8 ≤ f.2.2)) = true ∧
    [1, 2].all (fun r => (let s := old [] 8 ⟨0x8000, 6, 0, 64, 0, 0, false, 0, 0, r, false⟩
      (s.bgp.fetches.find? (fun f => f.stream == 6 && f.reason != 0 && decide (f.sentAt + 1024 ≤ s.ownTick))).any (fun f =>
        f.reason == r))) = true := by
  decide +kernel
theorem test_meets_shiftRetry : [(true, 0), (false, 7), (false, 6)].all (fun (x : Bool × Nat) =>
    (let q : Request := ⟨0, 0, 1, 0x8000, 1, 1, x.2, 0, x.1, [], []⟩
    let t := shifting.onTime (fun t => { t with cyc := 16777216 })
    let s : State := { t with shift := shifting.shift.map (fun h => { h with request := some q }) }
    s.shift.any (fun h => h.request == some q) && q.since + 16384 ≤ s.ownTick && q.notReady == x.1 && q.tries == x.2)) = true := by
  decide +kernel

/-- A hamper of one page that drains to a staging area. -/
def draining : State := (withImage .parked).onSnap (fun n => { n with
  hamper := some ⟨true, 0, zeros 256, [], [], [(0, 0)], [], false, none, 0, some 0x1000, false, false, false, 0, 0, 1, none⟩ })

theorem test_meets_hamperDrain : draining.snap.hamper.any (fun h => h.draining && h.pages.findIdx? (fun p => p.1 == 0) == some 0
    && h.pages[0]? == some (0, 0) && h.dir.isEmpty && h.flashSlot.isNone) = true := by
  decide +kernel

/-! ### Serving plots -/

/-- A serving plot that runs with a post that is two ticks old. -/
def posted : State := plotIs (serving.onPlot 0 (fun p => { p with time := 2048, posts := [0], pending := 1 })) .running

theorem test_meets_passStart : (posted.chip.profile != 0 && (posted.plots[0]?).any (fun p => p.st == .running && p.pass.isNone
    && p.time % 1024 == 0 && p.posts.head?.any (fun t => t + 2 ≤ p.time / 1024))) = true := by
  decide +kernel
theorem test_meets_passEnd : (let s := posted.onPlot 0 (fun p => { p with pass := some ⟨0, true, true, []⟩, posts := [] })
    let s := s.onTime (fun t => { t with cyc := 4096 })
    (s.plots[0]?).any (fun p => p.pass.any (fun x => x.began + p.period * 1024 ≤ s.time.cyc))) = true := by
  decide +kernel
theorem test_meets_passPost : (posted.spaceOf 1 == some 0 && (posted.plots[0]?).any (fun p => p.st == .running
    && p.pending + 65534 ≤ 65535 && 65535 < p.pending + 65535)) = true := by
  decide +kernel

/-! ### Resets, supply, heat and flash -/

theorem test_meets_chipReset : ready.chip.held.power = false ∧ ready.chip.held.trip = false ∧
    ({ ready.chip with resetDue := some true } : Chip).resetDue = some true ∧
    (let s : State := { ready.onTime (fun t => { t with cyc := 16000000 }) with power := { ready.power with dip := some ⟨3, 600, 0, none⟩ } }
    s.power.dip.any (fun d => d.began + 10 * Config.cyclesPerMs ≤ s.time.cyc)) = true := by
  decide +kernel
theorem test_meets_straps : ({ power := false, pin := true, trip := false } : Held).pin ∧ 3 < 4 ∧ 63 < 64 ∧ ready.chip.held.pin = false := by
  decide
theorem test_meets_bootComplete : State.reset.chip.st = .boot ∧ State.reset.chip.held = ⟨false, false, false⟩ ∧
    setpointMv ≤ setpointMv + 10 ∧ (⟨true, setpointMv, true, false⟩ : BootInfo).bank0Ok ∧
    (⟨false, 0, true, true⟩ : BootInfo).avsAnswers = false :=
  ⟨rfl, rfl, Nat.le_add_right _ _, rfl, rfl⟩
theorem test_meets_dips : ready.chip.held = ⟨false, false, false⟩ ∧ ready.power.dip = none ∧
    (training.train.run = some run1 ∧ training.chip.st = .ready ∧ training.chip.profile = 0 ∧ training.voted = false) ∧
    ({ ready.power with dip := some ⟨2, 700, 0, none⟩ } : Power).dip = some ⟨2, 700, 0, none⟩ := by
  decide +kernel
theorem test_meets_samples : ready.power.sensors.length = 24 ∧ (List.replicate 24 (8499 : Int)).length = 24 ∧
    (∀ x ∈ ready.power.sensors, x.st = 0) ∧ (List.range 24).all (fun i => (8499 : Int) < warnLevel i) = true := by
  decide +kernel
theorem test_meets_flash : ({ ready.host with flState := 1 } : HostSide).flState = 1 ∧ ready.chip.st = .ready ∧ 32767 < 32768 ∧
    [0, 2, 3].all (fun u => [false, true].all (fun r => (⟨1, 16, 1, [], r, 1, u, 0⟩ : Nvme).use_ == u)) = true ∧
    ({ ready.host with flState := 2 } : HostSide).flState ≠ 0 ∧
    ({ ready.host with nvme := [⟨1, 16, 1, [], false, 1, 0, 0⟩] } : HostSide).nvme ≠ [] := by
  decide
theorem test_meets_vfFlr : 4 < ready.dma.queues.length ∧ ready.aq.pairs.length = 8 ∧ [none, some (⟨copy2k 3, 0, stDone, []⟩ : CopyJob)].all
    (fun j => (let s := (serving.onQ 1 (fun d => { d with st := 1 })).setCopyJob 1 j
      (s.dmaQ 1).st == 1 && s.copyJob? 1 == j)) = true := by
  decide +kernel
theorem test_meets_tap : TapInstr.intest ∈ [TapInstr.extest, .sample, .intest] ∧ TapInstr.other 5 ∉ [TapInstr.extest, .sample, .intest] ∧
    TapInstr.other 5 ≠ .idcode := by
  decide

/-! ### The whole machine -/

theorem test_inv_reset_step : (∃ t, step { ready with pending := [.routerTick] } = .next t) := ⟨_, rfl⟩
theorem test_meets_cycles : ready.pending = [] ∧ ready.time.valid = false ∧ (timed .empty).time.valid ∧ 0 < 1023 ∧
    training.train.run.bind (·.due) = none ∧ (let r : Run := { run1 with due := some (VoteWord.neutral, 1, false) }
    let s := training.onTrain (fun t => { t with run := some r })
    s.train.run == some r && r.passed.isNone && (match step s with
      | .next t => 1 ≤ t.fabricCycle
      | _ => false)) = true := by
  decide +kernel
theorem test_meets_badOpcode : (let c := slot 0xFFFF 0 [] 0
    ready.takeable c && !(ready.take c).sidebandBusy && crcOk c 0xFFFF && c.flags &&& 0xFC == 0 && !tableOpcodes.contains 0xFFFF
      && !crcOk { c with crc := c.crc + 1 } 0xFFFF) = true ∧ State.reset.takeable (slot 0xFFFF 0 [] 0) = false := by
  decide +kernel
theorem test_meets_sideband : (let c := slot 0x0101 0xFF [] 256
    let late := { ready with chip := { ready.chip with restart := some (0, true) } }
    let four : Aqvel → Aqvel := fun a => { a with arrived := (List.range 4).map (fun i => ({ c with tag := BitVec.ofNat 16 i }, 0)) }
    let five : Aqvel → Aqvel := fun a => { four a with arrived := (four a).arrived ++ [(c, 0)] }
    let owing := withJob ready 0x0402 { slot 0x0402 0 [] 0 with flags := 2 }
    let fenced := { c with flags := 2 }
    !late.takeable c && !late.sidebandBusy && (late.aq.arrived.all (fun a => a.1 != c)) && late.aq.eid.isSome
      && !owing.takeable fenced && (owing.onAq four).sidebandBusy && owing.chip.st != .boot && owing.chip.restart.isNone
      && ((late.onAq five).aq.arrived.any (fun a => a.1 == c)) && ((ready.onAq five).take c).sidebandBusy
      && (ready.onAq five).takeable c) = true ∧
    (State.reset.takeable { slot 0x0101 0xFF [] 256 with src := .pair 0 }) = false ∧ State.reset.aq.eid = none := by
  decide +kernel
theorem test_meets_register : 0x50000 / 0x10000 ∈ [4, 5, 6] ∧ 0 < 4 := by decide
theorem test_meets_frame : (∃ t, exec (.getInfo (slot 0x0101 0xFF [] 256)) ready = .next t) ∧
    (∃ t, exec (.hbmRefreshWindow 7) ready = .next t) := ⟨⟨_, rfl⟩, ⟨_, rfl⟩⟩

/-! ### Encodings and codes -/

theorem test_meets_header : (2 ^ 20 - 1 < 2 ^ 20) ∧ 255 < 256 ∧ 1023 < 1024 ∧ 15 < 16 := by decide
theorem test_meets_placement : [4, 5].length = 2 ∧ [4, 5].Nodup ∧ (∀ x ∈ [4, 5], x < 8) ∧ hbmBytes [4, 5] - 1 < hbmBytes [4, 5]
    ∧ 2 ∣ 6 ∧ 32 ∣ 64 ∧ 2 ^ 64 - 1 < 2 ^ 64 := by
  decide +kernel
theorem test_meets_oneByte : (Mem.zero.putErr 67 0x80).errOf 0 = errAt 67 0x80 := by decide +kernel
theorem test_meets_partialWrite : (let m := (Mem.zero.setCw 0 (zeros 64) foundPattern)
    m.caseOf 0 == .found && (Mem.zero.putErr 0 1).caseOf 0 == .corrected (errAt 0 1) && Mem.zero.caseOf 0 == .good
      && ((List.replicate 63 (some ((7 : Byte), false)) ++ [none]).length == 64)) = true := by
  decide +kernel

/-- Three byte errors whose first two syndromes are zero, so that no two errors explain them. -/
def threeErrors : List Byte := zeros 65 ++ [3, 5, 6]

theorem gfMul_zero (a : Byte) : gfMul a 0 = 0 ∧ gfMul 0 a = 0 := by
  have h : ∀ (n : Nat) (a : Byte), gfMulAux n a 0 = 0 ∧ gfMulAux n 0 a = 0 := by
    intro n
    induction n with
    | zero => intro a; exact ⟨rfl, rfl⟩
    | succ n ih =>
      intro a
      have e : gfDouble 0#8 = 0#8 := by decide
      exact ⟨by simpa [gfMulAux] using (ih _).1, by simpa [gfMulAux, e] using (ih _).2⟩
  exact h 8 a
theorem pair_zero (i j : Nat) : pairValues 0 0 i j = (0, 0) := by
  unfold pairValues
  dsimp only
  rw [(gfMul_zero _).1, show ((0 : Byte) ^^^ 0) = 0 from rfl, (gfMul_zero _).2, show ((0 : Byte) ^^^ 0) = 0 from rfl]
theorem set_zeros (n i : Nat) : (zeros n).set i 0 = zeros n := by
  unfold zeros
  generalize (0 : Byte) = z
  apply List.ext_getElem
  · simp
  · intro k h1 h2
    simp
theorem no_two (w : List Byte) (h0 : nth w 0 0 = 0) (h1 : nth w 1 0 = 0) (hw : syndromes (zeros 68) ≠ w) : twoErrors w = none := by
  unfold twoErrors
  rw [h0, h1, List.findSome?_eq_none_iff]
  intro i _
  rw [List.findSome?_eq_none_iff]
  intro j _
  dsimp only
  rw [pair_zero, set_zeros, set_zeros, if_neg]
  rw [beq_iff_eq]
  exact hw
theorem test_threeErrors : readCase threeErrors = .uncorrectable := by
  have a : nth (syndromes threeErrors) 0 0 = 0 := by decide +kernel
  have b : nth (syndromes threeErrors) 1 0 = 0 := by decide +kernel
  have h : syndromes threeErrors ≠ [0, 0, 0, 0] := by decide +kernel
  have hf : syndromes threeErrors ≠ syndromes foundPattern := by decide +kernel
  have hc : syndromes threeErrors ≠ syndromes carriedPattern := by decide +kernel
  have hz : syndromes (zeros 68) ≠ syndromes threeErrors := by decide +kernel
  unfold readCase
  generalize syndromes threeErrors = w at *
  generalize syndromes foundPattern = f at *
  generalize syndromes carriedPattern = c at *
  have o : oneError w = none := by
    unfold oneError
    dsimp only
    rw [a]; rfl
  dsimp only
  rw [o, no_two w a b hz, beq_false_of_ne h, beq_false_of_ne hf, beq_false_of_ne hc]
  rfl

/-! ### A whole image and a whole program that pass every check of Table 3.14 -/

theorem imageBad_none {t : Target} {b : List Byte} (hh : headerBad t b = none) (hl : lengthBad t b = none)
    (hd : directoryBad t b (directory b) = none)
    (hs : (List.range (directory b).length).findSome? (sectionBad t b (parseImage b) (directory b)) = none)
    (hc : crossBad t b (parseImage b) (directory b) = none) : imageBad t b = none := by
  unfold imageBad
  simp only [firstBad, List.findSome?, hh, hl, hd, hs, hc, id]
theorem test_image_hash : lengthBad trainTarget imageBytes = none := by decide +kernel
theorem test_image_directory : headerBad trainTarget imageBytes = none ∧
    directoryBad trainTarget imageBytes (directory imageBytes) = none := by decide +kernel
theorem test_image_sections : (List.range (directory imageBytes).length).findSome?
    (sectionBad trainTarget imageBytes (parseImage imageBytes) (directory imageBytes)) = none := by decide +kernel
theorem test_image_cross : crossBad trainTarget imageBytes (parseImage imageBytes) (directory imageBytes) = none := by
  decide +kernel
theorem test_image_good : imageBad trainTarget imageBytes = none :=
  imageBad_none test_image_directory.1 test_image_hash test_image_directory.2 test_image_sections test_image_cross
theorem test_program_good : imageBad ⟨true, 3, 3, 2⟩ programBytes = none := by decide +kernel
theorem test_meets_loadImageValidationEnd_mismatch : ((validating ready.place imageBytes).job? 0x0401).isSome ∧
    (validating ready.place imageBytes).train.loading = some imageBytes ∧ imageBad trainTarget imageBytes = none ∧
    ((validating ready.place imageBytes).fitBad (parseImage imageBytes)).isSome :=
  ⟨by decide +kernel, rfl, test_image_good, by decide +kernel⟩
theorem test_meets_loadImageValidationEnd : ((validating training.place imageBytes).job? 0x0401).isSome ∧
    (validating training.place imageBytes).train.loading = some imageBytes ∧ imageBad trainTarget imageBytes = none ∧
    (validating training.place imageBytes).fitBad (parseImage imageBytes) = none :=
  ⟨by decide +kernel, rfl, test_image_good, by decide +kernel⟩

end Sys2Proof.Tests
end

/-! R87: a base of 2^b turns the last step of the digit XOR into a bijection of the low digit, so a data address can be
recovered from its place, and an aligned run of 2^b groups meets each stack (channel) once. -/
namespace Sys2Proof.Machine

@[simp] theorem xorDigits_zero (k fuel : Nat) : xorDigits k fuel 0 = 0 := by
  cases fuel <;> rfl

/-- The lowest digit comes off by XOR; the model's test for 0 makes no difference. -/
theorem xorDigits_succ (k fuel x : Nat) : xorDigits k (fuel + 1) x = (x % k) ^^^ xorDigits k fuel (x / k) := by
  by_cases hx : x = 0
  · simp [hx]
  · rw [xorDigits, if_neg hx]

theorem xorDigits_lt (b fuel x : Nat) : xorDigits (2 ^ b) fuel x < 2 ^ b := by
  induction fuel generalizing x with
  | zero => exact Nat.two_pow_pos b
  | succ fuel ih =>
    rw [xorDigits_succ]
    exact Nat.xor_lt_two_pow (Nat.mod_lt _ (Nat.two_pow_pos b)) (ih _)

/-- Fuel for every binary digit of `x` is enough in any base of at least 2: more changes nothing. -/
theorem xorDigits_fuel_succ {k : Nat} (hk : 2 ≤ k) {fuel x : Nat} (hx : x < 2 ^ fuel) :
    xorDigits k (fuel + 1) x = xorDigits k fuel x := by
  induction fuel generalizing x with
  | zero =>
    obtain rfl : x = 0 := by simpa using hx
    simp
  | succ fuel ih =>
    have hdiv : x / k < 2 ^ fuel := by
      rw [Nat.div_lt_iff_lt_mul (by omega)]
      calc x < 2 ^ fuel * 2 := by rwa [← Nat.pow_succ]
        _ ≤ 2 ^ fuel * k := Nat.mul_le_mul_left _ hk
    rw [xorDigits_succ, ih hdiv, ← xorDigits_succ]

/-- R87's loop as a recursion, for every group index of a 64-bit address. -/
theorem xorDigits_loop {k x : Nat} (hk : 2 ≤ k) (hx : x < 2 ^ 64) :
    xorDigits k 64 x = if x = 0 then 0 else (x % k) ^^^ xorDigits k 64 (x / k) := by
  have hdiv : x / k < 2 ^ 64 := (Nat.div_le_self x k).trans_lt hx
  rw [← xorDigits_fuel_succ hk hx, xorDigits]

/-- In an aligned run the group's place in the run is its low digit. -/
theorem xorDigits_run {k g i : Nat} (hg : k ∣ g) (hi : i < k) (fuel : Nat) :
    xorDigits k (fuel + 1) (g + i) = i ^^^ xorDigits k fuel (g / k) := by
  obtain ⟨m, rfl⟩ := hg
  rw [xorDigits_succ, Nat.mul_add_mod, Nat.mod_eq_of_lt hi, Nat.mul_add_div (by omega), Nat.div_eq_of_lt hi,
    Nat.add_zero, Nat.mul_div_cancel_left _ (by omega)]

/-- An aligned run of `2 ^ b` groups meets each value of the digit XOR once. -/
theorem xorDigits_run_covers {b g s : Nat} (hg : 2 ^ b ∣ g) (hs : s < 2 ^ b) (fuel : Nat) :
    ∃ i, i < 2 ^ b ∧ xorDigits (2 ^ b) (fuel + 1) (g + i) = s ∧
      ∀ j, j < 2 ^ b → xorDigits (2 ^ b) (fuel + 1) (g + j) = s → j = i := by
  have hi : s ^^^ xorDigits (2 ^ b) fuel (g / 2 ^ b) < 2 ^ b := Nat.xor_lt_two_pow hs (xorDigits_lt _ _ _)
  refine ⟨_, hi, ?_, fun j hj hjs => ?_⟩
  · rw [xorDigits_run hg hi, Nat.xor_xor_cancel_right]
  · rw [← hjs, xorDigits_run hg hj, Nat.xor_xor_cancel_right]

/-- The model's inverse of R87 finds the group index again from the place of an address. -/
theorem groupAddr_place {b a : Nat} (hb : 0 < b) (ha : a < 2 ^ 64) :
    groupAddr (2 ^ b) (place a (2 ^ b)).1 (place a (2 ^ b)).2.1 = a / 1024 := by
  have hk : 2 ≤ 2 ^ b := Nat.le_self_pow hb.ne' 2
  have hg : a / 1024 / 2 ^ b < 2 ^ 63 := by
    have := Nat.div_le_self (a / 1024) (2 ^ b)
    omega
  simp only [groupAddr, place]
  rw [xorDigits_fuel_succ hk hg, xorDigits_succ, Nat.xor_xor_cancel_right, Nat.div_add_mod']

theorem place_injective {b x y : Nat} (hb : 0 < b) (hx : x < 2 ^ 64) (hy : y < 2 ^ 64)
    (h : place x (2 ^ b) = place y (2 ^ b)) : x = y := by
  have hdiv : x / 1024 = y / 1024 := by rw [← groupAddr_place hb hx, h, groupAddr_place hb hy]
  have hmod : x % 1024 = y % 1024 := congrArg (·.2.2) h
  omega

theorem nth_inj_of_nodup {l : List Nat} (hl : l.Nodup) {i j d : Nat} (hi : i < l.length) (hj : j < l.length)
    (h : nth l i d = nth l j d) : i = j := by
  rw [nth, nth, List.getD_eq_getElem _ _ hi, List.getD_eq_getElem _ _ hj] at h
  exact (hl.getElem_inj_iff).mp h

theorem hbmKey_eq (ks : List Nat) (a : Nat) :
    hbmKey ks a = (nth ks (place a ks.length).1 0 * Config.groupsPerStack + (place a ks.length).2.1) * 1024 +
      (place a ks.length).2.2 := rfl

/-- An address below a plot's data bytes has its group within its stack. -/
theorem place_group_lt {ks : List Nat} {a : Nat} (ha : a < hbmBytes ks) :
    (place a ks.length).2.1 < Config.groupsPerStack := by
  apply Nat.div_lt_of_lt_mul
  exact Nat.div_lt_of_lt_mul (by rwa [hbmBytes, Nat.mul_comm] at ha)

/-- A key names its place: stack, group and byte are its digits. -/
theorem place_eq_of_hbmKey_eq {b : Nat} {ks : List Nat} (hlen : ks.length = 2 ^ b) (hnd : ks.Nodup) {x y : Nat}
    (hx : x < hbmBytes ks) (hy : y < hbmBytes ks) (h : hbmKey ks x = hbmKey ks y) :
    place x ks.length = place y ks.length := by
  have stack_lt (a : Nat) : (place a ks.length).1 < ks.length := by
    rw [hlen]
    exact xorDigits_lt b 64 _
  have hqx := place_group_lt hx
  have hqy := place_group_lt hy
  have hrx : (place x ks.length).2.2 < 1024 := Nat.mod_lt _ (by decide)
  have hry : (place y ks.length).2.2 < 1024 := Nat.mod_lt _ (by decide)
  rw [hbmKey_eq, hbmKey_eq] at h
  simp only [Config.groupsPerStack] at h hqx hqy
  have hstack : (place x ks.length).1 = (place y ks.length).1 :=
    nth_inj_of_nodup hnd (stack_lt x) (stack_lt y) (d := 0) (by omega)
  rw [hstack] at h
  exact Prod.ext hstack (Prod.ext (by omega) (by omega))

theorem hbmKey_injective {b : Nat} (hb : 0 < b) {ks : List Nat} (hlen : ks.length = 2 ^ b) (hnd : ks.Nodup)
    (hbytes : hbmBytes ks ≤ 2 ^ 64) {x y : Nat} (hx : x < hbmBytes ks) (hy : y < hbmBytes ks)
    (h : hbmKey ks x = hbmKey ks y) : x = y := by
  refine place_injective hb (hx.trans_le hbytes) (hy.trans_le hbytes) ?_
  rw [← hlen]
  exact place_eq_of_hbmKey_eq hlen hnd hx hy h

theorem place_group_start (g k : Nat) : (place (1024 * g) k).1 = xorDigits k 64 g := by
  rw [place, Nat.mul_div_cancel_left _ (by decide)]

/-- The numbers of stacks that a plot can own, as powers of two. -/
theorem stackCount_eq_two_pow {k : Nat} (hk : k = 2 ∨ k = 4 ∨ k = 8) : ∃ b, 0 < b ∧ k = 2 ^ b := by
  obtain rfl | rfl | rfl := hk
  · exact ⟨1, by decide⟩
  · exact ⟨2, by decide⟩
  · exact ⟨3, by decide⟩

/-- Settles O57: the low digit is the XOR of the stack index with the digits above it, so a place gives its address back,
and as it runs over an aligned run the stack (the channel) takes each value once. -/
theorem placesOfDataAddressesAreOneToOne : Obligations.PlacesOfDataAddressesAreOneToOne := by
  refine ⟨fun k ks hk hlen hnd _ => ?_, fun q hq c hc => xorDigits_run_covers (b := 5) hq hc 63,
    fun k x hk hx => xorDigits_loop (by omega) hx, by decide, by decide⟩
  obtain ⟨b, hb, rfl⟩ := stackCount_eq_two_pow hk
  refine ⟨fun a _ => ⟨rfl, by rw [hbmKey_eq, hlen]⟩, fun x y => ?_, fun g hg s hs => ?_⟩
  · have hbytes : hbmBytes ks ≤ 2 ^ 64 := by
      simp only [hbmBytes, Config.groupsPerStack]
      omega
    exact hbmKey_injective hb hlen hnd hbytes
  · simp only [place_group_start]
    exact xorDigits_run_covers hg hs 63

end Sys2Proof.Machine

/-! R241: reception tries its rules one after another, and the first that applies gives the state after. -/
namespace Sys2Proof.Machine

/-- One rule of a chain of rules: where the model's test agrees with the stated condition, it is enough that the outcome of the
rule agrees, and that the rules after it do. -/
theorem ite_eq_next_ite {c d : Prop} [Decidable c] [Decidable d] {x y : Out} {t e : State} (hcond : c ↔ d)
    (hthen : x = .next t) (helse : y = .next e) : (if c then x else y) = .next (if d then t else e) := by
  subst hthen helse
  by_cases hd : d
  · rw [if_pos hd, if_pos (hcond.2 hd)]
  · rw [if_neg hd, if_neg (mt hcond.1 hd)]

/-- Settles O36: the model's tests are the stated conditions, rule by rule in the order of R241, behind the port's state
(Table 10.3) and the plane's switch (R238). Each goal carries the name of what the cell has passed; a full ejection buffer
(R248) is part of the rule for a cell that is for this chip. -/
theorem receptionFollowsItsRules : Obligations.ReceptionFollowsItsRules := by
  rintro port cell fecBad _ s hport rfl
  change execBackgroundCellReceive port cell fecBad s = _
  rw [execBackgroundCellReceive, if_neg (Nat.not_lt.2 hport)]
  refine ite_eq_next_ite bne_iff_ne rfl ?active
  refine ite_eq_next_ite (.of_eq (Bool.not_eq_true' _)) rfl ?planeOn
  refine ite_eq_next_ite .rfl rfl ?fecGood
  refine ite_eq_next_ite (.of_eq (Bool.not_eq_true' _)) rfl ?headerGood
  refine ite_eq_next_ite bne_iff_ne rfl ?epochCurrent
  refine ite_eq_next_ite .rfl rfl ?routable
  refine ite_eq_next_ite beq_iff_eq rfl ?elsewhere
  exact ite_eq_next_ite beq_iff_eq rfl rfl

end Sys2Proof.Machine

/-! R383: the detail and the state block of GET_STATE, and its answers without and with an extended buffer. -/
namespace Sys2Proof.Machine

/-- The fields of the detail side by side, the plot states of bits [23:8] each at its own weight (Table 15.10). -/
theorem State.stateDetail_fields (u : State) :
    u.stateDetail = u.chip.st.code + 16 * u.chip.profile + 64 * b2n u.flash.suspect + 128 * b2n u.time.valid
      + 256 * u.plotCode 0 + 4096 * u.plotCode 1 + 65536 * u.plotCode 2 + 1048576 * u.plotCode 3
      + 16777216 * (u.place.epoch % 256) := by
  rw [State.stateDetail]
  omega

/-- The block with 0 for the recovery mode of no image and for the code of no hamper (Table 15.10). -/
theorem stateBlock_fields (u : State) :
    stateBlock u = leBytes 8 u.train.committed ++ leBytes 1 u.train.variant ++ leBytes 1 (u.train.image.elim 0 (·.mode))
      ++ leBytes 2 u.train.absentLast
      ++ leBytes 1 (b2n u.train.carry + 2 * b2n u.train.satAccept + 4 * b2n u.train.carryPending)
      ++ leBytes 1 (u.snap.hamper.elim 0 (fun h => if h.draining then 2 else 1)) ++ zeros 2
      ++ u.place.map.map (fun b => BitVec.ofNat 8 b) ++ zeros 31 := by
  rw [stateBlock]
  cases u.train.image <;> cases u.snap.hamper <;> rfl

/-- The result of GET_STATE: the committed step, or all ones in profiles 1 to 3 (R383). -/
def State.stateResult (u : State) : Nat := if u.chip.profile = 0 then u.train.committed else 2 ^ 64 - 1

theorem State.stateResult_eq (u : State) :
    u.stateResult = if u.chip.profile == 0 then u.train.committed else ones64 := by
  simp only [State.stateResult, beq_iff_eq]
  rfl

theorem execGetState_noExt {c : Slot} {s u : State} (hu : u = s.taken c) (hsound : Sound s 0x0102 .chip c anywhere = true)
    (hclean : Clean c [(0, 32)] [] = true) (hext : c.extLen = 0) :
    execGetState c s = .next (u.reply 0x0102 c stDone u.stateDetail u.stateResult) := by
  refine aqvel_answers hu hsound (fun _ => rfl) (by simp [hext]) (r := .done u.stateDetail u.stateResult u) ?body
  rw [guarded_clean hclean, State.stateResult_eq]
  exact if_pos (by simp [hext])

theorem execGetState_ext {c : Slot} {s u : State} (hu : u = s.taken c) (hsound : Sound s 0x0102 .chip c anywhere = true)
    (hclean : Clean c [(0, 32)] [] = true) (hext : 64 ≤ c.extLen.toNat) (hreach : u.reaches c = true) :
    execGetState c s =
      .next ((u.extWrite c (slice (stateBlock u) 0 64)).reply 0x0102 c stDone u.stateDetail u.stateResult) := by
  have hne : ¬(c.extLen == 0) = true := by
    intro h
    simp [beq_iff_eq.1 h] at hext
  refine aqvel_answers hu hsound (fun _ => rfl) (by simp [extAtLeast, hext])
    (r := .done u.stateDetail u.stateResult (u.extWrite c (slice (stateBlock u) 0 64))) ?body
  rw [guarded_clean hclean, State.stateResult_eq]
  exact (if_neg hne).trans (writesExt_reaches hreach)

/-- Settles O4: with no extended buffer the taken state is answered as it is, with one of 64 bytes or more the state block is
written first; the result and the detail are the same in both. -/
theorem getStateReturnsTheCommittedStep : Obligations.GetStateReturnsTheCommittedStep := by
  rintro c s u t result detail hu hsound hclean hresult hdetail hext
  change execGetState c s = _
  rw [hresult, hdetail, ← State.stateDetail_fields u]
  rcases hext with ⟨hzero, rfl⟩ | ⟨hlong, hreach, rfl⟩
  · exact execGetState_noExt hu hsound hclean hzero
  · rw [← stateBlock_fields u]
    exact execGetState_ext hu hsound hclean hlong hreach

end Sys2Proof.Machine

/-! R429: the result of READ_THERMAL is the greatest of the readings; the record written leaves the sensors as they were. -/
namespace Sys2Proof.Machine

@[simp] theorem State.extWrite_power (s : State) (c : Slot) (bs : List Byte) : (s.extWrite c bs).power = s.power := by
  unfold State.extWrite
  split
  · exact State.emit_power ..
  · exact State.onAq_power ..

/-- The model's loop over the sensors is the library's maximum of their readings. -/
theorem max?_values_cons (x : Sensor) (l : List Sensor) :
    ((x :: l).map (·.value)).max? = some (hottest (x :: l)) := by
  rw [List.map_cons, List.max?_cons', List.foldl_map]
  rfl

/-- A reading that none exceeds is the highest. -/
theorem hottest_eq_of_forall_le {l : List Sensor} {x : Sensor} (hx : x ∈ l) (hmax : ∀ y ∈ l, y.value ≤ x.value) :
    hottest l = x.value := by
  have hsome : (l.map (·.value)).max? = some x.value :=
    List.max?_eq_some_iff.2 ⟨List.mem_map_of_mem hx, List.forall_mem_map.2 hmax⟩
  cases l with
  | nil => cases hx
  | cons y l =>
    rw [max?_values_cons] at hsome
    exact Option.some.inj hsome

/-- Every sensor's highest reading starts over from its current one (Table 17.11). -/
def State.restartPeaks (s : State) : State :=
  { s with power := { s.power with sensors := s.power.sensors.map (fun y => { y with peak := y.value }) } }

theorem execReadThermal_reaches {c : Slot} {s u : State} (hu : u = s.taken c)
    (hsound : Sound s 0x0A02 .chip c anywhere = true) (hclean : Clean c [(0, 32)] [] = true)
    (hext : 200 ≤ c.extLen.toNat) (hreach : u.reaches c = true) :
    execReadThermal c s = .next ((u.extWrite c (thermalRecord u)).restartPeaks.reply 0x0A02 c stDone 0
      (twos 64 (hottest u.power.sensors))) := by
  refine aqvel_answers hu hsound (fun _ => rfl) (by simp [extAtLeast, hext])
    (r := .done 0 (twos 64 (hottest u.power.sensors)) (u.extWrite c (thermalRecord u)).restartPeaks) ?body
  rw [guarded_clean hclean]
  exact writesExt_reaches hreach

/-- Settles O5: the record goes to the extended buffer and leaves the sensors as they were, so the reading that none exceeds
and the readings that the peaks start over from are those of the taken state. -/
theorem readThermalReturnsTheHighestReading : Obligations.ReadThermalReturnsTheHighestReading := by
  rintro c s u x hu hsound hclean hlong hreach hx hmax
  change execReadThermal c s = _
  rw [execReadThermal_reaches hu hsound hclean hlong hreach, hottest_eq_of_forall_le hx hmax, State.restartPeaks,
    State.extWrite_power]
  rfl

end Sys2Proof.Machine

/-! What every command keeps, put together from the laws of the single commands: one case per row of the table. -/
namespace Sys2Proof.Machine

/-- Whatever a command answers, it keeps the queue, what was sent out, and the invariant. -/
theorem exec_keeps {r : State} (i : Instr) (s : State) (h : Keeps r s) : OutKeeps r (exec i s) := by
  cases i with
  | getInfo => exact execGetInfo_keeps _ s h
  | getState => exact execGetState_keeps _ s h
  | readCounters => exact execReadCounters_keeps _ s h
  | runSelftest => exact execRunSelftest_keeps _ s h
  | readSelftest => exact execReadSelftest_keeps _ s h
  | runVectors => exact execRunVectors_keeps _ s h
  | setProfile => exact execSetProfile_keeps _ s h
  | readProfile => exact execReadProfile_keeps _ s h
  | writeProfile => exact execWriteProfile_keeps _ s h
  | plotStop => exact execPlotStop_keeps _ s h
  | plotStart => exact execPlotStart_keeps _ s h
  | plotReconfig => exact execPlotReconfig_keeps _ _ s h
  | loadImage => exact execLoadImage_keeps _ _ s h
  | loadImageValidationEnd => exact execLoadImageValidationEnd_keeps s h
  | arm => exact execArm_keeps _ s h
  | start => exact execStart_keeps _ s h
  | stop => exact execStop_keeps _ s h
  | selectVariant => exact execSelectVariant_keeps _ s h
  | setPolicy => exact execSetPolicy_keeps _ s h
  | linkTrain => exact execLinkTrain_keeps _ s h
  | linkTrainPortActive => exact execLinkTrainPortActive_keeps _ s h
  | linkTrainWaitExpiry => exact execLinkTrainWaitExpiry_keeps s h
  | linkState => exact execLinkState_keeps _ s h
  | setCoord => exact execSetCoord_keeps _ s h
  | setRouteEpoch => exact execSetRouteEpoch_keeps _ s h
  | setSluice => exact execSetSluice_keeps _ s h
  | timeArm => exact execTimeArm_keeps _ s h
  | hamperSeal => exact execHamperSeal_keeps _ s h
  | hamperRestore => exact execHamperRestore_keeps _ s h
  | hamperList => exact execHamperList_keeps _ s h
  | setMirror => exact execSetMirror_keeps _ s h
  | recallNotice => exact execRecallNotice_keeps _ s h
  | recallHalt => exact execRecallHalt_keeps s h
  | planeShift => exact execPlaneShift_keeps _ s h
  | planeShiftDone => exact execPlaneShiftDone_keeps s h
  | planeShiftWaitExpiry => exact execPlaneShiftWaitExpiry_keeps s h
  | shiftRetryTimer => exact execShiftRetryTimer_keeps _ s h
  | leaveSlice => exact execLeaveSlice_keeps _ s h
  | audit => exact execAudit_keeps _ s h
  | readEvents => exact execReadEvents_keeps _ s h
  | readCper => exact execReadCper_keeps _ s h
  | clearSuspect => exact execClearSuspect_keeps _ s h
  | readJournal => exact execReadJournal_keeps _ s h
  | fwStage => exact execFwStage_keeps _ s h
  | fwActivate => exact execFwActivate_keeps _ s h
  | controllerRestartEnd => exact execControllerRestartEnd_keeps s h
  | fwRevertTimeout => exact execFwRevertTimeout_keeps s h
  | readPower => exact execReadPower_keeps _ s h
  | readThermal => exact execReadThermal_keeps _ s h
  | reset => exact execReset_keeps _ s h
  | commandChipReset => exact execCommandChipReset_keeps s h
  | completionWrite => exact execCompletionWrite_keeps _ _ s h
  | mgtQueueEnable => exact execMgtQueueEnable_keeps _ s h
  | mgtQueueDisable => exact execMgtQueueDisable_keeps _ s h
  | mgtSqtailDoorbell => exact execMgtSqtailDoorbell_keeps _ _ _ s h
  | mgtCqheadWrite => exact execMgtCqheadWrite_keeps _ _ s h
  | dmaQueueEnable => exact execDmaQueueEnable_keeps _ s h
  | dmaQueueDrain => exact execDmaQueueDrain_keeps _ s h
  | dmaQueueAbort => exact execDmaQueueAbort_keeps _ _ s h
  | dmaQtailDoorbell => exact execDmaQtailDoorbell_keeps _ _ s h
  | hostCopyEntryStart => exact execHostCopyEntryStart_keeps _ _ s h
  | hostCopyComplete => exact execHostCopyComplete_keeps _ _ _ s h
  | sendQueueEnable => exact execSendQueueEnable_keeps s h
  | sendQueueDrain => exact execSendQueueDrain_keeps s h
  | sendQueueAbort => exact execSendQueueAbort_keeps s h
  | sendQtailDoorbell => exact execSendQtailDoorbell_keeps _ s h
  | sendEntryStart => exact execSendEntryStart_keeps _ s h
  | timNowLoRead => exact execTimNowLoRead_keeps _ s h
  | hstEventSeqLoRead => exact execHstEventSeqLoRead_keeps _ s h
  | hstJournalSeqLoRead => exact execHstJournalSeqLoRead_keeps _ s h
  | hstPassPost => exact execHstPassPost_keeps _ _ s h
  | registerWrite => exact execRegisterWrite_keeps _ _ _ _ s h
  | bar2Read => exact execBar2Read_keeps _ _ _ s h
  | bar2Write => exact execBar2Write_keeps _ _ _ s h
  | bufWrite => exact execBufWrite_keeps _ _ _ s h
  | bufRead => exact execBufRead_keeps _ _ _ s h
  | setEndpointId => exact execSetEndpointId_keeps _ s h
  | ftsyncRisingEdge => exact execFtsyncRisingEdge_keeps s h
  | timeArmWaitExpiry => exact execTimeArmWaitExpiry_keeps s h
  | epochCheckSend => exact execEpochCheckSend_keeps s h
  | epochCheckWindowClose => exact execEpochCheckWindowClose_keeps s h
  | refLost => exact execRefLost_keeps s h
  | corePllLock => exact execCorePllLock_keeps s h
  | pllReferenceSwitch => exact execPllReferenceSwitch_keeps s h
  | stepBoundary => exact execStepBoundary_keeps s h
  | phaseStart => exact execPhaseStart_keeps s h
  | descriptorFetch => exact execDescriptorFetch_keeps _ _ _ s h
  | matrixMultiply => exact execMatrixMultiply_keeps _ _ _ s h
  | vectorFunction => exact execVectorFunction_keeps _ _ _ s h
  | updateDescriptor => exact execUpdateDescriptor_keeps _ _ _ s h
  | pairCheck => exact execPairCheck_keeps _ _ _ s h
  | formatConversion => exact execFormatConversion_keeps _ _ _ s h
  | tileDmaIn => exact execTileDmaIn_keeps _ _ _ s h
  | tileDmaOut => exact execTileDmaOut_keeps _ _ _ s h
  | tileDmaPermute => exact execTileDmaPermute_keeps _ _ _ s h
  | gather => exact execGather_keeps _ _ _ s h
  | scatter => exact execScatter_keeps _ _ _ s h
  | copyEngine => exact execCopyEngine_keeps _ _ _ s h
  | chainHandoff => exact execChainHandoff_keeps _ _ _ s h
  | cellEgress => exact execCellEgress_keeps _ _ _ s h
  | cellIngress => exact execCellIngress_keeps _ _ _ s h
  | wait => exact execWait_keeps _ _ _ s h
  | contextSave => exact execContextSave_keeps _ _ _ s h
  | contextRestore => exact execContextRestore_keeps _ _ _ s h
  | scaleRecordUpdate => exact execScaleRecordUpdate_keeps _ _ s h
  | digestDescriptor => exact execDigestDescriptor_keeps _ _ _ s h
  | collectivePack => exact execCollectivePack_keeps _ _ _ s h
  | collectiveRound => exact execCollectiveRound_keeps _ _ _ s h
  | collectiveCheck => exact execCollectiveCheck_keeps _ _ _ s h
  | place => exact execPlace_keeps _ _ _ s h
  | combine => exact execCombine_keeps _ _ _ s h
  | copyWindow => exact execCopyWindow_keeps _ _ s h
  | hbmRefreshWindow => exact execHbmRefreshWindow_keeps _ s h
  | slotDeparture => exact execSlotDeparture_keeps _ _ s h
  | scheduledCellReceive => exact execScheduledCellReceive_keeps _ _ _ s h
  | votePhaseEnd => exact execVotePhaseEnd_keeps s h
  | beaconDeadline => exact execBeaconDeadline_keeps _ s h
  | stepCommit => exact execStepCommit_keeps s h
  | backgroundCellReceive => exact execBackgroundCellReceive_keeps _ _ _ s h
  | linkControlCellReceive => exact execLinkControlCellReceive_keeps _ _ _ s h
  | idleCellReceive port cell => exact execIdleCellReceive_keeps port cell s h
  | linbyGroupReceive => exact execLinbyGroupReceive_keeps _ s h
  | laneSignalLoss => exact execLaneSignalLoss_keeps _ _ s h
  | routerTick => exact execRouterTick_keeps s h
  | ejectionWrite => exact execEjectionWrite_keeps _ s h
  | ackTimer => exact execAckTimer_keeps _ _ s h
  | trackerIdleExpiry => exact execTrackerIdleExpiry_keeps _ _ s h
  | retransmitTimeout => exact execRetransmitTimeout_keeps _ _ _ s h
  | fetchTimeout => exact execFetchTimeout_keeps _ s h
  | fetchRetryTimer => exact execFetchRetryTimer_keeps _ s h
  | unscheduledCopyGroup => exact execUnscheduledCopyGroup_keeps _ s h
  | hamperDrain => exact execHamperDrain_keeps _ s h
  | passStart => exact execPassStart_keeps _ s h
  | passEnd => exact execPassEnd_keeps _ s h
  | vectorRunEnd => exact execVectorRunEnd_keeps _ s h
  | powerOnReset => exact execPowerOnReset_keeps _ s h
  | pwrOkDeassert => exact execPwrOkDeassert_keeps s h
  | pinReset => exact execPinReset_keeps s h
  | supplyDipBegin => exact execSupplyDipBegin_keeps _ _ s h
  | supplyDipEnd => exact execSupplyDipEnd_keeps _ s h
  | supplyReset => exact execSupplyReset_keeps _ s h
  | supplyDipTimeout => exact execSupplyDipTimeout_keeps s h
  | thermalSample => exact execThermalSample_keeps _ s h
  | thermalTrip => exact execThermalTrip_keeps s h
  | powerSample => exact execPowerSample_keeps _ _ s h
  | bootComplete => exact execBootComplete_keeps _ s h
  | selftestStepEnd => exact execSelftestStepEnd_keeps _ s h
  | flashInit => exact execFlashInit_keeps _ s h
  | nvmeCompletion => exact execNvmeCompletion_keeps _ s h
  | nvmeTimeout => exact execNvmeTimeout_keeps s h
  | hostLinkReset => exact execHostLinkReset_keeps s h
  | vfFlr => exact execVfFlr_keeps _ s h
  | pmdTrainingEnd => exact execPmdTrainingEnd_keeps _ _ s h
  | armEnd => exact execArmEnd_keeps s h
  | setProfileEnd => exact execSetProfileEnd_keeps s h
  | writeProfileEnd => exact execWriteProfileEnd_keeps _ s h
  | plotReconfigEnd => exact execPlotReconfigEnd_keeps _ s h
  | fwStageEnd => exact execFwStageEnd_keeps s h
  | hamperRestoreEnd => exact execHamperRestoreEnd_keeps s h
  | leaveSliceEnd => exact execLeaveSliceEnd_keeps s h
  | resetNDeassert => exact execResetNDeassert_keeps _ _ s h
  | flashLinkDown => exact execFlashLinkDown_keeps _ s h
  | hbmControllerRefresh => exact execHbmControllerRefresh_keeps _ s h
  | badOpcode => exact execBadOpcode_keeps _ _ s h
  | tapInstruction => exact execTapInstruction_keeps _ _ s h

/-- Settles O49: an empty queue lets a cycle pass, and a command keeps what the state with the queue's rest has. -/
theorem everyStepKeepsTheInvariant : Obligations.EveryStepKeepsTheInvariant := by
  intro s t hinv hstep
  unfold step at hstep
  split at hstep
  next hempty =>
    obtain rfl := Host.Outcome.next.inj hstep
    exact (State.cycle_keeps s (.refl s)).inv hinv
  next c rest hfront =>
    exact (exec_keeps c { s with pending := rest } (.refl _) t hstep).inv hinv

/-! ### What a command answers -/

/-- The common path of the slots answers a next state whatever becomes of the slot. -/
theorem aqvel_next (opcode : Nat) (extOk : State → Slot → Bool) (kind : TargetKind) (allowed : State → Slot → Bool)
    (body : State → Slot → Reply) (c : Slot) (s : State) : ∃ t, aqvel opcode extOk kind allowed body c s = .next t := by
  unfold aqvel
  split
  · exact ⟨_, rfl⟩
  · dsimp only
    split <;> exact ⟨_, rfl⟩

theorem badOpcodeSlot_next (opcode : Nat) (c : Slot) (s : State) : ∃ t, badOpcodeSlot opcode c s = .next t := by
  unfold badOpcodeSlot
  split
  · exact ⟨_, rfl⟩
  · dsimp only
    split <;> exact ⟨_, rfl⟩

/-- A command that comes in a slot is the common path with that opcode's own parts, or one of no opcode of the table. -/
theorem exec_slot {i : Instr} {c : Slot} (h : slotOf i = some c) (s : State) :
    (∃ opcode extOk kind allowed body, exec i s = aqvel opcode extOk kind allowed body c s) ∨ ∃ op, i = .badOpcode op c := by
  cases i <;> cases h
  case badOpcode.refl op => exact .inr ⟨op, rfl⟩
  all_goals
    dsimp only [exec,
      execGetInfo, execGetState, execReadCounters, execRunSelftest, execReadSelftest, execRunVectors,
      execSetProfile, execReadProfile, execWriteProfile, execPlotStop, execPlotStart, execPlotReconfig,
      execLoadImage, execArm, execStart, execStop, execSelectVariant, execSetPolicy, execLinkTrain, execLinkState,
      execSetCoord, execSetRouteEpoch, execSetSluice, execTimeArm, execHamperSeal, execHamperRestore,
      execHamperList, execSetMirror, execRecallNotice, execPlaneShift, execLeaveSlice, execAudit, execReadEvents,
      execReadCper, execClearSuspect, execReadJournal, execFwStage, execFwActivate, execReadPower, execReadThermal,
      execReset]
    exact .inl ⟨_, _, _, _, _, rfl⟩

theorem exec_slot_next {i : Instr} {c : Slot} (h : slotOf i = some c) (s : State) : ∃ t, exec i s = .next t := by
  obtain ⟨opcode, extOk, kind, allowed, body, he⟩ | ⟨op, rfl⟩ := exec_slot h s
  · rw [he]
    exact aqvel_next ..
  · change ∃ t, execBadOpcode op c s = .next t
    unfold execBadOpcode
    split
    · exact ⟨_, rfl⟩
    · exact badOpcodeSlot_next ..

theorem next_ne_refused (t : State) (r : Refusal) : (.next t : Out) ≠ .refused r := nofun

theorem fault_ne_refused (f : Fault) (r : Refusal) : (.fault f : Out) ≠ .refused r := nofun

theorem ite_ne_refused {p : Prop} [Decidable p] {a b : Out} {r : Refusal} (ha : a ≠ .refused r) (hb : b ≠ .refused r) :
    (if p then a else b) ≠ .refused r := by
  split <;> assumption

/-- A descriptor runs, is late, waits for its time, or is one that the load rejects: none of these is a refusal. -/
theorem runDesc_ne_refused (s : State) (x : At) (h : DHead) (o : Op) (eff : Dc → State → State) (r : Refusal) :
    s.runDesc x h o eff ≠ .refused r := by
  unfold State.runDesc
  dsimp only
  repeat' split
  all_goals nofun

/-- A descriptor that is rejected before it is looked at is no refusal either. -/
theorem guardedDesc_ne_refused {p : Prop} [Decidable p] {f : Fault} {s : State} {x : At} {h : DHead} {o : Op}
    {eff : Dc → State → State} {r : Refusal} : (if p then .fault f else s.runDesc x h o eff) ≠ .refused r :=
  ite_ne_refused (fault_ne_refused f r) (runDesc_ne_refused s x h o eff r)

/-- Every command has a meaning: the slots by their common path, the descriptors by theirs, and each arm of any other command
ends in a next state or in a fault. -/
theorem exec_ne_refused (i : Instr) (s : State) (r : Refusal) : exec i s ≠ .refused r := by
  cases hs : slotOf i with
  | some c =>
    obtain ⟨t, ht⟩ := exec_slot_next hs s
    rw [ht]
    exact next_ne_refused t r
  | none =>
    cases i
    case matrixMultiply | vectorFunction | updateDescriptor | pairCheck | formatConversion | tileDmaIn | tileDmaOut |
        tileDmaPermute | gather | scatter | wait | contextSave | contextRestore | scaleRecordUpdate | digestDescriptor =>
      exact runDesc_ne_refused _ _ _ _ _ r
    case copyEngine | chainHandoff | cellEgress | cellIngress | collectivePack | collectiveRound | collectiveCheck | place |
        combine => exact guardedDesc_ne_refused
    all_goals cases hs
    all_goals simp only [exec,
    execLoadImageValidationEnd, execLinkTrainPortActive, execLinkTrainWaitExpiry, execRecallHalt,
    execPlaneShiftDone, execPlaneShiftWaitExpiry, execShiftRetryTimer, execControllerRestartEnd,
    execFwRevertTimeout, execCommandChipReset, execCompletionWrite, execMgtQueueEnable, execMgtQueueDisable,
    execMgtSqtailDoorbell, execMgtCqheadWrite, execDmaQueueEnable, execDmaQueueDrain, execDmaQueueAbort,
    execDmaQtailDoorbell, execHostCopyEntryStart, execHostCopyComplete, execSendQueueEnable, execSendQueueDrain,
    execSendQueueAbort, execSendQtailDoorbell, execSendEntryStart, execTimNowLoRead, execHstEventSeqLoRead,
    execHstJournalSeqLoRead, execHstPassPost, execRegisterWrite, execBar2Read, execBar2Write, execBufWrite,
    execBufRead, execSetEndpointId, execFtsyncRisingEdge, execTimeArmWaitExpiry, execEpochCheckSend,
    execEpochCheckWindowClose, execRefLost, execCorePllLock, execPllReferenceSwitch, execStepBoundary,
    execPhaseStart, execDescriptorFetch, execCopyWindow, execHbmRefreshWindow, execSlotDeparture,
    execScheduledCellReceive, execVotePhaseEnd, execBeaconDeadline, execStepCommit, execBackgroundCellReceive,
    execLinkControlCellReceive, execIdleCellReceive, execLinbyGroupReceive, execLaneSignalLoss, execRouterTick,
    execEjectionWrite, execAckTimer, execTrackerIdleExpiry, execRetransmitTimeout, execFetchTimeout,
    execFetchRetryTimer, execUnscheduledCopyGroup, execHamperDrain, execPassStart, execPassEnd, execVectorRunEnd,
    execPowerOnReset, execPwrOkDeassert, execPinReset, execSupplyDipBegin, execSupplyDipEnd, execSupplyReset,
    execSupplyDipTimeout, execThermalSample, execThermalTrip, execPowerSample, execBootComplete,
    execSelftestStepEnd, execFlashInit, execNvmeCompletion, execNvmeTimeout, execHostLinkReset, execVfFlr,
    execPmdTrainingEnd, execArmEnd, execSetProfileEnd, execWriteProfileEnd, execPlotReconfigEnd, execFwStageEnd,
    execHamperRestoreEnd, execLeaveSliceEnd, execResetNDeassert, execFlashLinkDown, execHbmControllerRefresh,
    execTapInstruction]
    all_goals repeat' split
    all_goals nofun

/-- Settles O50: the queue and what was sent are two of the things that every command keeps. -/
theorem commandsKeepTheQueueAndWhatWasSent : Obligations.CommandsKeepTheQueueAndWhatWasSent := fun i s =>
  ⟨fun t ht =>
    have hk := exec_keeps i s (.refl s) t ht
    ⟨hk.pending, hk.out⟩,
  exec_ne_refused i s⟩

end Sys2Proof.Machine

/-! R301, R302: the code over GF(256). Multiplication by α is linear and has order 255, so the first two syndromes of a
one-byte error name its value and its place. -/
namespace Sys2Proof.Machine

/-! ### Multiplication by α -/

@[simp] theorem gfMulAux_zero (n : Nat) (a : Byte) : gfMulAux n a 0#8 = 0#8 := by
  induction n generalizing a with
  | zero => rfl
  | succ n ih => simp [gfMulAux, ih]

@[simp] theorem gfMul_one (a : Byte) : gfMul a 1 = a := by
  simp [gfMul, gfMulAux]

theorem gfMul_two (a : Byte) : gfMul a 2 = gfDouble a := by
  simp [gfMul, gfMulAux]

/-- α generates the nonzero elements: its order is 255. -/
theorem gfDouble_period (a : Byte) : Function.IsPeriodicPt gfDouble 255 a := by
  revert a
  unfold Function.IsPeriodicPt Function.IsFixedPt
  decide +kernel

theorem gfDouble_injective : Function.Injective gfDouble :=
  Function.LeftInverse.injective (g := gfDouble^[254]) gfDouble_period

/-- No nonzero element comes back after 15 or 51 doublings. -/
theorem gfDouble_aperiodic (a : Byte) (ha : a ≠ 0) :
    ¬ Function.IsPeriodicPt gfDouble 15 a ∧ ¬ Function.IsPeriodicPt gfDouble 51 a := by
  revert a
  unfold Function.IsPeriodicPt Function.IsFixedPt
  decide +kernel

/-- Fewer than 68 doublings do not bring a nonzero element back: the common divisors with 255 below 68 divide 15 or 51. -/
theorem eq_zero_of_gfDouble_period {a : Byte} (ha : a ≠ 0) {d : Nat} (hd : d < 68)
    (h : Function.IsPeriodicPt gfDouble d a) : d = 0 := by
  by_contra hne
  have hgcd := h.gcd (gfDouble_period a)
  obtain ⟨h15, h51⟩ := gfDouble_aperiodic a ha
  have hdvd : ∀ d < 68, d ≠ 0 → d.gcd 255 ∣ 15 ∨ d.gcd 255 ∣ 51 := by decide
  rcases hdvd d hd hne with hdvd | hdvd
  · exact h15 (hgcd.trans_dvd hdvd)
  · exact h51 (hgcd.trans_dvd hdvd)

theorem gfDouble_iterate_injOn {a : Byte} (ha : a ≠ 0) {m n : Nat} (hm : m < 68) (hn : n < 68)
    (h : gfDouble^[m] a = gfDouble^[n] a) : m = n := by
  wlog hle : m ≤ n generalizing m n
  · exact (this hn hm h.symm (by omega)).symm
  obtain ⟨d, rfl⟩ := Nat.exists_eq_add_of_le hle
  rw [Function.iterate_add_apply] at h
  have hd : d = 0 := eq_zero_of_gfDouble_period ha (by omega) (gfDouble_injective.iterate m h).symm
  omega

/-! ### One-byte errors -/

theorem errAt_eq {i : Nat} (hi : i < 68) (v : Byte) : errAt i v = zeros i ++ v :: zeros (67 - i) := by
  have hlen : i < (zeros 68).length := by simpa [zeros] using hi
  rw [errAt, List.set_eq_take_append_cons_drop, if_pos hlen]
  simp only [zeros, List.take_replicate, List.drop_replicate]
  rw [show 68 - (i + 1) = 67 - i by omega, Nat.min_eq_left hi.le]

/-- Zeros behind a value are a multiplication each. -/
theorem foldl_zeros (f : Byte → Byte) (n : Nat) (acc : Byte) :
    (zeros n).foldl (fun acc b => f acc ^^^ b) acc = f^[n] acc := by
  induction n generalizing acc with
  | zero => rfl
  | succ n ih => simpa [zeros, List.replicate_succ] using ih (f acc)

theorem foldl_errAt {f : Byte → Byte} (hf : f 0 = 0) {i : Nat} (hi : i < 68) (v : Byte) :
    (errAt i v).foldl (fun acc b => f acc ^^^ b) 0 = f^[67 - i] v := by
  rw [errAt_eq hi, List.foldl_append, foldl_zeros, Function.iterate_fixed hf, List.foldl_cons, foldl_zeros, hf]
  simp

/-- Syndrome 0 of a one-byte error is its value. -/
theorem syndrome_zero_errAt {i : Nat} (hi : i < 68) (v : Byte) : syndrome 0 (errAt i v) = v := by
  rw [syndrome, foldl_errAt (f := fun acc => gfMul acc (gfPow 0)) rfl hi]
  exact Function.iterate_fixed (gfMul_one v) _

theorem syndrome_one_errAt {i : Nat} (hi : i < 68) (v : Byte) : syndrome 1 (errAt i v) = gfDouble^[67 - i] v := by
  rw [syndrome, foldl_errAt (f := fun acc => gfMul acc (gfPow 1)) rfl hi]
  congr 1
  exact funext gfMul_two

/-- One-byte errors of one value in different places differ in syndrome 1. -/
theorem errAt_place_eq {i j : Nat} {v : Byte} (hi : i < 68) (hj : j < 68) (hv : v ≠ 0)
    (h : syndromes (errAt j v) = syndromes (errAt i v)) : j = i := by
  have h1 : syndrome 1 (errAt j v) = syndrome 1 (errAt i v) := congrArg (nth · 1 0) h
  rw [syndrome_one_errAt hi, syndrome_one_errAt hj] at h1
  have := gfDouble_iterate_injOn hv (by omega) (by omega) h1
  omega

theorem syndromes_errAt_ne {i : Nat} {v : Byte} (hi : i < 68) (hv : v ≠ 0) {s : List Byte} (hs : nth s 0 0 = 0) :
    syndromes (errAt i v) ≠ s := by
  rintro rfl
  exact hv (by rw [← syndrome_zero_errAt hi v]; exact hs)

/-- A search that finds nothing but `b`, and finds it somewhere, answers `b`. -/
theorem findSome?_eq_some_of_unique {α β : Type} {f : α → Option β} {l : List α} {a : α} {b : β} (ha : a ∈ l)
    (hfa : f a = some b) (hf : ∀ x ∈ l, ∀ c, f x = some c → c = b) : l.findSome? f = some b := by
  obtain ⟨c, hc⟩ := Option.isSome_iff_exists.1 (List.findSome?_isSome_iff.2 ⟨a, ha, Option.isSome_of_mem hfa⟩)
  obtain ⟨x, hx, hfx⟩ := List.exists_of_findSome?_eq_some hc
  rw [hc, hf x hx c hfx]

theorem oneError_errAt {i : Nat} {v : Byte} (hi : i < 68) (hv : v ≠ 0) :
    oneError (syndromes (errAt i v)) = some (errAt i v) := by
  have hs0 : nth (syndromes (errAt i v)) 0 0 = v := syndrome_zero_errAt hi v
  rw [oneError, hs0, if_neg (by simpa using hv)]
  refine findSome?_eq_some_of_unique (List.mem_range.2 hi) (by simp) fun j hj e he => ?_
  obtain ⟨hsyn, hsome⟩ := Option.ite_none_right_eq_some.1 he
  rw [← Option.some.inj hsome, errAt_place_eq hi (List.mem_range.1 hj) hv (beq_iff_eq.1 hsyn)]

/-- An error in one byte is none of the cases before it in R302's order, and is found by its syndromes. -/
theorem readCase_errAt {i : Nat} {v : Byte} (hi : i < 68) (hv : v ≠ 0) :
    readCase (errAt i v) = .corrected (errAt i v) := by
  have hgood := syndromes_errAt_ne hi hv (s := [0, 0, 0, 0]) rfl
  have hfound := syndromes_errAt_ne hi hv (s := syndromes foundPattern) (by decide +kernel)
  have hcarried := syndromes_errAt_ne hi hv (s := syndromes carriedPattern) (by decide +kernel)
  rw [readCase, if_neg (mt beq_iff_eq.1 hgood), if_neg (mt beq_iff_eq.1 hfound), if_neg (mt beq_iff_eq.1 hcarried),
    oneError_errAt hi hv]

theorem xorBytes_cancel_right {a b : List Byte} (h : a.length ≤ b.length) : xorBytes (xorBytes a b) b = a := by
  induction a generalizing b with
  | nil => rfl
  | cons x a ih =>
    cases b with
    | nil => simp at h
    | cons y b =>
      have := ih (b := b) (by simpa using h)
      simp_all [xorBytes]

@[simp] theorem Mem.datas_length (m : Mem) (a n : Nat) : (m.datas a n).length = n := by
  simp [Mem.datas]

/-- Settles O58: the decoder takes away the very pattern that the error left. -/
theorem oneByteErrorsAreCorrected : Obligations.OneByteErrorsAreCorrected := by
  intro m cw i v hi hv herr
  have hcase : m.caseOf cw = .corrected (errAt i v) := by
    have hlen : i < (zeros 68).length := by simpa [zeros] using hi
    have hne : ¬(errAt i v).all (· == 0) = true := fun hall =>
      hv (by simpa using List.all_eq_true.1 hall v (List.mem_set hlen v))
    rw [Mem.caseOf, herr, if_neg hne, readCase_errAt hi hv]
  refine ⟨hcase, ?_⟩
  rw [Mem.deliver, hcase, herr]
  exact xorBytes_cancel_right (by simp [errAt, zeros])

end Sys2Proof.Machine

/-! R304: what a store of one codeword leaves in it, whole or in part, and that every other codeword is left alone. -/
namespace Sys2Proof.Machine

/-! ### Reading back what was written -/

@[simp] theorem Mem.putDatas_err (m : Mem) (a : Nat) (bs : List Byte) : (m.putDatas a bs).err = m.err := by
  induction bs generalizing m a with
  | nil => rfl
  | cons b bs ih => rw [Mem.putDatas, ih, Mem.putData_err]

@[simp] theorem Mem.putErrs_cells (m : Mem) (k : Nat) (bs : List Byte) : (m.putErrs k bs).cells = m.cells := by
  induction bs generalizing m k with
  | nil => rfl
  | cons b bs ih => rw [Mem.putErrs, ih, Mem.putErr_cells]

@[simp] theorem Mem.putErrs_bg (m : Mem) (k : Nat) (bs : List Byte) : (m.putErrs k bs).bg = m.bg := by
  induction bs generalizing m k with
  | nil => rfl
  | cons b bs ih => rw [Mem.putErrs, ih, Mem.putErr_bg]

theorem Mem.data_putDatas_other (m : Mem) {a x : Nat} (bs : List Byte) (h : x < a ∨ a + bs.length ≤ x) :
    (m.putDatas a bs).data x = m.data x := by
  induction bs generalizing m a with
  | nil => rfl
  | cons b bs ih =>
    rw [List.length_cons] at h
    rw [Mem.putDatas, ih _ (by omega), Mem.data_putData_other _ _ (by omega)]

theorem Mem.data_putDatas (m : Mem) (a : Nat) (bs : List Byte) {i : Nat} (hi : i < bs.length) :
    (m.putDatas a bs).data (a + i) = bs[i] := by
  induction bs generalizing m a i with
  | nil => exact absurd hi (by simp)
  | cons b bs ih =>
    rw [Mem.putDatas]
    cases i with
    | zero => rw [Mem.data_putDatas_other _ _ (by omega), Nat.add_zero, Mem.data_putData_same, List.getElem_cons_zero]
    | succ i => simpa [Nat.add_assoc, Nat.add_comm 1 i] using ih (m.putData a b) (a + 1) (i := i) (by simpa using hi)

theorem Mem.errB_putErrs_other (m : Mem) {k x : Nat} (bs : List Byte) (h : x < k ∨ k + bs.length ≤ x) :
    (m.putErrs k bs).errB x = m.errB x := by
  induction bs generalizing m k with
  | nil => rfl
  | cons b bs ih =>
    rw [List.length_cons] at h
    rw [Mem.putErrs, ih _ (by omega), Mem.errB_putErr_other _ _ (by omega)]

theorem Mem.errB_putErrs (m : Mem) (k : Nat) (bs : List Byte) {i : Nat} (hi : i < bs.length) :
    (m.putErrs k bs).errB (k + i) = bs[i] := by
  induction bs generalizing m k i with
  | nil => exact absurd hi (by simp)
  | cons b bs ih =>
    rw [Mem.putErrs]
    cases i with
    | zero => rw [Mem.errB_putErrs_other _ _ (by omega), Nat.add_zero, Mem.errB_putErr_same, List.getElem_cons_zero]
    | succ i => simpa [Nat.add_assoc, Nat.add_comm 1 i] using ih (m.putErr k b) (k + 1) (i := i) (by simpa using hi)

/-! ### One codeword set -/

section setCw

variable (m : Mem) (cw : Nat) {d e : List Byte}

theorem Mem.data_setCw (x : Nat) : (m.setCw cw d e).data x = (m.putDatas (64 * cw) d).data x := by
  simp only [Mem.setCw, Mem.data, Mem.putErrs_cells, Mem.putErrs_bg]

theorem Mem.errB_setCw (x : Nat) : (m.setCw cw d e).errB x = (m.putErrs (68 * cw) e).errB x := by
  by_cases hx : 68 * cw ≤ x ∧ x < 68 * cw + e.length
  · obtain ⟨i, rfl⟩ := Nat.exists_eq_add_of_le hx.1
    rw [Mem.setCw, Mem.errB_putErrs _ _ _ (by omega), Mem.errB_putErrs _ _ _ (by omega)]
  · rw [Mem.setCw, Mem.errB_putErrs_other _ _ (by omega), Mem.errB_putErrs_other _ _ (by omega)]
    simp only [Mem.errB, Mem.putDatas_err]

theorem Mem.datas_setCw (hd : d.length = 64) : (m.setCw cw d e).datas (64 * cw) 64 = d := by
  refine List.ext_getElem (by simp [hd]) fun i hi _ => ?_
  simp only [Mem.datas, List.getElem_map, List.getElem_range]
  rw [Mem.data_setCw, Mem.data_putDatas]

theorem Mem.errOf_setCw (he : e.length = 68) : (m.setCw cw d e).errOf cw = e := by
  refine List.ext_getElem (by simp [Mem.errOf, he]) fun i hi _ => ?_
  simp only [Mem.errOf, List.getElem_map, List.getElem_range]
  rw [Mem.errB_setCw, Mem.errB_putErrs]

variable {c : Nat} (hc : c ≠ cw)
include hc

theorem Mem.datas_setCw_other (hd : d.length = 64) : (m.setCw cw d e).datas (64 * c) 64 = m.datas (64 * c) 64 := by
  refine List.map_congr_left fun i hi => ?_
  have := List.mem_range.1 hi
  rw [Mem.data_setCw, Mem.data_putDatas_other _ _ (by omega)]

theorem Mem.errOf_setCw_other (he : e.length = 68) : (m.setCw cw d e).errOf c = m.errOf c := by
  refine List.map_congr_left fun i hi => ?_
  have := List.mem_range.1 hi
  rw [Mem.errB_setCw, Mem.errB_putErrs_other _ _ (by omega)]

theorem Mem.caseOf_setCw_other (he : e.length = 68) : (m.setCw cw d e).caseOf c = m.caseOf c := by
  simp only [Mem.caseOf, Mem.errOf_setCw_other m cw hc he]

theorem Mem.deliver_setCw_other (hd : d.length = 64) (he : e.length = 68) :
    (m.setCw cw d e).deliver c = m.deliver c := by
  simp only [Mem.deliver, Mem.errOf_setCw_other m cw hc he, Mem.datas_setCw_other m cw hc hd,
    Mem.caseOf_setCw_other m cw hc he]

end setCw

theorem xorBytes_zeros {a : List Byte} {n : Nat} (h : a.length ≤ n) : xorBytes a (zeros n) = a := by
  induction a generalizing n with
  | nil => rfl
  | cons x a ih =>
    cases n with
    | zero => simp at h
    | succ n => simpa [xorBytes, zeros, List.replicate_succ] using ih (n := n) (by simpa using h)

/-- A codeword with no error reads as good, and delivers its data. -/
theorem Mem.caseOf_setCw_clean (m : Mem) (cw : Nat) {d : List Byte} (hd : d.length = 64) :
    (m.setCw cw d (zeros 68)).caseOf cw = .good ∧ (m.setCw cw d (zeros 68)).deliver cw = d := by
  have hcase : (m.setCw cw d (zeros 68)).caseOf cw = .good := by
    rw [Mem.caseOf, Mem.errOf_setCw m cw rfl]
    rfl
  refine ⟨hcase, ?_⟩
  rw [Mem.deliver, hcase, Mem.datas_setCw m cw hd, Mem.errOf_setCw m cw rfl]
  exact xorBytes_zeros (by omega)

theorem readCase_foundPattern : readCase foundPattern = .found := by
  decide +kernel

/-- What the decoder takes away is a pattern of a whole codeword. -/
theorem length_of_readCase_corrected {w e : List Byte} (h : readCase w = .corrected e) : e.length = 68 := by
  have hone {s e : List Byte} (h : oneError s = some e) : e.length = 68 := by
    rw [oneError] at h
    obtain ⟨-, h⟩ := Option.ite_none_left_eq_some.1 h
    obtain ⟨i, -, hi⟩ := List.exists_of_findSome?_eq_some h
    obtain ⟨-, he⟩ := Option.ite_none_right_eq_some.1 hi
    rw [← Option.some.inj he]
    simp [errAt, zeros]
  have htwo {s e : List Byte} (h : twoErrors s = some e) : e.length = 68 := by
    obtain ⟨i, -, hi⟩ := List.exists_of_findSome?_eq_some h
    obtain ⟨j, -, hj⟩ := List.exists_of_findSome?_eq_some hi
    obtain ⟨-, he⟩ := Option.ite_none_right_eq_some.1 hj
    rw [← Option.some.inj he]
    simp [zeros]
  unfold readCase at h
  dsimp only at h
  split_ifs at h
  split at h
  next he => exact hone (ReadCase.corrected.inj h ▸ he)
  next =>
    split at h
    next he => exact htwo (ReadCase.corrected.inj h ▸ he)
    next => cases h

theorem Mem.deliver_length (m : Mem) (cw : Nat) : (m.deliver cw).length = 64 := by
  have hraw : (xorBytes (m.datas (64 * cw) 64) (m.errOf cw)).length = 64 := by
    simp [xorBytes, Mem.errOf]
  rw [Mem.deliver]
  split
  next e hcase =>
    have he : e.length = 68 := by
      unfold Mem.caseOf at hcase
      dsimp only at hcase
      split_ifs at hcase
      exact length_of_readCase_corrected hcase
    rw [xorBytes, List.length_zipWith, hraw, he]
    rfl
  next => exact hraw

/-- A codeword marked as found reads as found, its data bytes as they were delivered. -/
theorem Mem.caseOf_markFound (m : Mem) (cw : Nat) :
    (m.markFound cw).caseOf cw = .found ∧ (m.markFound cw).datas (64 * cw) 64 = m.deliver cw := by
  have hlen := m.deliver_length cw
  refine ⟨?_, Mem.datas_setCw m cw hlen⟩
  rw [Mem.caseOf, Mem.markFound, Mem.errOf_setCw m cw rfl, readCase_foundPattern]
  rfl

/-! ### One codeword stored -/

/-- Whether a byte of a partial write carries taint. -/
def partTaint (o : Option TByte) : Bool := match o with
  | some b => b.2
  | none => false

/-- A byte of a partial write over one that is there. -/
def overByte (o : Option TByte) (d : Byte) : Byte := match o with
  | some (b, _) => b
  | none => d

/-- A partial write over the bytes that a read of the codeword delivers. -/
def mergedOver (p : List (Option TByte)) (ds : List Byte) : List Byte := List.zipWith overByte p ds

theorem mergedOver_eq (p : List (Option TByte)) (ds : List Byte) :
    mergedOver p ds = List.zipWith (fun o d => (o.map (·.1)).getD d) p ds := by
  rw [mergedOver]
  congr 1
  funext o d
  cases o <;> rfl

section storeCw

variable (m : Mem) (cw : Nat) {p : List (Option TByte)}

theorem Mem.storeCw_eq : m.storeCw cw p =
    if p.all (·.isSome) then (m.setCw cw (p.map fun o => (o.getD (0, false)).1) (patternFor (p.any partTaint)), Seen.none)
    else match m.caseOf cw with
      | .good => (m.setCw cw (mergedOver p (m.deliver cw)) (patternFor (p.any partTaint)), Seen.none)
      | .corrected _ => (m.setCw cw (mergedOver p (m.deliver cw)) (patternFor (p.any partTaint)),
          { Seen.none with corrected := [cw] })
      | .found => (m, { Seen.none with found := [cw] })
      | .carried => (m, { Seen.none with carried := [cw] })
      | .uncorrectable => (m.markFound cw, { Seen.none with uncorrectable := [cw] }) := rfl

/-- A store of untainted bytes, by R304: a whole write sets the codeword, a partial one does what the case of the codeword
asks for. -/
theorem Mem.storeCw_untainted (htaint : ∀ b, some b ∈ p → b.2 = false) : m.storeCw cw p =
    if p.all (·.isSome) then (m.setCw cw (p.map fun o => (o.getD (0, false)).1) (zeros 68), Seen.none)
    else match m.caseOf cw with
      | .good => (m.setCw cw (mergedOver p (m.deliver cw)) (zeros 68), Seen.none)
      | .corrected _ => (m.setCw cw (mergedOver p (m.deliver cw)) (zeros 68), { Seen.none with corrected := [cw] })
      | .found => (m, { Seen.none with found := [cw] })
      | .carried => (m, { Seen.none with carried := [cw] })
      | .uncorrectable => (m.markFound cw, { Seen.none with uncorrectable := [cw] }) := by
  have hany : p.any partTaint = false := by
    rw [List.any_eq_false]
    rintro (_ | b) hb
    · simp [partTaint]
    · simp [partTaint, htaint b hb]
  rw [Mem.storeCw_eq, hany]
  rfl

/-- A store reaches its own codeword only. -/
theorem Mem.storeCw_other (hlen : p.length = 64) (htaint : ∀ b, some b ∈ p → b.2 = false) {c : Nat} (hc : c ≠ cw) :
    (m.storeCw cw p).1.caseOf c = m.caseOf c ∧ (m.storeCw cw p).1.deliver c = m.deliver c := by
  have hset {d e : List Byte} (he : e.length = 68) (hd : d.length = 64) :
      (m.setCw cw d e).caseOf c = m.caseOf c ∧ (m.setCw cw d e).deliver c = m.deliver c :=
    ⟨Mem.caseOf_setCw_other m cw hc he, Mem.deliver_setCw_other m cw hc hd he⟩
  have hmerged : (mergedOver p (m.deliver cw)).length = 64 := by
    simp [mergedOver, hlen, m.deliver_length]
  rw [Mem.storeCw_untainted m cw htaint]
  split
  · exact hset rfl (by simpa using hlen)
  · split
    · exact hset rfl hmerged
    · exact hset rfl hmerged
    · exact ⟨rfl, rfl⟩
    · exact ⟨rfl, rfl⟩
    · exact hset rfl (m.deliver_length cw)

end storeCw

/-- Settles O59: each case of R304 is one arm of the store, and a codeword that was set reads back as it was set. -/
theorem partialWritesKeepPoison : Obligations.PartialWritesKeepPoison := by
  intro m t cw x p hlen htaint hstore
  have hmerged : (mergedOver p (m.deliver cw)).length = 64 := by
    simp [mergedOver, hlen, m.deliver_length]
  refine ⟨fun hwhole => ?_, fun hpart => ?_, fun c hc => ?_⟩
  · rw [Mem.storeCw_untainted m cw htaint, if_pos (List.all_eq_true.2 hwhole)] at hstore
    obtain ⟨rfl, -⟩ := Prod.mk.inj hstore
    exact Mem.caseOf_setCw_clean m cw (by simpa using hlen)
  · have hnot : ¬p.all (·.isSome) = true := fun hall => by simpa using List.all_eq_true.1 hall none hpart
    rw [Mem.storeCw_untainted m cw htaint, if_neg hnot] at hstore
    refine ⟨?poisoned, ?readable, fun hcase => ?uncorrectable⟩
    case poisoned =>
      rintro (hcase | hcase) <;> rw [hcase] at hstore <;> exact (Prod.mk.inj hstore).1.symm
    case readable =>
      rw [← mergedOver_eq]
      rintro (hcase | ⟨e, hcase⟩) <;> rw [hcase] at hstore <;> obtain ⟨rfl, -⟩ := Prod.mk.inj hstore <;>
        exact Mem.caseOf_setCw_clean m cw hmerged
    case uncorrectable =>
      rw [hcase] at hstore
      obtain ⟨rfl, rfl⟩ := Prod.mk.inj hstore
      obtain ⟨hfound, hdata⟩ := m.caseOf_markFound cw
      exact ⟨hfound, rfl, hdata⟩
  · have hother := Mem.storeCw_other m cw hlen htaint hc
    rwa [hstore] at hother

/-- Settles O60: each value is computed by the model's own functions. -/
theorem publishedValuesComeOut : Obligations.PublishedValuesComeOut := by
  unfold Obligations.PublishedValuesComeOut
  decide +kernel

end Sys2Proof.Machine

/-! Table 11.1: fields laid one behind another are read back, and a packet's header with them. -/
namespace Sys2Proof.Machine

/-! ### Fields laid one behind another -/

@[simp] theorem leBytes_length (n v : Nat) : (leBytes n v).length = n := by
  induction n generalizing v with
  | zero => rfl
  | succ n ih => simp [leBytes, ih]

theorem leNat_leBytes (n v : Nat) : leNat (leBytes n v) = v % 256 ^ n := by
  induction n generalizing v with
  | zero => simp [leBytes, leNat, Nat.mod_one]
  | succ n ih =>
    rw [leBytes, leNat, ih, Nat.pow_succ', Nat.mod_mul]
    simp

@[simp] theorem slice_length (bs : List Byte) (off n : Nat) : (slice bs off n).length = n := by
  simp [slice]

theorem slice_zero_of_length {bs : List Byte} {n : Nat} (h : bs.length = n) : slice bs 0 n = bs := by
  simp [slice, ← h]

/-- What lies behind the first part is read at its place in the rest. -/
theorem slice_append_skip {a b : List Byte} {k off n : Nat} (ha : a.length = k) (hk : k ≤ off) :
    slice (a ++ b) off n = slice b (off - k) n := by
  subst ha
  rw [slice, slice, List.drop_append, List.drop_eq_nil_of_le hk, List.nil_append]

/-- What lies within the first part is read there. -/
theorem slice_append_within {a b : List Byte} {off n : Nat} (h : off + n ≤ a.length) :
    slice (a ++ b) off n = slice a off n := by
  rw [slice, slice, List.drop_append_of_le_length (by omega), List.take_append_of_le_length (by simp; omega)]

theorem slice_leBytes_skip {b : List Byte} {k v off n : Nat} (hk : k ≤ off) :
    slice (leBytes k v ++ b) off n = slice b (off - k) n := slice_append_skip (leBytes_length k v) hk

theorem slice_leBytes_append (b : List Byte) (k v : Nat) : slice (leBytes k v ++ b) 0 k = leBytes k v := by
  rw [slice_append_within (by simp), slice_zero_of_length (leBytes_length k v)]

/-! ### A packet's header -/

@[simp] theorem PktHead.bytes_length (h : PktHead) : h.bytes.length = 30 := by
  simp [PktHead.bytes]

@[simp] theorem headCheck_length (b : List Byte) : (headCheck b).length = 2 := leBytes_length ..

theorem packet_length (h : PktHead) (b : List Byte) : (packet h b).length = 256 := by
  simp [packet]

theorem payloadOf_packet (h : PktHead) (b : List Byte) : payloadOf (packet h b) = slice b 0 224 := by
  rw [payloadOf, packet, slice_append_skip (k := 32) (by simp) (by omega), slice_zero_of_length (slice_length ..)]

/-- Where each field of Table 11.1 is read. -/
theorem fieldAt_packet (h : PktHead) (b : List Byte) :
    fieldAt (packet h b) 0 1 = (1 + 8 * b2n h.poison) % 256 ∧ fieldAt (packet h b) 1 3 = h.dst % 2 ^ 24 ∧
      fieldAt (packet h b) 4 3 = h.src % 2 ^ 24 ∧ fieldAt (packet h b) 7 1 = h.cls % 256 ∧
      fieldAt (packet h b) 8 2 = h.stream % 2 ^ 16 ∧ fieldAt (packet h b) 10 3 = h.seq % 2 ^ 24 ∧
      fieldAt (packet h b) 13 3 = h.index % 2 ^ 24 ∧ fieldAt (packet h b) 16 3 = h.total % 2 ^ 24 ∧
      fieldAt (packet h b) 19 6 = h.addr % 2 ^ 48 ∧ fieldAt (packet h b) 25 1 = h.len % 256 ∧
      fieldAt (packet h b) 26 3 = (h.flags % 16 + 16 * h.age + 16384 * h.hops) % 2 ^ 24 ∧
      fieldAt (packet h b) 29 1 = h.epoch % 256 := by
  simp only [packet, PktHead.bytes, List.append_assoc, fieldAt]
  simp [slice_leBytes_skip, slice_leBytes_append, leNat_leBytes]

/-- Every field is within the width that Table 11.1 gives it. -/
structure PktHead.Fits (h : PktHead) : Prop where
  dst : h.dst < 2 ^ 20
  src : h.src < 2 ^ 20
  cls : h.cls < 256
  stream : h.stream < 2 ^ 16
  seq : h.seq < 2 ^ 24
  index : h.index < 2 ^ 24
  total : h.total < 2 ^ 24
  addr : h.addr < 2 ^ 48
  len : h.len < 256
  flags : h.flags < 16
  age : h.age < 1024
  hops : h.hops < 1024
  epoch : h.epoch < 256

theorem headOf_packet {h : PktHead} (b : List Byte) (fits : h.Fits) : headOf (packet h b) = h := by
  obtain ⟨fver, fdst, fsrc, fcls, fstream, fseq, findex, ftotal, faddr, flen, fword, fepoch⟩ := fieldAt_packet h b
  obtain ⟨hdst, hsrc, hcls, hstream, hseq, hindex, htotal, haddr, hlen, hflags, hage, hhops, hepoch⟩ := fits
  have hpoison : bit ((1 + 8 * b2n h.poison) % 256) 3 = h.poison := by cases h.poison <;> rfl
  have hword : (h.flags % 16 + 16 * h.age + 16384 * h.hops) % 2 ^ 24 = h.flags + 16 * h.age + 16384 * h.hops := by omega
  rw [headOf, fver, fdst, fsrc, fcls, fstream, fseq, findex, ftotal, faddr, flen, fword, fepoch, hpoison, hword]
  have hflagsPart : (h.flags + 16 * h.age + 16384 * h.hops) % 16 = h.flags := by omega
  have hagePart : (h.flags + 16 * h.age + 16384 * h.hops) / 16 % 1024 = h.age := by omega
  have hhopsPart : (h.flags + 16 * h.age + 16384 * h.hops) / 16384 = h.hops := by omega
  simp only [hflagsPart, hagePart, hhopsPart, Nat.mod_eq_of_lt (show h.dst < 2 ^ 24 by omega),
    Nat.mod_eq_of_lt (show h.src < 2 ^ 24 by omega), Nat.mod_eq_of_lt hcls, Nat.mod_eq_of_lt hstream,
    Nat.mod_eq_of_lt hseq, Nat.mod_eq_of_lt hindex, Nat.mod_eq_of_lt htotal, Nat.mod_eq_of_lt haddr,
    Nat.mod_eq_of_lt hlen, Nat.mod_eq_of_lt hepoch]

/-- The check is computed over the 30 bytes that stand before it. -/
theorem headOk_packet {h : PktHead} (b : List Byte) (hdst : h.dst < 2 ^ 20) (hsrc : h.src < 2 ^ 20) (hcls : h.cls ≤ 4)
    (hlen : h.len ≤ 224) : headOk (packet h b) = true := by
  obtain ⟨fver, fdst, fsrc, fcls, -, -, -, -, -, flen, -⟩ := fieldAt_packet h b
  have hcheck : slice (packet h b) 30 2 = headCheck (slice (packet h b) 0 30) := by
    rw [packet, List.append_assoc, slice_append_skip (h.bytes_length) (le_refl 30), slice_append_within (by simp),
      slice_append_within (by simp), slice_zero_of_length h.bytes_length, slice_zero_of_length (headCheck_length _)]
  have hver : (1 + 8 * b2n h.poison) % 256 &&& 0xF7 = 1 := by cases h.poison <;> rfl
  simp only [headOk, hcheck, fver, fdst, fsrc, fcls, flen, hver, Bool.and_eq_true, beq_self_eq_true, decide_eq_true_eq,
    true_and]
  omega

/-- Settles O56: each field is read where it was laid, the three parts of the last word apart by division; the check is
computed over the same 30 bytes on both sides. -/
theorem packetHeadersRoundTrip : Obligations.PacketHeadersRoundTrip := by
  intro h b hdst hsrc hcls hstream hseq hindex htotal haddr hlen hflags hage hhops hepoch
  exact ⟨headOf_packet b ⟨hdst, hsrc, hcls, hstream, hseq, hindex, htotal, haddr, hlen, hflags, hage, hhops, hepoch⟩,
    headOk_packet b hdst hsrc, payloadOf_packet h b, packet_length h b⟩

end Sys2Proof.Machine

/-! R361, R365, R368: the common path of the command slots, branch by branch. -/
namespace Sys2Proof.Machine

/-! ### A slot that waits -/

theorem State.wait_pair {s : State} {c : Slot} {n : Nat} (hsrc : c.src = .pair n) (opcode : Nat) : s.wait opcode c = s := by
  simp only [State.wait, hsrc]

theorem arrived_any (l : List (Slot × Nat)) (c : Slot) : l.any (fun a => a.1 == c) = true ↔ ∃ t, (c, t) ∈ l := by
  simp

section endpoint

variable {s : State} {c : Slot} {e : Byte} (hsrc : c.src = .endpoint e) (opcode : Nat)
include hsrc

theorem State.wait_known (h : s.aq.eid.isNone ∨ ∃ t, (c, t) ∈ s.aq.arrived) : s.wait opcode c = s := by
  simp only [State.wait, hsrc]
  exact if_pos (Bool.or_eq_true_iff.2 (h.imp_right (arrived_any _ c).2))

theorem State.wait_new (heid : s.aq.eid.isSome) (hnew : ∀ t, (c, t) ∉ s.aq.arrived) : s.wait opcode c =
    if s.sidebandBusy = false then s.onAq (fun a => { a with arrived := a.arrived ++ [(c, s.time.cyc)] })
    else if s.chip.st != .boot && s.chip.restart.isNone then s.reject opcode c stBusy 0 0 false
    else s := by
  have hnone : s.aq.eid.isNone = false := by simpa using heid
  have hany : s.aq.arrived.any (fun a => a.1 == c) = false := by
    simpa only [Bool.not_eq_true] using mt (arrived_any _ c).1 (fun ⟨t, ht⟩ => hnew t ht)
  simp only [State.wait, hsrc, hnone, hany, Bool.or_self, Bool.false_eq_true, if_false, Bool.not_eq_true']

/-- The answer to a sideband command that finds no place is not journaled. -/
theorem State.reject_busy : s.reject opcode c stBusy 0 0 false =
    s.emit (.sideband e 2 (⟨c.tag.toNat, stBusy, 0, 0, s.fabric, 0⟩ : Completion).bytes) := by
  simp [State.reject, State.deliver, hsrc]

end endpoint

/-! ### The branches of the common path -/

section aqvel

variable {opcode : Nat} {extOk : State → Slot → Bool} {kind : TargetKind} {allowed : State → Slot → Bool}
  {body : State → Slot → Reply} {c : Slot} {s : State}

theorem aqvel_wait (h : s.takeable c = false) :
    aqvel opcode extOk kind allowed body c s = .next (s.wait opcode c) := by
  rw [aqvel, h]
  rfl

theorem badOpcodeSlot_wait (h : s.takeable c = false) : badOpcodeSlot opcode c s = .next (s.wait opcode c) := by
  rw [badOpcodeSlot, h]
  rfl

theorem aqvel_busy {e : Byte} (hsrc : c.src = .endpoint e) (h : s.takeable c = true)
    (hbusy : (s.take c).sidebandBusy = true) :
    aqvel opcode extOk kind allowed body c s = .next ((s.take c).reject opcode c stBusy 0 0 false) := by
  simp only [aqvel, h, hsrc, hbusy]
  rfl

theorem badOpcodeSlot_taken (h : s.takeable c = true)
    (hfree : ∀ e, c.src = .endpoint e → (s.take c).sidebandBusy = false) :
    badOpcodeSlot opcode c s =
      .next ((s.take c).checked opcode c (fun t => t.reject opcode c stBadOpcode 0 0 true)) := by
  cases hsrc : c.src with
  | pair n => simp [badOpcodeSlot, h, hsrc]
  | endpoint e => simp [badOpcodeSlot, h, hsrc, hfree e hsrc]

end aqvel

/-- A slot whose opcode the table has, and whose CRC is right, is no bad opcode (R368 step 3). -/
theorem execBadOpcode_eq {op : W16} {c : Slot} {s : State} (h : crcOk c op.toNat = true → op.toNat ∉ tableOpcodes) :
    execBadOpcode op c s = badOpcodeSlot op.toNat c s := by
  rw [execBadOpcode, if_neg]
  simpa [imp_not_comm] using h

/-- A slot that fails before its sequence is looked at: journaled under the next sequence of the journal, and delivered. -/
theorem State.reject_journaled (u : State) (opcode : Nat) (c : Slot) {status detail flags : Nat} (hd : detail < 2 ^ 32) :
    u.reject opcode c status detail flags true = (u.journal opcode status flags c).deliver c (u.srcGen c.src)
      ⟨c.tag.toNat, status, detail, 0, u.fabric, u.aq.jnext % 2 ^ 32⟩ := by
  rw [State.reject, Nat.mod_eq_of_lt hd]
  cases hsrc : c.src <;> rfl

/-- A slot that waits: what becomes of it depends on its source and not on its opcode. -/
theorem exec_slot_wait {i : Instr} {c : Slot} {s : State} (hi : slotOf i = some c) (hop : ∀ op d, i ≠ .badOpcode op d)
    (h : s.takeable c = false) : ∃ opcode, exec i s = .next (s.wait opcode c) := by
  obtain ⟨opcode, extOk, kind, allowed, body, he⟩ | ⟨op, rfl⟩ := exec_slot hi s
  · exact ⟨opcode, he.trans (aqvel_wait h)⟩
  · exact absurd rfl (hop op c)

theorem exec_pair_wait {i : Instr} {c : Slot} {s : State} {n : Nat} (hi : slotOf i = some c) (hsrc : c.src = .pair n)
    (h : s.takeable c = false) : exec i s = .next s := by
  obtain ⟨opcode, extOk, kind, allowed, body, he⟩ | ⟨op, rfl⟩ := exec_slot hi s
  · rw [he, aqvel_wait h, State.wait_pair hsrc]
  · change execBadOpcode op c s = _
    rw [execBadOpcode, badOpcodeSlot_wait h, State.wait_pair hsrc, ite_self]

theorem exec_slot_busy {i : Instr} {c : Slot} {s : State} {e : Byte} (hi : slotOf i = some c)
    (hop : ∀ op d, i ≠ .badOpcode op d) (hsrc : c.src = .endpoint e) (h : s.takeable c = true)
    (hbusy : (s.take c).sidebandBusy = true) : exec i s =
      .next ((s.take c).emit (.sideband e 2 (⟨c.tag.toNat, stBusy, 0, 0, s.fabric, 0⟩ : Completion).bytes)) := by
  obtain ⟨opcode, extOk, kind, allowed, body, he⟩ | ⟨op, rfl⟩ := exec_slot hi s
  · rw [he, aqvel_busy hsrc h hbusy, State.reject_busy hsrc]
    simp only [State.take, hsrc]
    rfl
  · exact absurd rfl (hop op c)

/-- Settles O52: the common path of all slots, branch by branch, up to the opcode check. -/
theorem slotsAnswerOrWait : Obligations.SlotsAnswerOrWait := by
  constructor
  · intro i c s hi
    refine ⟨exec_slot_next hi s, fun n hsrc => exec_pair_wait hi hsrc, fun e hsrc hop => ⟨fun h hknown => ?_,
      fun h heid hnew => ?_, exec_slot_busy hi hop hsrc⟩⟩
    · obtain ⟨opcode, he⟩ := exec_slot_wait hi hop h
      rw [he, State.wait_known hsrc opcode hknown]
    · obtain ⟨opcode, he⟩ := exec_slot_wait hi hop h
      rw [he, State.wait_new hsrc opcode heid hnew]
      refine ⟨fun hfree => by rw [if_pos hfree], fun hbusy hst hrestart => ?_⟩
      rw [if_neg (by simp [hbusy]), if_pos (by simp [hst, hrestart]), State.reject_busy hsrc]
  · rintro op c s u htake rfl hfree m rfl
    refine ⟨fun hcrc => ?_, fun hcrc hflags hop => ?_⟩
    · change execBadOpcode op c s = _
      rw [execBadOpcode_eq (by simp [hcrc]), badOpcodeSlot_taken htake hfree, State.checked, hcrc]
      exact congrArg _ (State.reject_journaled _ _ c (by decide))
    · change execBadOpcode op c s = _
      have hflags' : (c.flags &&& 0xFC != 0) = false := by simpa using hflags
      rw [execBadOpcode_eq (fun _ => hop), badOpcodeSlot_taken htake hfree, State.checked, hcrc, hflags']
      exact congrArg _ (State.reject_journaled _ _ c (by decide))

end Sys2Proof.Machine

/-! Table 15.8: the reports. A sound and clean slot reaches what is behind its opcode's reserved bytes, and writes its record
to the extended buffer. -/
namespace Sys2Proof.Machine

/-! ### Inline parameters -/

theorem leNat_lt (bs : List Byte) : leNat bs < 256 ^ bs.length := by
  induction bs with
  | nil => exact Nat.one_pos
  | cons b bs ih =>
    have := b.isLt
    rw [leNat, List.length_cons, Nat.pow_succ]
    omega

theorem fieldAt_lt (bs : List Byte) (off n : Nat) : fieldAt bs off n < 256 ^ n := by
  simpa [fieldAt] using leNat_lt (slice bs off n)

theorem arg_lt (c : Slot) (off n : Nat) : arg c off n < 256 ^ n := fieldAt_lt ..

/-- The allowed bits of a byte of which the others are reserved. -/
theorem arg_and_of_clean {c : Slot} {l m : List (Nat × Nat)} {off mask : Nat} (h : Clean c l m = true)
    (hmask : (off, mask) ∈ m) : arg c off 1 &&& (255 - mask) = 0 := by
  simp only [Clean, Bool.and_eq_true, Option.isNone_iff_eq_none] at h
  obtain ⟨⟨-, hbits⟩, -⟩ := h
  simp only [badBits, Option.map_eq_none_iff, List.find?_eq_none] at hbits
  simpa using hbits _ hmask

/-- A flag byte of one bit is that bit. -/
theorem flag_of_clean {c : Slot} {l m : List (Nat × Nat)} {off : Nat} (h : Clean c l m = true) (hmask : (off, 1) ∈ m) :
    bit (arg c off 1) 0 = decide (arg c off 1 = 1) := by
  have hflag : ∀ x < 256, x &&& 254 = 0 → bit x 0 = decide (x = 1) := by decide +kernel
  exact hflag _ (arg_lt c off 1) (arg_and_of_clean h hmask)

/-! ### Opcodes behind their reserved bytes -/

section aqvel_clean

variable {opcode : Nat} {extOk : State → Slot → Bool} {kind : TargetKind} {allowed : State → Slot → Bool}
  {resv masks : List (Nat × Nat)} {k : State → Slot → Reply} {c : Slot} {s : State} {ok : State → Bool}
  (hsound : Sound s opcode kind c ok = true) (hclean : Clean c resv masks = true) (hok : ∀ t, ok t = allowed t c)
  (hext : extOk (s.take c) c = true)
include hsound hclean hok hext

/-- A sound and clean slot is answered by what stands behind the reserved bytes of its opcode. -/
theorem aqvel_clean {r : Reply} (hr : k (s.taken c) c = r) :
    aqvel opcode extOk kind allowed (fun s c => guarded c resv masks (fun _ => k s c)) c s =
      .next ((s.taken c).answer opcode c r) :=
  aqvel_answers rfl hsound hok hext ((guarded_clean hclean).trans hr)

theorem aqvel_clean_done {detail result : Nat} {t : State} (hr : k (s.taken c) c = .done detail result t) :
    aqvel opcode extOk kind allowed (fun s c => guarded c resv masks (fun _ => k s c)) c s =
      .next (t.reply opcode c stDone detail result) :=
  aqvel_clean hsound hclean hok hext hr

theorem aqvel_clean_accepted {t : State} (hr : k (s.taken c) c = .accepted t) :
    aqvel opcode extOk kind allowed (fun s c => guarded c resv masks (fun _ => k s c)) c s =
      .next (t.accept opcode c) :=
  aqvel_clean hsound hclean hok hext hr

theorem aqvel_clean_acceptedThen {t : State} {f : State → State} (hr : k (s.taken c) c = .acceptedThen t f) :
    aqvel opcode extOk kind allowed (fun s c => guarded c resv masks (fun _ => k s c)) c s =
      .next (f (t.accept opcode c)) :=
  aqvel_clean hsound hclean hok hext hr

theorem aqvel_clean_doneThen {detail result : Nat} {t : State} {f : State → State}
    (hr : k (s.taken c) c = .doneThen detail result t f) :
    aqvel opcode extOk kind allowed (fun s c => guarded c resv masks (fun _ => k s c)) c s =
      .next (f (t.reply opcode c stDone detail result)) :=
  aqvel_clean hsound hclean hok hext hr

end aqvel_clean

/-- The records that a reader picks are written and counted, and the first names their sequence. -/
theorem recordsReply_reaches {u : State} {c : Slot} {size first count : Nat} {l : List (Nat × List Byte)}
    (hreach : u.reaches c = true) {r : List (Nat × List Byte)}
    (hr : r = pickRecords l first (min count (c.extLen.toNat / size))) :
    recordsReply u c size l first count =
      .done r.length ((r.map (·.1)).headD 0) (u.extWrite c (r.map (·.2)).flatten) := by
  rw [recordsReply, ← hr, writesExt_reaches hreach]
  cases r <;> rfl

theorem extRecords_of {c : Slot} {n : Nat} (s : State) (hne : c.extLen ≠ 0) (hmod : c.extLen.toNat % n = 0) :
    extRecords n s c = true := by
  rw [extRecords, hmod]
  simpa using hne

theorem extAtLeast_of {c : Slot} {n : Nat} (s : State) (h : n ≤ c.extLen.toNat) : extAtLeast n s c = true := by
  simp [extAtLeast, h]

theorem noExt_of {c : Slot} (s : State) (h : c.extLen = 0) : noExt s c = true := by
  simp [noExt, h]

/-- Settles O3: the three readers pick their records from different lists, and write and count them alike. -/
theorem recordReadersComplete : Obligations.RecordReadersComplete := by
  rintro c s u r rfl hreach
  refine ⟨fun hsound hclean hne hmod hr => ?events, fun hsound hclean hne hmod hr => ?journal,
    fun hsound hclean hne hmod hr => ?errors⟩
  case events =>
    exact aqvel_clean_done hsound hclean (fun _ => rfl) (extRecords_of _ hne hmod) (recordsReply_reaches hreach hr)
  case journal =>
    exact aqvel_clean_done hsound hclean (fun _ => rfl) (extRecords_of _ hne hmod) (recordsReply_reaches hreach hr)
  case errors =>
    have hr' : r = pickRecords (if bit (arg c 8 1) 0 then (s.taken c).flash.cper else (s.taken c).aq.cper) (arg c 0 8)
        (min (arg c 12 4) (c.extLen.toNat / 328)) := by
      simpa [flag_of_clean (off := 8) hclean (by simp)] using hr
    exact aqvel_clean_done hsound hclean (fun _ => rfl) (extRecords_of _ hne hmod) (recordsReply_reaches hreach hr')

/-! ### The reports -/

@[simp] theorem State.take_snap (s : State) (c : Slot) : (s.take c).snap = s.snap := by
  unfold State.take
  split <;> rfl

@[simp] theorem State.taken_snap (s : State) (c : Slot) : (s.taken c).snap = s.snap := by
  unfold State.taken State.rememberSeq
  split <;> simp

theorem ring?_take (s : State) (c : Slot) : (s.take c).ring? = (s.taken c).ring? := by
  simp only [State.ring?, State.take_snap, State.taken_snap]

/-- Settles O2: each report is what its opcode answers behind its reserved bytes, on the taken state. -/
theorem reportsComplete : Obligations.ReportsComplete := by
  rintro c s u rfl
  refine ⟨fun hsound hclean hlen hreach => ?info, fun hsound hclean hset hlen hreach w hw => ?counters,
    fun hsound hclean hlen hreach => ?selftest, fun hsound hclean hn hlen hreach => ?profile,
    fun hsound hclean hp hlen => ?link, fun hsound hclean hlen hreach => ?power,
    fun hsound hclean hkind hflash l hl hlen hreach => ?list⟩
  case info =>
    exact aqvel_clean_done hsound hclean (fun _ => rfl) (extAtLeast_of _ hlen) (writesExt_reaches hreach)
  case counters =>
    change execReadCounters c s = _
    rw [execReadCounters]
    refine aqvel_clean_done hsound hclean (fun _ => rfl) (by simp [extAtLeast, hlen]) ?_
    refine (if_neg (by omega)).trans ((writesExt_reaches hreach).trans ?_)
    rw [flag_of_clean (off := 1) hclean (by simp), ← hw]
    simp
  case selftest =>
    exact aqvel_clean_done hsound hclean (fun _ => rfl) (extAtLeast_of _ hlen) (writesExt_reaches hreach)
  case profile =>
    refine aqvel_clean_done hsound hclean (fun _ => rfl) (extAtLeast_of _ hlen) ?_
    exact (if_neg (by omega)).trans (writesExt_reaches hreach)
  case link =>
    exact aqvel_clean_done hsound hclean (fun _ => rfl) (noExt_of _ hlen) (if_neg (by omega))
  case power =>
    refine aqvel_clean_done hsound hclean (fun _ => rfl) (extAtLeast_of _ hlen) ?_
    rw [writesExt_reaches hreach]
    unfold State.extWrite
    split <;> rfl
  case list =>
    change execHamperList c s = _
    rw [execHamperList]
    have hslots : ∀ t : State, t.ringSlots = t.ring?.elim [] (·.slots) := fun t => by
      rw [State.ringSlots]
      cases t.ring? <;> rfl
    have hext : 32 * (s.take c).ringSlots.length ≤ c.extLen.toNat := by
      rw [hslots, ring?_take, ← hl]
      exact hlen
    refine aqvel_clean_done hsound hclean (fun _ => rfl) (by simpa [hkind] using hext) ?_
    dsimp only
    rw [hslots, ← hl, hkind, hflash]
    exact writesExt_reaches hreach

end Sys2Proof.Machine

/-! Table 15.8: the commands that set a value, and those that are accepted and keep what their work needs. -/
namespace Sys2Proof.Machine

section settings

variable {c : Slot} {s : State} (hext : c.extLen = 0)
include hext

/-- An opcode without extended buffer that is done at once behind its reserved bytes. -/
theorem aqvel_noExt_done {opcode : Nat} {kind : TargetKind} {allowed : State → Slot → Bool} {resv masks : List (Nat × Nat)}
    {k : State → Slot → Reply} {ok : State → Bool} {detail result : Nat} {t : State}
    (hsound : Sound s opcode kind c ok = true) (hclean : Clean c resv masks = true) (hok : ∀ t, ok t = allowed t c)
    (hr : k (s.taken c) c = .done detail result t) :
    aqvel opcode noExt kind allowed (fun s c => guarded c resv masks (fun _ => k s c)) c s =
      .next (t.reply opcode c stDone detail result) :=
  aqvel_clean_done hsound hclean hok (noExt_of _ hext) hr

/-- One that is accepted behind its reserved bytes. -/
theorem aqvel_noExt_accepted {opcode : Nat} {kind : TargetKind} {allowed : State → Slot → Bool}
    {resv masks : List (Nat × Nat)} {k : State → Slot → Reply} {ok : State → Bool} {t : State}
    (hsound : Sound s opcode kind c ok = true) (hclean : Clean c resv masks = true) (hok : ∀ t, ok t = allowed t c)
    (hr : k (s.taken c) c = .accepted t) :
    aqvel opcode noExt kind allowed (fun s c => guarded c resv masks (fun _ => k s c)) c s = .next (t.accept opcode c) :=
  aqvel_clean_accepted hsound hclean hok (noExt_of _ hext) hr

end settings

/-- Clearing the suspect flag moves the land at most. -/
theorem withFaultN_notSuspect (u : State) :
    (u.withFaultN (fun s => { s with flash := { s.flash with suspect := false } })).flash.suspect = false ∧
      (u.withFaultN (fun s => { s with flash := { s.flash with suspect := false } })).chip = u.chip := by
  unfold State.withFaultN
  dsimp only
  split <;> exact ⟨rfl, rfl⟩

/-- Settles O6: each effect is what the opcode answers behind its parameter checks, on the taken state. -/
theorem settingsComplete : Obligations.SettingsComplete := by
  rintro c s u rfl hext
  refine ⟨fun hsound hclean hcoord => ?coord, fun hsound hclean => ?epoch, fun hsound hclean hmarks => ?sluice,
    fun i hsound hclean hstep himage hvar hmay => ?variant,
    fun hsound hclean hstep hcarry hcarryOk hsat => ?policy, fun hsound hclean => ?suspect,
    fun hsound hclean p hp => ?plot, fun hsound hclean hmode hvalid => ?firmware⟩
  case coord =>
    refine aqvel_noExt_done hext hsound hclean (fun _ => rfl) ?_
    dsimp only
    rw [hcoord]
  case epoch => exact aqvel_noExt_done hext hsound hclean (fun _ => rfl) rfl
  case sluice =>
    refine aqvel_noExt_done hext hsound hclean (fun _ => rfl) ?_
    rcases hmarks with ⟨hlow, hhigh⟩ | ⟨hlow, hlt, hle⟩
    · simp [hlow, hhigh]
    · have hne : arg c 0 2 ≠ 0 := by omega
      have hmost : ¬ (arg c 2 2 ≤ arg c 0 2 ∨ 8192 < arg c 2 2) := by omega
      simp [hne, hmost]
  case variant =>
    refine aqvel_noExt_done hext hsound hclean (fun _ => rfl) ?_
    have hrun : (s.taken c).train.image.any (fun i => (s.taken c).mayRun i (arg c 8 1)) = true := by
      simpa [himage, State.mayRun, hvar, or_assoc, and_assoc] using hmay
    dsimp only
    rw [hstep, hrun]
    by_cases hst : (s.taken c).plot0.st = .running
    · simp [hst]
    · simp [hst, State.toVariant]
  case policy =>
    refine aqvel_noExt_done hext hsound hclean (fun _ => rfl) ?_
    have hcarryGood : (!([0, 1, 0xFF].contains (arg c 8 1)) || (arg c 8 1 == 1 && !(s.taken c).carryOk)) = false := by
      rw [List.contains_iff_mem.2 hcarry]
      by_cases hone : arg c 8 1 = 1
      · simp [hcarryOk hone]
      · simp [hone]
    dsimp only
    rw [hstep, hcarryGood, List.contains_iff_mem.2 hsat]
    by_cases hst : (s.taken c).plot0.st = .running
    · simp [hst]
    · simp [hst]
  case suspect =>
    refine ⟨_, aqvel_noExt_done hext hsound hclean (fun _ => rfl) rfl, ?_⟩
    obtain ⟨hsuspect, hchip⟩ := withFaultN_notSuspect (s.taken c)
    exact ⟨hsuspect, by rw [State.faultN, State.onTrain_chip, State.onTrain_flash, hsuspect, hchip, Bool.or_false], rfl⟩
  case plot =>
    refine aqvel_noExt_done hext hsound hclean (fun _ => rfl) ?_
    dsimp only
    rw [hp]
  case firmware =>
    refine aqvel_noExt_done hext hsound hclean (fun _ => rfl) ?_
    simp [hmode, hvalid]

theorem reaches_iff {u : State} {c : Slot} : u.reaches c = true ↔ ∃ b, u.extBytes c = some b := by
  rw [State.reaches, Option.isSome_iff_exists]

/-- Settles O7: each command is accepted behind its parameter checks, on the state that keeps what its work needs. -/
theorem configurationsAreAccepted : Obligations.ConfigurationsAreAccepted := by
  rintro c s u rfl
  refine ⟨fun hsound hclean hext hn => ?profile, fun b hsound hclean hext hn hb hgood => ?write,
    fun b g p n hsound hclean hn hlen hb hgood hp himage => ?reconfig,
    fun g n hsound hclean hn hlen hreach => ?image, fun hsound hclean hext hkind hdown => ?selftest,
    fun b hsound hclean hlen hb hgood => ?vectors, fun hsound hclean hext hmode hvalid hdrain => ?firmware⟩
  case profile =>
    exact aqvel_noExt_accepted hext hsound hclean (fun t => by
      simp only [allPlotsIn, List.contains_cons, List.contains_nil, Bool.or_false]) (if_neg (by omega))
  case write =>
    change execWriteProfile c s = _
    rw [execWriteProfile]
    refine aqvel_clean_accepted hsound hclean (fun _ => rfl) (by simp [hext]) ?_
    refine (if_neg (by omega)).trans ((readsExt_some hb).trans ?_)
    rw [hgood]
  case reconfig =>
    change execPlotReconfig c (some g) s = _
    rw [execPlotReconfig]
    refine aqvel_clean_accepted hsound hclean (fun _ => rfl) (by simpa [hn, and_assoc] using hlen) ?_
    refine (readsExt_some hb).trans ?_
    rw [hgood, hp]
    dsimp only
    rw [himage]
  case image =>
    change execLoadImage c (some g) s = _
    rw [execLoadImage]
    obtain ⟨b, hb⟩ := reaches_iff.1 hreach
    exact aqvel_clean_accepted hsound hclean (fun _ => rfl) (by simpa [hn, and_assoc] using hlen) (readsExt_some hb)
  case selftest =>
    refine ⟨_, aqvel_noExt_accepted hext hsound hclean (fun _ => rfl)
      ((if_neg (by omega)).trans (if_neg (by simpa using hdown))), ?_, fun p hp hone => ?_⟩
    · by_cases hone : arg c 1 1 = 1
      · simp [hone]
      · simp [beq_eq_false_iff_ne.2 hone]
    · simp only [hone, beq_self_eq_true, if_true, State.onPorts_ports, List.mem_map] at hp
      obtain ⟨q, -, rfl⟩ := hp
      split
      next hdownAlready => simpa using hdownAlready
      next => rfl
  case vectors =>
    refine aqvel_clean_accepted hsound hclean (fun _ => rfl) (extAtLeast_of _ hlen) ?_
    refine (readsExt_some hb).trans ?_
    rw [hgood]
  case firmware =>
    refine aqvel_noExt_accepted hext hsound hclean (fun _ => rfl) ?_
    dsimp only
    rw [hmode, hvalid, hdrain]
    rfl

/-- Settles O9: each command is accepted behind its parameter checks, and what it asks for is among what waits. -/
theorem trainingCommandsAreAccepted : Obligations.TrainingCommandsAreAccepted := by
  rintro c s u rfl hext
  refine ⟨fun hsound hclean => ?arm, fun hsound hclean hlead => ?start, fun hsound hclean hlead => ?stop,
    fun hsound hclean hwait => ?time, fun r hsound hclean hrole hlog hregion hkind => ?audit,
    fun hsound hclean hlead hseal w hw => ?notice⟩
  case arm => exact aqvel_noExt_accepted hext hsound hclean (fun _ => rfl) rfl
  case start => exact aqvel_noExt_accepted hext hsound hclean (fun _ => rfl) (if_neg (by omega))
  case stop => exact aqvel_noExt_accepted hext hsound hclean (fun _ => rfl) (if_neg (by simpa using hlead))
  case time =>
    refine ⟨_, aqvel_noExt_accepted hext hsound hclean (fun _ => rfl) (if_neg (by omega)), rfl, rfl, rfl, rfl, rfl, ?_⟩
    simp [bit]
  case audit =>
    refine aqvel_noExt_accepted hext hsound hclean (fun _ => rfl) ?_
    rcases hrole with ⟨hrole, hlead, hfrom⟩ | ⟨hrole, hspare, hlead⟩
    · rw [hrole] at hregion
      simp [hrole, hlead, hfrom, hlog, hregion, hkind]
    · rw [hrole] at hregion
      simp [hrole, hlead, hspare, hlog, hregion, hkind]
  case notice =>
    subst hw
    refine aqvel_clean_acceptedThen (f := fun s => s.dropLaterStops (s.haltTickOf (arg c 0 8))) hsound hclean (fun _ => rfl)
      (noExt_of _ hext) ?_
    refine (if_neg (by omega)).trans ?_
    rw [hseal]

end Sys2Proof.Machine

/-! Frames. An operation that touches some parts of the state only leaves the state the same when those parts are taken away:
`P t = P s` for the function `P` that takes them away. A part outside them is then the same by `congrArg`. -/
namespace Sys2Proof.Machine

/-- The state without the controller's tables and what was sent out. -/
def State.offAq (s : State) : State := { s with aq := Aqvel.reset, out := [] }

/-- The state without the controller's tables, what was sent out, and the MSI-X tables with the rest of the host's side. -/
def State.offEvents (s : State) : State := { s.offAq with host := HostSide.reset }

theorem foldl_frame {α β : Type} {P : State → β} {f : State → α → State} (hf : ∀ s x, P (f s x) = P s) (l : List α)
    (s : State) : P (l.foldl f s) = P s := by
  induction l generalizing s with
  | nil => rfl
  | cons x l ih => rw [List.foldl_cons, ih, hf]

section offAq

variable (s : State)

@[simp] theorem State.onAq_offAq (f : Aqvel → Aqvel) : (s.onAq f).offAq = s.offAq := rfl
@[simp] theorem State.emit_offAq (o : Output) : (s.emit o).offAq = s.offAq := rfl
@[simp] theorem State.emits_offAq (os : List Output) : (s.emits os).offAq = s.offAq := rfl
@[simp] theorem State.addJob_offAq (opcode : Nat) (c : Slot) : (s.addJob opcode c).offAq = s.offAq := rfl

@[simp] theorem State.deliver_offAq (c : Slot) (gen : Nat) (e : Completion) : (s.deliver c gen e).offAq = s.offAq := by
  unfold State.deliver
  split
  · dsimp only
    split <;> rfl
  · rfl

@[simp] theorem State.remember_offAq (c : Slot) (gen : Nat) (e : Completion) : (s.remember c gen e).offAq = s.offAq := by
  unfold State.remember
  split <;> rfl

@[simp] theorem State.post_offAq (opcode : Nat) (c : Slot) (gen status detail result flags : Nat) (journaled : Bool) :
    (s.post opcode c gen status detail result flags journaled).offAq = s.offAq := by
  rw [State.post, State.deliver_offAq, State.remember_offAq]
  split <;> rfl

@[simp] theorem State.reject_offAq (opcode : Nat) (c : Slot) (status detail flags : Nat) (journaled : Bool) :
    (s.reject opcode c status detail flags journaled).offAq = s.offAq := by
  rw [State.reject, State.deliver_offAq]
  split <;> rfl

@[simp] theorem State.reply_offAq (opcode : Nat) (c : Slot) (status detail result : Nat) :
    (s.reply opcode c status detail result).offAq = s.offAq := State.post_offAq ..

@[simp] theorem State.accept_offAq (opcode : Nat) (c : Slot) : (s.accept opcode c).offAq = s.offAq := by
  rw [State.accept, State.addJob_offAq, State.reply_offAq]

@[simp] theorem State.endJob_offAq (j : Job) (status detail result : Nat) :
    (s.endJob j status detail result).offAq = s.offAq := State.post_offAq ..

@[simp] theorem State.endOp_offAq (opcode status detail result : Nat) :
    (s.endOp opcode status detail result).offAq = s.offAq := by
  unfold State.endOp
  split
  · exact State.endJob_offAq ..
  · rfl

@[simp] theorem State.abortJobs_offAq (f : Job → Bool) (detail result : Nat) :
    (s.abortJobs f detail result).offAq = s.offAq :=
  foldl_frame (fun s j => State.endJob_offAq s j ..) _ s

@[simp] theorem State.extWrite_offAq (c : Slot) (bs : List Byte) : (s.extWrite c bs).offAq = s.offAq := by
  unfold State.extWrite
  split <;> rfl

@[simp] theorem State.take_offAq (c : Slot) : (s.take c).offAq = s.offAq := by
  unfold State.take
  split <;> rfl

@[simp] theorem State.rememberSeq_offAq (c : Slot) : (s.rememberSeq c).offAq = s.offAq := by
  unfold State.rememberSeq
  split <;> rfl

@[simp] theorem State.taken_offAq (c : Slot) : (s.taken c).offAq = s.offAq := by
  rw [State.taken, State.rememberSeq_offAq, State.take_offAq]

@[simp] theorem State.wait_offAq (opcode : Nat) (c : Slot) : (s.wait opcode c).offAq = s.offAq := by
  unfold State.wait
  split
  · rfl
  · split_ifs
    · rfl
    · rfl
    · exact State.reject_offAq ..
    · rfl

end offAq

/-! ### The common path of the slots -/

section aqvel

variable {β : Type} {P : State → β}

/-- A reply whose state is the taken one but for parts that `P` takes away. -/
def Reply.Frame (P : State → β) (u : State) : Reply → Prop
  | .fail _ _ => True
  | .done _ _ t => P t = P u
  | .ended _ _ _ t => P t = P u
  | .accepted t => P t = P u
  | .acceptedThen t f => P t = P u ∧ ∀ v, P (f v) = P v
  | .doneThen _ _ t f => P t = P u ∧ ∀ v, P (f v) = P v

theorem guarded_frame {u : State} {c : Slot} {resv masks : List (Nat × Nat)} {k : Unit → Reply}
    (h : (k ()).Frame P u) : (guarded c resv masks k).Frame P u := by
  unfold guarded
  split
  · exact trivial
  · split
    · exact trivial
    · split
      · exact h
      · exact trivial

theorem readsExt_frame {u : State} {c : Slot} {k : List Byte → Reply} (h : ∀ b, (k b).Frame P u) :
    (readsExt u c k).Frame P u := by
  unfold readsExt
  split
  · exact trivial
  · exact h _

theorem writesExt_frame {u : State} {c : Slot} {bs : List Byte} {k : State → Reply}
    (h : ∀ v, v.offAq = u.offAq → (k v).Frame P u) : (writesExt u c bs k).Frame P u := by
  unfold writesExt
  split
  · exact trivial
  · exact h _ (State.extWrite_offAq ..)

variable (hP : ∀ x : State, P x.offAq = P x)
include hP

/-- What ignores the controller's tables and what was sent out is the same where those alone differ. -/
theorem frame_of_offAq {s t : State} (h : t.offAq = s.offAq) : P t = P s := by
  rw [← hP t, h, hP]

theorem State.answer_frame {u : State} {opcode : Nat} {c : Slot} {r : Reply} (h : r.Frame P u) :
    P (u.answer opcode c r) = P u := by
  have hreply (t : State) (st d x : Nat) : P (t.reply opcode c st d x) = P t :=
    frame_of_offAq hP (State.reply_offAq ..)
  have haccept (t : State) : P ((t.reply opcode c stAccepted 0 0).addJob opcode c) = P t :=
    frame_of_offAq hP (State.accept_offAq ..)
  cases r with
  | fail st d => exact hreply ..
  | done d x t => exact (hreply ..).trans h
  | ended st d x t => exact (hreply ..).trans h
  | accepted t => exact (haccept t).trans h
  | acceptedThen t f => exact (h.2 _).trans ((haccept t).trans h.1)
  | doneThen d x t f => exact (h.2 _).trans ((hreply ..).trans h.1)

theorem State.execute_frame {u : State} {opcode : Nat} {c : Slot} {allowed : State → Slot → Bool}
    {body : State → Slot → Reply} (h : (body u c).Frame P u) : P (u.execute opcode c allowed body) = P u := by
  have hreply (st d x : Nat) : P (u.reply opcode c st d x) = P u := frame_of_offAq hP (State.reply_offAq ..)
  unfold State.execute
  split_ifs
  · exact hreply ..
  · exact hreply ..
  · split
    · exact hreply ..
    · exact State.answer_frame hP h

theorem State.sequenced_frame {u : State} {opcode waited : Nat} {c : Slot} {k : State → State}
    (h : ∀ v, v.offAq = u.offAq → P (k v) = P v) : P (u.sequenced opcode c waited k) = P u := by
  have hreply (v : State) (st d x : Nat) : P (v.reply opcode c st d x) = P v :=
    frame_of_offAq hP (State.reply_offAq ..)
  have hgo (v : State) (hv : v.offAq = u.offAq) (late : Bool) :
      P (if late then v.reply opcode c stDeadline (min waited 0xFFFFFFFF) 0 else k v) = P v := by
    split
    · exact hreply ..
    · exact h v hv
  have hseq : P (u.rememberSeq c) = P u := frame_of_offAq hP (State.rememberSeq_offAq ..)
  unfold State.sequenced
  dsimp only
  split
  · exact hgo u rfl _
  · split
    · exact (hgo _ (State.rememberSeq_offAq ..) _).trans hseq
    · split
      · split
        · exact frame_of_offAq hP (State.deliver_offAq ..)
        · rfl
      · split
        · exact (hgo _ (State.rememberSeq_offAq ..) _).trans hseq
        · exact hreply ..

/-- A command slot changes the parts that its opcode's own part changes, and else the controller's tables and what was sent
out. -/
theorem aqvel_frame {opcode : Nat} {extOk : State → Slot → Bool} {kind : TargetKind} {allowed : State → Slot → Bool}
    {body : State → Slot → Reply} {c : Slot} {s t : State} (hbody : ∀ u, u.offAq = s.offAq → (body u c).Frame P u)
    (h : aqvel opcode extOk kind allowed body c s = .next t) : P t = P s := by
  have hreject (v : State) (st d fl : Nat) (jr : Bool) : P (v.reject opcode c st d fl jr) = P v :=
    frame_of_offAq hP (State.reject_offAq ..)
  have htake : P (s.take c) = P s := frame_of_offAq hP (State.take_offAq ..)
  have hchecked {k : State → State} {v : State} (hk : P (k v) = P v) : P (v.checked opcode c k) = P v := by
    unfold State.checked
    split_ifs
    · exact hreject ..
    · exact hreject ..
    · exact hk
  unfold aqvel at h
  split at h
  · obtain rfl := Host.Outcome.next.inj h
    exact frame_of_offAq hP (State.wait_offAq ..)
  · dsimp only at h
    split at h
    · obtain rfl := Host.Outcome.next.inj h
      exact (hreject ..).trans htake
    · obtain rfl := Host.Outcome.next.inj h
      refine (hchecked ?_).trans htake
      split_ifs
      · exact hreject ..
      · exact hreject ..
      · exact hreject ..
      · exact State.sequenced_frame hP fun w hw => State.execute_frame hP (hbody w (hw.trans (State.take_offAq ..)))

end aqvel

end Sys2Proof.Machine

/-! O54: what the command slots leave unchanged. -/
namespace Sys2Proof.Machine

section parts

variable {β : Type} {P : State → β} {c : Slot} {s t : State} (hP : ∀ x : State, P x.offAq = P x)
include hP

omit hP in
theorem ite_frame {u : State} {b : Prop} [Decidable b] {r r' : Reply} (h : r.Frame P u) (h' : r'.Frame P u) :
    (if b then r else r').Frame P u := by
  split
  · exact h
  · exact h'

theorem recordsReply_frame {u : State} {size : Nat} {l : List (Nat × List Byte)} {first count : Nat} :
    (recordsReply u c size l first count).Frame P u :=
  writesExt_frame fun _ => frame_of_offAq hP

theorem execGetInfo_frame (h : execGetInfo c s = .next t) : P t = P s :=
  aqvel_frame hP (fun _ _ => guarded_frame (writesExt_frame fun _ => frame_of_offAq hP)) h

theorem execGetState_frame (h : execGetState c s = .next t) : P t = P s := by
  refine aqvel_frame hP (fun u _ => guarded_frame ?_) h
  dsimp only
  split
  · rfl
  · exact writesExt_frame fun _ => frame_of_offAq hP

theorem execReadSelftest_frame (h : execReadSelftest c s = .next t) : P t = P s :=
  aqvel_frame hP (fun _ _ => guarded_frame (writesExt_frame fun _ => frame_of_offAq hP)) h

theorem execReadProfile_frame (h : execReadProfile c s = .next t) : P t = P s := by
  refine aqvel_frame hP (fun u _ => guarded_frame ?_) h
  dsimp only
  split
  · trivial
  · exact writesExt_frame fun _ => frame_of_offAq hP

theorem execLinkState_frame (h : execLinkState c s = .next t) : P t = P s := by
  refine aqvel_frame hP (fun u _ => guarded_frame ?_) h
  dsimp only
  split_ifs <;> trivial

theorem execReadEvents_frame (h : execReadEvents c s = .next t) : P t = P s :=
  aqvel_frame hP (fun _ _ => guarded_frame (recordsReply_frame hP)) h

theorem execReadCper_frame (h : execReadCper c s = .next t) : P t = P s :=
  aqvel_frame hP (fun _ _ => guarded_frame (recordsReply_frame hP)) h

theorem execReadJournal_frame (h : execReadJournal c s = .next t) : P t = P s :=
  aqvel_frame hP (fun _ _ => guarded_frame (recordsReply_frame hP)) h

theorem execSetProfile_frame (h : execSetProfile c s = .next t) : P t = P s := by
  refine aqvel_frame hP (fun u _ => guarded_frame ?_) h
  split_ifs <;> trivial

theorem execWriteProfile_frame (h : execWriteProfile c s = .next t) : P t = P s := by
  refine aqvel_frame hP (fun u _ => guarded_frame ?_) h
  dsimp only
  split
  · trivial
  · refine readsExt_frame fun b => ?_
    split <;> trivial

theorem execArm_frame (h : execArm c s = .next t) : P t = P s := by
  refine aqvel_frame hP (fun u _ => guarded_frame ?_) h
  exact rfl

theorem execReadPower_frame (hpower : ∀ x p, P { x with power := p } = P x) (h : execReadPower c s = .next t) :
    P t = P s := by
  refine aqvel_frame hP (fun _ _ => guarded_frame (writesExt_frame fun _ hv => ?_)) h
  exact (hpower ..).trans (frame_of_offAq hP hv)

theorem execReadThermal_frame (hpower : ∀ x p, P { x with power := p } = P x) (h : execReadThermal c s = .next t) :
    P t = P s := by
  refine aqvel_frame hP (fun _ _ => guarded_frame (writesExt_frame fun _ hv => ?_)) h
  exact (hpower ..).trans (frame_of_offAq hP hv)

theorem execLoadImage_frame {image : Option (List Byte)} (htrain : ∀ x f, P (x.onTrain f) = P x)
    (h : execLoadImage c image s = .next t) : P t = P s := by
  refine aqvel_frame hP (fun u _ => guarded_frame (readsExt_frame fun _ => ?_)) h
  split
  · trivial
  · exact htrain ..

theorem execStart_frame (htrain : ∀ x f, P (x.onTrain f) = P x) (h : execStart c s = .next t) : P t = P s := by
  refine aqvel_frame hP (fun u _ => guarded_frame ?_) h
  dsimp only
  split
  · trivial
  · exact (htrain ..).trans (frame_of_offAq hP (State.abortJobs_offAq ..))

theorem execStop_frame (htrain : ∀ x f, P (x.onTrain f) = P x) (h : execStop c s = .next t) : P t = P s := by
  refine aqvel_frame hP (fun u _ => guarded_frame ?_) h
  split
  · trivial
  · exact htrain ..

theorem execSetPolicy_frame (htrain : ∀ x f, P (x.onTrain f) = P x) (h : execSetPolicy c s = .next t) :
    P t = P s := by
  refine aqvel_frame hP (fun u _ => guarded_frame ?_) h
  dsimp only
  split_ifs
  · trivial
  · trivial
  · trivial
  · exact htrain ..
  · exact htrain ..

theorem execAudit_frame (htrain : ∀ x f, P (x.onTrain f) = P x) (h : execAudit c s = .next t) : P t = P s := by
  refine aqvel_frame hP (fun u _ => guarded_frame ?_) h
  dsimp only
  split_ifs
  · trivial
  · trivial
  · trivial
  · trivial
  · exact htrain ..

theorem execSelectVariant_frame (htrain : ∀ x f, P (x.onTrain f) = P x)
    (hvariant : ∀ u v, u.offAq = s.offAq → P (u.toVariant v) = P u) (h : execSelectVariant c s = .next t) : P t = P s := by
  refine aqvel_frame hP (fun u hu => guarded_frame ?_) h
  dsimp only
  split_ifs
  · trivial
  · trivial
  · exact htrain ..
  · exact hvariant _ _ hu

theorem execSetCoord_frame (hplace : ∀ x p, P { x with place := p } = P x) (h : execSetCoord c s = .next t) :
    P t = P s := by
  refine aqvel_frame hP (fun u _ => guarded_frame ?_) h
  split
  · trivial
  · exact hplace ..

theorem execSetSluice_frame (hbgp : ∀ x f, P (x.onBgp f) = P x) (h : execSetSluice c s = .next t) : P t = P s := by
  refine aqvel_frame hP (fun u _ => guarded_frame ?_) h
  dsimp only
  split_ifs
  · exact hbgp ..
  · trivial
  · trivial
  · exact hbgp ..

theorem execTimeArm_frame (htime : ∀ x f g, P ((x.onTime f).onPorts g) = P x) (h : execTimeArm c s = .next t) :
    P t = P s := by
  refine aqvel_frame hP (fun u _ => guarded_frame ?_) h
  dsimp only
  split
  · trivial
  · exact htime ..

theorem execRunVectors_frame (hvec : ∀ x v, P { x with vec := v } = P x) (h : execRunVectors c s = .next t) :
    P t = P s := by
  refine aqvel_frame hP (fun u _ => guarded_frame (readsExt_frame fun _ => ?_)) h
  split
  · trivial
  · exact hvec ..

theorem execPlotReconfig_frame {p : Option (List Byte)} (hplot : ∀ x n f, P (x.onPlot n f) = P x)
    (h : execPlotReconfig c p s = .next t) : P t = P s := by
  refine aqvel_frame hP (fun u _ => guarded_frame (readsExt_frame fun _ => ?_)) h
  split
  · trivial
  · trivial
  · split
    · trivial
    · split
      · trivial
      · exact hplot ..

theorem execFwStage_frame (hflash : ∀ x f, P { x with flash := f } = P x) (h : execFwStage c s = .next t) :
    P t = P s := by
  refine aqvel_frame hP (fun u _ => guarded_frame ?_) h
  refine ite_frame trivial (ite_frame trivial (ite_frame trivial (readsExt_frame fun _ => ?_)))
  exact ite_frame (hflash ..) (hflash ..)

theorem execFwActivate_frame (hflash : ∀ x f, P { x with flash := f } = P x) (hchip : ∀ x f, P { x with chip := f } = P x)
    (h : execFwActivate c s = .next t) : P t = P s := by
  refine aqvel_frame hP (fun u _ => guarded_frame ?_) h
  dsimp only
  split_ifs
  · trivial
  · trivial
  · exact hflash ..
  · trivial
  · exact hchip ..

theorem execRunSelftest_frame (hports : ∀ x f, P (x.onPorts f) = P x) (hchip : ∀ x f, P { x with chip := f } = P x)
    (h : execRunSelftest c s = .next t) : P t = P s := by
  refine aqvel_frame hP (fun u _ => guarded_frame ?_) h
  dsimp only
  split
  · trivial
  · split
    · trivial
    · refine (hchip ..).trans ?_
      split
      · exact hports ..
      · rfl

theorem execHamperRestore_frame (hhost : ∀ x f, P (x.onHost f) = P x) (h : execHamperRestore c s = .next t) :
    P t = P s := by
  refine aqvel_frame hP (fun u _ => guarded_frame ?_) h
  dsimp only
  split
  · trivial
  · split
    · split_ifs <;> trivial
    · split
      · trivial
      · split
        · trivial
        · split
          · trivial
          · exact (hhost ..).trans (frame_of_offAq hP (State.emit_offAq ..))

theorem State.dropSeal_frame (u : State) : P u.dropSeal = P u := by
  unfold State.dropSeal
  split
  · exact frame_of_offAq hP (State.endJob_offAq ..)
  · rfl

theorem State.failHamper_frame (hdrop : ∀ x : State, P x.dropHamper = P x) (u : State) (st d r : Nat) :
    P (u.failHamper st d r) = P u := by
  unfold State.failHamper
  split
  · rfl
  · dsimp only
    split
    · exact (frame_of_offAq hP (State.endOp_offAq ..)).trans (hdrop u)
    · exact hdrop u

theorem State.endHamper_frame (hdrop : ∀ x : State, P x.dropHamper = P x) (u : State) : P u.endHamper = P u :=
  (State.dropSeal_frame hP _).trans (State.failHamper_frame hP hdrop ..)

theorem State.toVariant_frame (htrain : ∀ x f, P (x.onTrain f) = P x) (hdrop : ∀ x : State, P x.dropHamper = P x)
    (u : State) (v : Nat) : P (u.toVariant v) = P u := by
  unfold State.toVariant
  refine (htrain ..).trans ?_
  split
  · exact State.endHamper_frame hP hdrop u
  · rfl

omit hP in
theorem State.toVariant_frame_of_not_draining (htrain : ∀ x f, P (x.onTrain f) = P x) {u : State}
    (hnone : u.snap.hamper.any (·.draining) = false) (v : Nat) : P (u.toVariant v) = P u := by
  unfold State.toVariant
  refine (htrain ..).trans ?_
  rw [hnone, Bool.and_false]
  rfl

end parts

/-- A state whose parts that SELECT_VARIANT may change are those of `s`. -/
def State.offVariant (s x : State) : State :=
  { x.offAq with train := s.train, snap := s.snap, host := s.host, bgp := s.bgp }

/-- Settles O54: each opcode's own part changes the parts that the statement names, and the common path of the slots no more
than the controller's tables and what is sent out. -/
theorem slotCommandsChangeOnlyTheirParts : Obligations.SlotCommandsChangeOnlyTheirParts := by
  unfold Obligations.SlotCommandsChangeOnlyTheirParts
  intro c p i s t h
  refine ⟨fun hi => ?_, fun hi => ?_, fun hi => ?_, ?_, ?_, ?_, ?_, ?_, ?_, ?_, ?_, ?_, ?_⟩
  · have key : State.offAq t = State.offAq s := by
      simp only [List.mem_cons, List.not_mem_nil, or_false] at hi
      rcases hi with rfl | rfl | rfl | rfl | rfl | rfl | rfl | rfl | rfl | rfl | rfl
      · exact execGetInfo_frame (fun _ => rfl) h
      · exact execGetState_frame (fun _ => rfl) h
      · exact execReadSelftest_frame (fun _ => rfl) h
      · exact execReadProfile_frame (fun _ => rfl) h
      · exact execLinkState_frame (fun _ => rfl) h
      · exact execReadEvents_frame (fun _ => rfl) h
      · exact execReadCper_frame (fun _ => rfl) h
      · exact execReadJournal_frame (fun _ => rfl) h
      · exact execSetProfile_frame (fun _ => rfl) h
      · exact execWriteProfile_frame (fun _ => rfl) h
      · exact execArm_frame (fun _ => rfl) h
    exact congrArg (fun x : State => { x with aq := t.aq, out := t.out }) key
  · have key : { t.offAq with power := s.power } = s.offAq := by
      simp only [List.mem_cons, List.not_mem_nil, or_false] at hi
      rcases hi with rfl | rfl
      · exact execReadPower_frame (P := fun x => { x.offAq with power := s.power }) (fun _ => rfl) (fun _ _ => rfl) h
      · exact execReadThermal_frame (P := fun x => { x.offAq with power := s.power }) (fun _ => rfl) (fun _ _ => rfl) h
    exact congrArg (fun x : State => { x with aq := t.aq, out := t.out, power := t.power }) key
  · have key : { t.offAq with train := s.train } = s.offAq := by
      simp only [List.mem_cons, List.not_mem_nil, or_false] at hi
      rcases hi with rfl | rfl | rfl | rfl | rfl
      · exact execLoadImage_frame (P := fun x => { x.offAq with train := s.train }) (fun _ => rfl) (fun _ _ => rfl) h
      · exact execStart_frame (P := fun x => { x.offAq with train := s.train }) (fun _ => rfl) (fun _ _ => rfl) h
      · exact execStop_frame (P := fun x => { x.offAq with train := s.train }) (fun _ => rfl) (fun _ _ => rfl) h
      · exact execSetPolicy_frame (P := fun x => { x.offAq with train := s.train }) (fun _ => rfl) (fun _ _ => rfl) h
      · exact execAudit_frame (P := fun x => { x.offAq with train := s.train }) (fun _ => rfl) (fun _ _ => rfl) h
    exact congrArg (fun x : State => { x with aq := t.aq, out := t.out, train := t.train }) key
  · rintro rfl
    refine ⟨?_, fun hnone => ?_⟩
    · exact congrArg (fun x : State =>
          { x with aq := t.aq, out := t.out, train := t.train, snap := t.snap, host := t.host, bgp := t.bgp })
        (execSelectVariant_frame (P := State.offVariant s) (fun _ => rfl) (fun _ _ => rfl)
          (fun u v _ => State.toVariant_frame (fun _ => rfl) (fun _ _ => rfl) (fun _ => rfl) u v) h)
    · refine congrArg (fun x : State => { x with aq := t.aq, out := t.out, train := t.train })
        (execSelectVariant_frame (P := fun x => { x.offAq with train := s.train }) (fun _ => rfl) (fun _ _ => rfl)
          (fun u v hu => ?_) h)
      have hsnap : u.snap = s.snap := congrArg (·.snap) hu
      exact State.toVariant_frame_of_not_draining (P := fun x => { x.offAq with train := s.train })
        (fun _ _ => rfl) (hsnap ▸ hnone) v
  · rintro rfl
    exact congrArg (fun x : State => { x with aq := t.aq, out := t.out, place := t.place })
      (execSetCoord_frame (P := fun x => { x.offAq with place := s.place }) (fun _ => rfl) (fun _ _ => rfl) h)
  · rintro rfl
    exact congrArg (fun x : State => { x with aq := t.aq, out := t.out, bgp := t.bgp })
      (execSetSluice_frame (P := fun x => { x.offAq with bgp := s.bgp }) (fun _ => rfl) (fun _ _ => rfl) h)
  · rintro rfl
    exact congrArg (fun x : State => { x with aq := t.aq, out := t.out, time := t.time, ports := t.ports })
      (execTimeArm_frame (P := fun x => { x.offAq with time := s.time, ports := s.ports }) (fun _ => rfl) (fun _ _ _ => rfl) h)
  · rintro rfl
    exact congrArg (fun x : State => { x with aq := t.aq, out := t.out, vec := t.vec })
      (execRunVectors_frame (P := fun x => { x.offAq with vec := s.vec }) (fun _ => rfl) (fun _ _ => rfl) h)
  · rintro rfl
    exact congrArg (fun x : State => { x with aq := t.aq, out := t.out, plots := t.plots })
      (execPlotReconfig_frame (P := fun x => { x.offAq with plots := s.plots }) (fun _ => rfl) (fun _ _ _ => rfl) h)
  · rintro rfl
    exact congrArg (fun x : State => { x with aq := t.aq, out := t.out, flash := t.flash })
      (execFwStage_frame (P := fun x => { x.offAq with flash := s.flash }) (fun _ => rfl) (fun _ _ => rfl) h)
  · rintro rfl
    exact congrArg (fun x : State => { x with aq := t.aq, out := t.out, flash := t.flash, chip := t.chip })
      (execFwActivate_frame (P := fun x => { x.offAq with flash := s.flash, chip := s.chip }) (fun _ => rfl) (fun _ _ => rfl)
        (fun _ _ => rfl) h)
  · rintro rfl
    exact congrArg (fun x : State => { x with aq := t.aq, out := t.out, chip := t.chip, ports := t.ports })
      (execRunSelftest_frame (P := fun x => { x.offAq with chip := s.chip, ports := s.ports }) (fun _ => rfl) (fun _ _ => rfl)
        (fun _ _ => rfl) h)
  · rintro rfl
    exact congrArg (fun x : State => { x with aq := t.aq, out := t.out, host := t.host })
      (execHamperRestore_frame (P := fun x => { x.offAq with host := s.host }) (fun _ => rfl) (fun _ _ => rfl) h)

end Sys2Proof.Machine

/-! What events, error records and the end of a run leave unchanged. -/
namespace Sys2Proof.Machine

/-- The state without what events and error records write: the controller's tables, the host's side, what was sent out, and
the records that configuration flash keeps. -/
def State.offRecords (s : State) : State := { s.offEvents with flash := { s.flash with cper := [], cperCount := 0 } }

/-- A run without its faults. -/
def Run.offFaults (r : Run) : Run := { r with faults := [] }

/-- The state without what events and error records write, and without the faults of the run in progress and the mark that the
run before it is settled. -/
def State.offSettle (s : State) : State := { s.offRecords with
  train := { s.train with settled := true, run := s.train.run.map Run.offFaults } }

section frames

variable (s : State)

theorem State.offEvents_of_offAq {s t : State} (h : t.offAq = s.offAq) : t.offEvents = s.offEvents :=
  frame_of_offAq (P := State.offEvents) (fun _ => rfl) h

theorem State.offRecords_of_offEvents {s t : State} (h : t.offEvents = s.offEvents) : t.offRecords = s.offRecords :=
  congrArg (fun x : State => { x with flash := { x.flash with cper := [], cperCount := 0 } }) h

theorem State.offSettle_of_offRecords {s t : State} (h : t.offRecords = s.offRecords) : t.offSettle = s.offSettle :=
  congrArg (fun x : State => { x with train := { x.train with settled := true, run := x.train.run.map Run.offFaults } }) h

@[simp] theorem State.signal_offEvents (fn vec : Nat) : (s.signal fn vec).offEvents = s.offEvents := by
  unfold State.signal
  split
  · rfl
  · split <;> rfl

@[simp] theorem State.signalEvent_offEvents : s.signalEvent.offEvents = s.offEvents :=
  foldl_frame (fun s fn => State.signal_offEvents s fn 0) _ s

@[simp] theorem State.eventOf_offEvents (step code kind idx : Nat) (params : List Byte) :
    (s.eventOf step code kind idx params).offEvents = s.offEvents :=
  (State.signalEvent_offEvents _).trans (State.offEvents_of_offAq (State.onAq_offAq ..))

@[simp] theorem State.event_offEvents (code kind idx : Nat) (params : List Byte) :
    (s.event code kind idx params).offEvents = s.offEvents :=
  State.eventOf_offEvents ..

@[simp] theorem State.writeRecord_offRecords (f : FaultRec) (outcome : Nat) :
    (s.writeRecord f outcome).offRecords = s.offRecords := rfl

theorem State.event_offRecords (code kind idx : Nat) (params : List Byte) :
    (s.event code kind idx params).offRecords = s.offRecords :=
  State.offRecords_of_offEvents (State.event_offEvents ..)

@[simp] theorem State.notice_offRecords (kind : Nat) (w : Site) (outcome plot : Nat) :
    (s.notice kind w outcome plot).offRecords = s.offRecords :=
  (State.writeRecord_offRecords ..).trans (State.event_offRecords ..)

theorem State.writeRecords_offRecords {α : Type} (l : List α) (f : State → α → FaultRec) (outcome : State → α → Nat) :
    (l.foldl (fun s x => s.writeRecord (f s x) (outcome s x)) s).offRecords = s.offRecords :=
  foldl_frame (fun _ _ => State.writeRecord_offRecords ..) l s

theorem State.settled_offSettle : (s.onTrain fun t => { t with settled := true }).offSettle = s.offSettle := rfl

@[simp] theorem State.settlePrev_offSettle : s.settlePrev.offSettle = s.offSettle := by
  unfold State.settlePrev
  split
  · rfl
  · split
    · rfl
    · exact (State.settled_offSettle _).trans
        (State.offSettle_of_offRecords (State.writeRecords_offRecords s _ (fun _ f => f) _))

@[simp] theorem State.forgetFaults_offSettle : (s.onRun Run.offFaults).offSettle = s.offSettle := by
  cases h : s.train.run <;>
    simp [State.offSettle, State.onRun, State.onTrain, State.offRecords, State.offEvents, State.offAq, Run.offFaults, h]

/-- The records of the faults in `l` written, and the run's faults forgotten. -/
theorem State.clearFaults_offSettle (l : List FaultRec) (outcome : State → FaultRec → Nat) :
    ((l.foldl (fun s f => s.writeRecord f (outcome s f)) s).onRun Run.offFaults).offSettle = s.offSettle :=
  (State.forgetFaults_offSettle _).trans
    (State.offSettle_of_offRecords (State.writeRecords_offRecords s l (fun _ f => f) outcome))

@[simp] theorem State.settle_offSettle (limit : Bool) : (s.settle limit).offSettle = s.offSettle := by
  unfold State.settle
  dsimp only
  split
  · exact State.settlePrev_offSettle s
  · split
    · exact (State.clearFaults_offSettle _ _ fun _ f => if f.left then 4 else 5).trans (State.settlePrev_offSettle s)
    · exact State.settlePrev_offSettle s

@[simp] theorem State.closeRun_offSettle : s.closeRun.offSettle = s.offSettle := by
  unfold State.closeRun
  dsimp only
  split
  · exact State.settlePrev_offSettle s
  · exact (State.clearFaults_offSettle _ _ fun s f => f.outcome s.train.prev).trans (State.settlePrev_offSettle s)

/-- The run after what `offSettle` forgets has changed: the same run, but for its faults. -/
theorem State.run_of_offSettle {s t : State} {r : Run} (h : t.offSettle = s.offSettle) (hr : s.train.run = some r) :
    ∃ q, t.train.run = some q ∧ q.offFaults = r.offFaults := by
  have hrun : t.train.run.map Run.offFaults = s.train.run.map Run.offFaults :=
    congrArg (fun x => x.train.run) h
  rw [hr, Option.map_some, Option.map_eq_some_iff] at hrun
  exact hrun

end frames

/-! O51: a step on an empty queue. O1 and O48. -/

/-- Settles O1. -/
theorem stepRunsTheFrontCommand : Obligations.StepRunsTheFrontCommand := by
  unfold Obligations.StepRunsTheFrontCommand
  intro c rest s h
  rw [step, h]

/-- Settles O48: fabric time starts at cycle 0, the logs start empty, and so do HBM and every tile's SRAM. -/
theorem resetHasTheInvariant : Obligations.ResetHasTheInvariant := by
  unfold Obligations.ResetHasTheInvariant
  refine ⟨show 0 < 1024 by decide, ⟨by decide, by decide⟩, by decide, fun t ht => ?_⟩
  obtain rfl := List.eq_of_mem_replicate ht
  decide

/-! ### A run that is decided -/

/-- A run that is decided: whether its vote phase has ended, its final word and its judgement. -/
def Run.Decided (r : Run) (ended : Bool) (final : Option VoteWord) (passed : Option Bool) : Prop :=
  r.phaseOver = ended ∧ r.due = none ∧ r.final = final ∧ r.passed = passed

/-- The run in progress is decided, and whether the plot parks at its boundary. -/
def State.RunDecided (s : State) (ended : Bool) (final : Option VoteWord) (passed : Option Bool) (park : Bool) : Prop :=
  ∃ q, s.train.run = some q ∧ q.Decided ended final passed ∧ s.train.mustPark = park

theorem Run.Decided.of_offFaults {q r : Run} {ended : Bool} {final : Option VoteWord} {passed : Option Bool}
    (h : r.Decided ended final passed) (hq : q.offFaults = r.offFaults) : q.Decided ended final passed := by
  obtain ⟨hended, hdue, hfinal, hpassed⟩ := h
  exact ⟨(congrArg (·.phaseOver) hq).trans hended, (congrArg (·.due) hq).trans hdue,
    (congrArg (·.final) hq).trans hfinal, (congrArg (·.passed) hq).trans hpassed⟩

section decided

variable {s t : State} {ended park : Bool} {final : Option VoteWord} {passed : Option Bool}

theorem State.RunDecided.of_offSettle (h : s.RunDecided ended final passed park) (ht : t.offSettle = s.offSettle) :
    t.RunDecided ended final passed park := by
  obtain ⟨q, hq, hd, hpark⟩ := h
  obtain ⟨p, hp, hpq⟩ := State.run_of_offSettle ht hq
  exact ⟨p, hp, hd.of_offFaults hpq, (congrArg (·.train.mustPark) ht).trans hpark⟩

theorem State.RunDecided.voteFailed (h : s.RunDecided ended final passed park) (w : Option VoteWord) :
    (s.voteFailed w).RunDecided ended final passed park :=
  State.RunDecided.of_offSettle (s := s.onTrain _) (by exact h) (State.settle_offSettle _ _)

/-- A run that nothing has decided is decided by a final word (R294). -/
theorem State.voteDecide_decided {r : Run} (w : VoteWord) (hr : s.train.run = some r) (hp : r.passed = none) :
    (s.voteDecide w).RunDecided r.phaseOver (some w) (some (s.votePasses w)) s.train.mustPark := by
  unfold State.voteDecide
  rw [hr]
  dsimp only
  rw [hp, Option.isSome_none, if_neg (by decide)]
  generalize hu : s.event _ 4 0 (w.bytes 0 ++ leBytes 1 r.idx) = u
  have htrain : u.train = s.train := by
    rw [← hu]
    exact congrArg (·.train) (State.event_offEvents ..)
  generalize hv : u.onRun _ = v
  have hvd : v.RunDecided r.phaseOver (some w) (some (s.votePasses w)) s.train.mustPark := by
    rw [← hv, State.onRun, State.onTrain, htrain]
    exact ⟨_, congrArg (Option.map _) hr, ⟨rfl, rfl, rfl, rfl⟩, rfl⟩
  split
  · exact hvd.of_offSettle (State.settle_offSettle v false)
  · exact hvd.voteFailed _

end decided

section vote

variable {β : Type} {P : State → β} (hP : ∀ x : State, P x.offRecords = P x) (htrain : ∀ x f, P (x.onTrain f) = P x)

include hP in
/-- What ignores what events and error records write is the same where that alone differs. -/
theorem frame_of_offRecords {s t : State} (h : t.offRecords = s.offRecords) : P t = P s := by
  rw [← hP t, h, hP]

include hP htrain

theorem State.settle_frame (s : State) (limit : Bool) : P (s.settle limit) = P s := by
  have hoff (x : State) : P x.offSettle = P x := (htrain x.offRecords fun _ => x.offSettle.train).trans (hP x)
  rw [← hoff, State.settle_offSettle, hoff]

theorem State.voteDecide_frame (s : State) (w : VoteWord) : P (s.voteDecide w) = P s := by
  have hevent (code kind idx : Nat) (params : List Byte) : P (s.event code kind idx params) = P s :=
    frame_of_offRecords hP (State.event_offRecords ..)
  unfold State.voteDecide
  split
  · rfl
  · split
    · rfl
    · dsimp only
      split
      · exact (State.settle_frame hP htrain _ _).trans ((htrain ..).trans (hevent ..))
      · exact (State.settle_frame hP htrain _ _).trans ((htrain ..).trans ((htrain ..).trans (hevent ..)))

theorem State.writeDue_frame (s : State) : P s.writeDue = P s := by
  unfold State.writeDue
  split
  · split
    · exact State.voteDecide_frame hP htrain s _
    · rfl
  · rfl

end vote

theorem State.writeDue_of_none {s : State} (h : s.train.run.bind (·.due) = none) : s.writeDue = s := by
  unfold State.writeDue
  rw [h]

theorem State.cycle_time (s : State) : s.cycle.time = s.time.next :=
  State.writeDue_frame (P := State.time) (fun _ => rfl) (fun _ _ => rfl) _

theorem State.cycle_mem (s : State) : s.cycle.mem = s.mem :=
  State.writeDue_frame (P := State.mem) (fun _ => rfl) (fun _ _ => rfl) _

/-- The final word that is due decides the run in the cycle that it is due (R293, R295). -/
theorem State.cycle_run {s : State} {r : Run} {w : VoteWord} {at_ : Nat} (hr : s.train.run = some r)
    (hd : r.due = some (w, at_, false)) (hp : r.passed = none) (hat : at_ ≤ s.cycle.fabricCycle) :
    ∃ q, s.cycle.train.run = some q ∧ q.due = none ∧ q.final = some w ∧ q.passed = some (s.votePasses w) := by
  generalize hu : ({ s with
    time := s.time.next
    plots := if s.chip.profile == 0 then s.plots else s.plots.map Plot.tickOn } : State) = u
  have hfab : s.cycle.fabricCycle = u.fabricCycle := by
    rw [State.fabricCycle, State.fabricCycle, State.cycle_time, ← hu]
  have hur : u.train.run = some r := by rw [← hu, ← hr]
  have hcycle : s.cycle = u.voteDecide w := by
    rw [State.cycle, hu, State.writeDue, hur, Option.bind_some, hd]
    exact if_pos (by simpa using hfab ▸ hat)
  have hpass : s.votePasses w = u.votePasses w := by rw [← hu]; rfl
  rw [hcycle, hpass]
  obtain ⟨q, hq, ⟨-, hd⟩, -⟩ := State.voteDecide_decided w hur hp
  exact ⟨q, hq, hd⟩

/-- Settles O51: the counts are those of the time block alone, and deciding a vote leaves them and memory as they are. -/
theorem anEmptyQueueIsOneCycle : Obligations.AnEmptyQueueIsOneCycle := by
  unfold Obligations.AnEmptyQueueIsOneCycle
  intro s h
  refine ⟨s.cycle, by rw [step, h], ?_, State.cycle_mem s, ?_, ?_, ?_, ?_, ?_⟩
  · rw [State.cycle_time, TimeBlock.next]
    dsimp only
    split_ifs <;> rfl
  · intro hnone
    rw [State.cycle, State.writeDue_of_none (by exact hnone)]
    exact ⟨rfl, rfl, rfl⟩
  · intro r w at_ hr hd hp hat
    exact State.cycle_run hr hd hp hat
  · intro hv
    simp [State.cycle_time, TimeBlock.next, hv]
  · intro hv hc
    have hne : s.time.cycle ≠ 1023 := by omega
    simp [State.cycle_time, TimeBlock.next, hv, hne]
  · intro hv hc
    simp [State.cycle_time, TimeBlock.next, hv, hc]

end Sys2Proof.Machine

/-! O16: the queue pairs. -/
namespace Sys2Proof.Machine

/-- Only what a change makes of the element itself matters. -/
theorem modifyAt_congr {α : Type} {l : List α} {i : Nat} {d : α} {f g : α → α} (h : f (nth l i d) = g (nth l i d)) :
    modifyAt l i f = modifyAt l i g := by
  refine List.ext_getElem? fun k => ?_
  rw [modifyAt, modifyAt, List.getElem?_modify, List.getElem?_modify]
  by_cases hk : i = k
  · subst hk
    rw [nth, List.getD_eq_getElem?_getD] at h
    cases hl : l[i]? with
    | none => simp
    | some x => simpa [hl] using h
  · simp [hk]

theorem State.onPair_congr {s : State} {n : Nat} {f g : Pair → Pair} (h : f (s.pair n) = g (s.pair n)) :
    s.onPair n f = s.onPair n g :=
  congrArg (fun l => s.onAq fun a => { a with pairs := l }) (modifyAt_congr h)

/-- The size that the ring's arithmetic divides by is the ring's own where an index lies in the ring. -/
theorem max_one_of_lt {v size : Nat} (h : v < size) : max size 1 = size := by omega

theorem not_gt_seven {n : Nat} (h : n ≤ 7) : ¬ n > 7 := by omega

section pairs

variable {n : Nat} {v : W32} {s : State} (hn : n ≤ 7)

include hn

theorem exec_mgtQueueEnable : exec (.mgtQueueEnable n) s = .next (s.pairEnable n) := if_neg (not_gt_seven hn)

theorem exec_mgtQueueDisable : exec (.mgtQueueDisable n) s = .next (s.pairDisable n) := if_neg (not_gt_seven hn)

theorem exec_mgtCqheadWrite : exec (.mgtCqheadWrite n v) s = .next (s.cqHeadTo n v) := if_neg (not_gt_seven hn)

theorem exec_mgtSqtailDoorbell : exec (.mgtSqtailDoorbell n v true) s = .next (s.sqDoorbell n v) := by
  refine (if_neg (not_gt_seven hn)).trans (if_neg ?_)
  simp

theorem exec_mgtSqtailDoorbell_unreadable (hr : (s.pair n).running) :
    exec (.mgtSqtailDoorbell n v false) s = .next (s.pairFault n) :=
  (if_neg (not_gt_seven hn)).trans (if_pos (by simp [hr]))

end pairs

section effects

variable {n : Nat} {v : W32} {s : State}

theorem State.pairEnable_starts (hr : (s.pair n).running = false) (he : s.pairExists n) (hv : (s.pair n).valid) :
    s.pairEnable n = { s with aq := { s.aq with
      pairs := s.aq.pairs.modify n (fun p => { p with
        sqHead := 0, sqTail := 0, cqHead := 0, cqTail := 0, running := true, gen := p.gen + 1, waiting := [], visible := [] }),
      memory := s.aq.memory.filter (fun r => decide (r.src ≠ .pair n)) } } := by
  have hsrc : (fun r : Remembered => !(r.src == Source.pair n)) = fun r => decide (r.src ≠ .pair n) := by
    funext r
    rw [decide_not, beq_eq_decide]
  simp [State.pairEnable, hr, he, hv, State.onPair, State.onAq, modifyAt, hsrc]

theorem State.pairEnable_configErr (hr : (s.pair n).running = false) (he : s.pairExists n)
    (hv : (s.pair n).valid = false) : s.pairEnable n = s.onPair n (fun p => { p with configErr := true }) := by
  simp [State.pairEnable, hr, he, hv]

theorem State.pairEnable_running (hr : (s.pair n).running) : s.pairEnable n = s := by
  simp [State.pairEnable, hr]

theorem State.sqDoorbell_moves {size more : Nat} (hr : (s.pair n).running) (hsize : size = (s.pair n).sqSize.toNat)
    (hv : v.toNat < size) (hmore : more = (v.toNat + size - (s.pair n).sqTail.toNat) % size)
    (hfit : (s.pair n).visible.length + more ≤ size - 1) : s.sqDoorbell n v = s.onPair n (fun p =>
      { p with sqTail := v, visible := p.visible ++ List.replicate more s.time.cyc }) := by
  unfold State.sqDoorbell
  dsimp only
  rw [← hsize, max_one_of_lt hv, ← hmore]
  exact if_pos (by simp [hr, hv, hfit])

theorem State.cqHeadTo_moves {size : Nat} (hr : (s.pair n).running) (hsize : size = (s.pair n).cqSize.toNat)
    (hv : v.toNat < size) (hle : (v.toNat + size - (s.pair n).cqHead.toNat) % size
      ≤ ((s.pair n).cqTail.toNat + size - (s.pair n).cqHead.toNat) % size) :
    s.cqHeadTo n v = s.onPair n (fun p => { p with cqHead := v }) := by
  unfold State.cqHeadTo
  dsimp only
  rw [← hsize, max_one_of_lt hv]
  exact if_pos (by simp [hr, hv, hle])

theorem State.sqDoorbell_stopped (hr : (s.pair n).running = false) : s.sqDoorbell n v = s := by
  simp [State.sqDoorbell, hr]

theorem State.cqHeadTo_stopped (hr : (s.pair n).running = false) : s.cqHeadTo n v = s := by
  simp [State.cqHeadTo, hr]

end effects

/-- A completion delivered (R362): the entry, then the tail's write-back, then the vector's signal. -/
theorem exec_completionWrite {n : Nat} {s : State} {w : Waiting} {rest : List Waiting} (hn : n ≤ 7)
    (hr : (s.pair n).running) (hw : (s.pair n).waiting = w :: rest) (hfree : 0 < (s.pair n).ringFree) :
    ∀ (fn : Nat) (t u : State) (p : Pair), p = s.pair n → fn = (if n ≤ 3 then 0 else n - 3) →
      t = s.onPair n (fun p => { p with
        cqTail := BitVec.ofNat 32 ((p.cqTail.toNat + 1) % p.cqSize.toNat), waiting := rest }) →
      u = t.emits [.hostWrite fn (p.cqBase.toNat + 32 * p.cqTail.toNat) w.entry.bytes,
        .hostWrite fn p.cqWb.toNat (leBytes 4 ((p.cqTail.toNat + 1) % p.cqSize.toNat) ++ zeros 4)] →
      exec (.completionWrite n true) s = .next (if w.signal then u.signal fn (if n ≤ 3 then n + 1 else 1) else u) := by
  rintro fn t u p rfl hfn rfl rfl
  have hsize : max (s.pair n).cqSize.toNat 1 = (s.pair n).cqSize.toNat := by
    rw [Pair.ringFree] at hfree
    omega
  have hgo : (!(s.pair n).running || (s.pair n).ringFree == 0) = false := by simp [hr, Nat.ne_of_gt hfree]
  refine (if_neg (not_gt_seven hn)).trans ?_
  dsimp only
  rw [hw]
  dsimp only
  rw [hgo, hsize, if_neg Bool.false_ne_true, if_neg (by simp), hfn, show srcFn (.pair n) = if n ≤ 3 then 0 else n - 3 from rfl,
    State.onPair_congr (s := s) (n := n) (f := fun p => { p with
      cqTail := BitVec.ofNat 32 ((p.cqTail.toNat + 1) % p.cqSize.toNat), waiting := rest })
      (g := fun p => { p with
        cqTail := BitVec.ofNat 32 (((s.pair n).cqTail.toNat + 1) % (s.pair n).cqSize.toNat), waiting := rest }) rfl]
  simp [State.emits, State.emit, State.onPair, State.onAq, pairVec]

/-- A completion that PCIe refuses stops the pair (R362). -/
theorem exec_completionWrite_refused {n : Nat} {s : State} {w : Waiting} {rest : List Waiting} (hn : n ≤ 7)
    (hr : (s.pair n).running) (hw : (s.pair n).waiting = w :: rest) (hfree : 0 < (s.pair n).ringFree) :
    exec (.completionWrite n false) s = .next (s.pairFault n) := by
  have hgo : (!(s.pair n).running || (s.pair n).ringFree == 0) = false := by simp [hr, Nat.ne_of_gt hfree]
  refine (if_neg (not_gt_seven hn)).trans ?_
  dsimp only
  rw [hw]
  dsimp only
  rw [hgo]
  rfl

/-- Settles O16: the effects of the pairs' registers, and a completion that is delivered or refused. -/
theorem queuePairsWork : Obligations.QueuePairsWork := by
  unfold Obligations.QueuePairsWork
  constructor
  · rintro n s p v size hn rfl
    refine ⟨?_, fun hr he hv => ?_, fun hr => ⟨?_, ?_⟩,
      exec_mgtSqtailDoorbell_unreadable hn, fun more hr hsize hv hmore hfit => ?_,
      fun hr hsize hv hle => ?_, fun hr => ⟨?_, ?_, ?_⟩⟩
    · rintro f rfl hr he hv
      rw [exec_mgtQueueEnable hn, State.pairEnable_starts hr he hv]
    · rw [exec_mgtQueueEnable hn, State.pairEnable_configErr hr he hv]
    · rw [exec_mgtQueueEnable hn, State.pairEnable_running hr]
    · rw [exec_mgtQueueDisable hn]
      exact congrArg _ (if_pos hr)
    · rw [exec_mgtSqtailDoorbell hn, State.sqDoorbell_moves hr hsize hv hmore hfit]
    · rw [exec_mgtCqheadWrite hn, State.cqHeadTo_moves hr hsize hv hle]
    · rw [exec_mgtQueueDisable hn]
      exact congrArg _ (if_neg (by simp [hr]))
    · rw [exec_mgtSqtailDoorbell hn, State.sqDoorbell_stopped hr]
    · rw [exec_mgtCqheadWrite hn, State.cqHeadTo_stopped hr]
  · rintro n s t p w rest hn rfl hr hw hfree ht
    exact ⟨fun fn hfn u hu => exec_completionWrite hn hr hw hfree fn t u _ rfl hfn ht hu,
      exec_completionWrite_refused hn hr hw hfree⟩

end Sys2Proof.Machine

/-! O19 and O20: reads that latch, and register writes. -/
namespace Sys2Proof.Machine

theorem not_gt_four {n : Nat} (h : n ≤ 4) : ¬ n > 4 := by omega

theorem nth_of_getElem? {α : Type} {l : List α} {i : Nat} {x d : α} (h : l[i]? = some x) : nth l i d = x := by
  rw [nth, List.getD_eq_getElem?_getD, h, Option.getD_some]

theorem modifyAt_of_getElem? {α : Type} {l : List α} {i : Nat} {x : α} (f : α → α) (h : l[i]? = some x) :
    modifyAt l i f = l.set i (f x) := by
  rw [modifyAt, List.modify_eq_set_getElem?, h]
  rfl

theorem nth_modifyAt_same {α : Type} {l : List α} {i : Nat} {d : α} (f : α → α) (h : i < l.length) :
    nth (modifyAt l i f) i d = f (nth l i d) := by
  simp [nth, modifyAt, List.getD_eq_getElem?_getD, h]

theorem nth_modifyAt_ne {α : Type} {l : List α} {i k : Nat} {d : α} (f : α → α) (h : k ≠ i) :
    nth (modifyAt l i f) k d = nth l k d := by
  simp [nth, modifyAt, List.getD_eq_getElem?_getD, h.symm]

/-! ### Latched reads -/

theorem W32.toNat_high (n : Nat) : (BitVec.ofNat 32 (n / 2 ^ 32)).toNat = n / 2 ^ 32 % 2 ^ 32 := BitVec.toNat_ofNat ..

/-- The blocks and windows that a VF does not have (Table 18.2). -/
theorem State.readReg_of_vf (s : State) {fn off : Nat} (hfn : 0 < fn)
    (hoff : off / 0x10000 ∈ [4, 5, 6] ∨ 0x100000 ≤ off) :
    s.readReg fn off = 0 := by
  have hne : (fn == 0) = false := by simp [Nat.ne_of_gt hfn]
  unfold State.readReg
  dsimp only
  rw [hne]
  simp only [List.mem_cons, List.not_mem_nil, or_false] at hoff
  rcases hoff with (h | h | h) | h
  · rw [h]; rfl
  · rw [h]; rfl
  · rw [h]; rfl
  · have hblk : 16 ≤ off / 0x10000 := by omega
    split
    case h_10 => rfl
    all_goals omega

/-- Settles O19: what the low half's read latches is what the later reads answer. -/
theorem latchedReadsAnswer : Obligations.LatchedReadsAnswer := by
  unfold Obligations.LatchedReadsAnswer
  intro fn n s hfn
  refine ⟨?_, ?_, ?_, fun off => State.readReg_of_vf s⟩
  · rintro rfl t rfl
    refine ⟨if_neg (not_gt_four hfn), ?_, rfl⟩
    change (if s.time.valid then (BitVec.ofNat 32 (_ / 2 ^ 32)).toNat else 0xFFFFFFFF) = _
    rw [W32.toNat_high]
    split
    · rfl
    · rfl
  · rintro rfl t rfl
    exact ⟨if_neg (not_gt_four hfn), W32.toNat_high _⟩
  · rintro rfl t rfl
    exact ⟨if_neg (not_gt_four hfn), W32.toNat_high _⟩

/-! ### Register writes -/

theorem State.freshSends_of_dma {s t : State} (h : t.dma = s.dma) : s.freshSends t = t := by
  unfold State.freshSends
  rw [h]
  refine if_neg ?_
  cases hst : s.dma.send.st == 0 <;> simp_all

/-- A 64-bit word is its two halves. -/
theorem word_halves (v : W64) : ((v >>> 32).setWidth 32 ++ v.setWidth 32 : BitVec (32 + 32)) = v := by
  refine BitVec.eq_of_toNat_eq ?_
  have hv := v.isLt
  rw [BitVec.toNat_append, ← Nat.shiftLeft_add_eq_or_of_lt (BitVec.isLt _), BitVec.toNat_setWidth, BitVec.toNat_setWidth,
    Nat.shiftLeft_eq, BitVec.toNat_ushiftRight, Nat.shiftRight_eq_div_pow]
  omega

theorem setHalf_low (r : W64) (v : W32) : setHalf r false v = (r.extractLsb' 32 32 ++ v : BitVec (32 + 32)) := by
  refine BitVec.eq_of_toNat_eq ?_
  have hr := r.isLt
  have hv := v.isLt
  rw [BitVec.toNat_append, ← Nat.shiftLeft_add_eq_or_of_lt v.isLt, BitVec.extractLsb'_toNat, Nat.shiftLeft_eq,
    Nat.shiftRight_eq_div_pow, setHalf, if_neg Bool.false_ne_true, BitVec.toNat_ofNat]
  omega

theorem setHalf_high (r : W64) (v : W32) : setHalf r true v = (v ++ r.extractLsb' 0 32 : BitVec (32 + 32)) := by
  refine BitVec.eq_of_toNat_eq ?_
  have hr := r.isLt
  have hv := v.isLt
  rw [BitVec.toNat_append, ← Nat.shiftLeft_add_eq_or_of_lt (BitVec.isLt _), BitVec.extractLsb'_toNat, Nat.shiftLeft_eq,
    Nat.shiftRight_eq_div_pow, setHalf, if_pos rfl, BitVec.toNat_ofNat]
  omega

section writes

variable {fn off : Nat} {v : W64} {s : State} (hfn : fn ≤ 4) (hon : fn ≤ s.host.vfs)
  (hheld : s.chip.held = ⟨false, false, false⟩)
include hfn hon hheld

theorem exec_registerWrite (w : Nat) :
    exec (.registerWrite fn off w v) s = .next (s.freshSends (s.writeAccess fn off w v State.sendAbort)) := by
  refine (if_neg (not_gt_four hfn)).trans (if_neg ?_)
  simp [hheld, State.fnOn, hon]

theorem exec_registerWrite_word (hoff : off % 4 = 0) : exec (.registerWrite fn off 4 v) s
    = .next (s.freshSends (s.writeReg fn off (v.setWidth 32) State.sendAbort)) := by
  rw [exec_registerWrite hfn hon hheld, State.writeAccess, if_pos (by simp [hoff])]

theorem exec_registerWrite_pair (hoff : off % 8 = 0) : exec (.registerWrite fn off 8 v) s
    = .next (s.freshSends ((s.writeReg fn off (v.setWidth 32) State.sendAbort).writeReg fn (off + 4)
      ((v >>> 32).setWidth 32) State.sendAbort)) := by
  rw [exec_registerWrite hfn hon hheld, State.writeAccess, if_neg (by simp), if_pos (by simp [hoff])]

theorem exec_registerWrite_other {w : Nat} (h4 : w ≠ 4 ∨ off % 4 ≠ 0) (h8 : w ≠ 8 ∨ off % 8 ≠ 0) :
    exec (.registerWrite fn off w v) s = .next s := by
  rw [exec_registerWrite hfn hon hheld, State.writeAccess, if_neg (by simpa [or_iff_not_imp_left] using h4),
    if_neg (by simpa [or_iff_not_imp_left] using h8), State.freshSends_of_dma (by rfl)]

end writes

section registers

variable (fn : Nat) (v : W32) (s : State) (abort : State → State)

theorem State.writeReg_timStatus : s.writeReg fn 0x3000C v abort = s.onTime (fun t => { t with
    beaconFail := t.beaconFail && !v.getLsbD 6, checkFail := t.checkFail && !v.getLsbD 5,
    refLost := t.refLost && !v.getLsbD 4 }) := rfl

theorem State.writeReg_lnkStatus {p : Nat} (hp : p < 10) : s.writeReg 0 (0x40000 + 0x40 * p) v abort
    = s.onPort p (fun q => { q with fault := q.fault && !v.getLsbD 12 }) := by
  have hblk : (0x40000 + 0x40 * p) / 0x10000 = 4 := by omega
  have ho : (0x40000 + 0x40 * p) % 0x10000 = 0x40 * p := by omega
  unfold State.writeReg
  dsimp only
  rw [hblk, ho]
  refine (if_pos (by simp; omega)).trans ?_
  rw [Nat.mul_div_cancel_left _ (by decide)]

theorem State.writeReg_apbaseLow : s.writeReg fn 0x70000 v abort = s.onHost (fun h => { h with
    apbase := modifyAt h.apbase fn (fun b => setHalf b false (v &&& 0xFFE00000)) }) := rfl

theorem State.writeReg_apbaseHigh : s.writeReg fn 0x70004 v abort = s.onHost (fun h => { h with
    apbase := modifyAt h.apbase fn (fun b => setHalf b true (v &&& 0xFFFF)) }) := rfl

theorem State.writeReg_msixControl {k : Nat} (hk : k < 0x800) :
    s.writeReg fn (0xF000C + 16 * k) v abort = s.writeMsix fn k 3 v := by
  have hblk : (0xF000C + 16 * k) / 0x10000 = 15 := by omega
  have ho : (0xF000C + 16 * k) % 0x10000 = 0xC + 16 * k := by omega
  have hvec : (0xC + 16 * k) / 16 = k := by omega
  have hdw : (0xC + 16 * k) % 16 / 4 = 3 := by omega
  unfold State.writeReg
  dsimp only
  rw [hblk, ho, hvec, hdw]
  exact if_pos (by omega)

/-- Unmasking a vector that has a message pending sends it (R438). -/
theorem State.writeMsix_unmask {k a d : Nat} {e : List (Nat × Nat × Bool × Bool)} (he : s.host.msix[fn]? = some e)
    (hk : e[k]? = some (a, d, true, true)) (hv : v.getLsbD 0 = false) : s.writeMsix fn k 3 v
      = (s.onHost (fun h => { h with msix := h.msix.set fn (e.set k (a, d, false, false)) })).emit (.msix fn k) := by
  unfold State.writeMsix
  rw [nth_of_getElem? he, hk]
  dsimp only
  rw [hv]
  simp [State.onHost, modifyAt_of_getElem? _ he]

end registers

/-- The two halves of APBASE written are the address, but for the bits that are always zero (R434). -/
theorem setHalf_apbase (b v : W64) : setHalf (setHalf b false (v.setWidth 32 &&& 0xFFE00000)) true
    ((v >>> 32).setWidth 32 &&& 0xFFFF) = v &&& 0x0000FFFFFFE00000 := by
  have hmask : (0x0000FFFFFFE00000 : W64) = (0xFFFF#32 ++ 0xFFE00000#32 : BitVec (32 + 32)) := by decide
  calc setHalf (setHalf b false (v.setWidth 32 &&& 0xFFE00000)) true ((v >>> 32).setWidth 32 &&& 0xFFFF)
    _ = (((v >>> 32).setWidth 32 &&& 0xFFFF#32) ++ (v.setWidth 32 &&& 0xFFE00000#32) : BitVec (32 + 32)) := by
      rw [setHalf_high, setHalf_low, BitVec.extractLsb'_append_eq_right]
      rfl
    _ = v &&& 0x0000FFFFFFE00000 := by rw [← BitVec.and_append, word_halves, hmask]

/-- Settles O20: where a write goes by width and alignment, and what the registers of the statement make of it. -/
theorem registerWritesReachTheirRegisters : Obligations.RegisterWritesReachTheirRegisters := by
  unfold Obligations.RegisterWritesReachTheirRegisters
  intro fn off w v s hfn hon hheld
  have hword (off : Nat) (hoff : off % 4 = 0) := exec_registerWrite_word (v := v) hfn hon hheld hoff
  refine ⟨hword off, exec_registerWrite_pair hfn hon hheld, exec_registerWrite_other hfn hon hheld, ?_, ?_, ?_, ?_⟩
  · rintro rfl
    rw [hword _ (by decide), State.writeReg_timStatus, State.freshSends_of_dma (by rfl)]
    simp [State.onTime]
  · rintro p hp rfl rfl
    rw [hword _ (by omega), State.writeReg_lnkStatus _ _ _ hp, State.freshSends_of_dma (by rfl)]
    simp
  · rintro rfl hlen
    rw [exec_registerWrite_pair hfn hon hheld (by decide), State.writeReg_apbaseLow, State.writeReg_apbaseHigh,
      State.freshSends_of_dma (by rfl)]
    refine ⟨_, rfl, ?_, rfl⟩
    change nth (modifyAt (modifyAt s.host.apbase fn _) fn _) fn 0 = _
    rw [nth_modifyAt_same _ (by simpa [modifyAt] using hlen), nth_modifyAt_same _ hlen, setHalf_apbase]
  · rintro k e a d rfl hk he hek hv
    rw [hword _ (by omega), State.writeReg_msixControl _ _ _ _ hk,
      State.writeMsix_unmask _ _ _ he hek (by simpa using hv), State.freshSends_of_dma (by rfl)]
    exact ⟨_, rfl, rfl, rfl⟩

end Sys2Proof.Machine

/-! O18: the send queue. -/
namespace Sys2Proof.Machine

section send

variable {s : State}

theorem DmaQueue.enable_stopped {d : DmaQueue} (h : d.st = 0) :
    d.enable = { d with head := 0, tail := 0, cTail := 0, st := 1, phase := true } := by
  simp [DmaQueue.enable, h]

theorem DmaQueue.enable_of_ne {d : DmaQueue} (h : d.st ≠ 0) : d.enable = d := by
  simp [DmaQueue.enable, h]

theorem DmaQueue.doorbell_running {d : DmaQueue} {v : W32} (h : d.st = 1) (hv : v.toNat < d.size.toNat) :
    d.doorbell v = { d with tail := v } := by
  simp [DmaQueue.doorbell, h, hv]

theorem DmaQueue.limit_of_ne_two {d : DmaQueue} (h : d.st ≠ 2) : d.limit = d.tail := by
  simp [DmaQueue.limit, h]

theorem DmaQueue.limit_draining {d : DmaQueue} (h : d.st = 2) : d.limit = d.drainTo := by
  simp [DmaQueue.limit, h]

/-- A queue that may start an entry: RUNNING or DRAINING before its limit. -/
theorem DmaQueue.starts {d : DmaQueue} (h : d.st = 1 ∧ d.head ≠ d.tail ∨ d.st = 2 ∧ d.head ≠ d.drainTo) :
    d.st ≠ 0 ∧ d.st ≠ 3 ∧ d.head ≠ d.limit := by
  obtain ⟨hst, hne⟩ | ⟨hst, hne⟩ := h
  · exact ⟨by omega, by omega, by rwa [DmaQueue.limit_of_ne_two (by omega)]⟩
  · exact ⟨by omega, by omega, by rwa [DmaQueue.limit_draining hst]⟩

/-- The send queue with its ring changed. -/
theorem State.onQ_send (f : DmaQueue → DmaQueue) :
    s.onQ 5 f = { s with dma := { s.dma with send := f s.dma.send } } := rfl

theorem State.drained_send (hst : s.dma.send.st = 2 ∨ s.dma.send.st = 3) : s.drained 5 = { s with dma := { s.dma with
    send := { s.dma.send with st := if s.dma.send.head = s.dma.send.limit ∧ s.dma.sendJobs = [] then 0
      else s.dma.send.st } } } := by
  have hend : (s.dma.send.st == 2 || s.dma.send.st == 3) = true := by simpa using hst
  have hq : s.dmaQ 5 = s.dma.send := rfl
  have hbusy : s.queueBusy 5 = !s.dma.sendJobs.isEmpty := rfl
  unfold State.drained
  dsimp only
  rw [hq, hbusy, hend, Bool.true_and, Bool.not_not]
  by_cases h : s.dma.send.head = s.dma.send.limit ∧ s.dma.sendJobs = []
  · rw [if_pos (by simp [h]), if_pos h, State.onQ_send]
    rfl
  · rw [if_neg (by simpa using h), if_neg h]

theorem exec_sendQueueDrain (hst : s.dma.send.st = 1) : exec .sendQueueDrain s = .next { s with dma := { s.dma with
    send := { s.dma.send with
      drainTo := s.dma.send.tail
      st := if s.dma.send.head = s.dma.send.tail ∧ s.dma.sendJobs = [] then 0 else 2 } } } := by
  refine congrArg Host.Outcome.next ?_
  rw [State.queueDrain, if_pos (by simp [State.dmaQ, hst]), State.onQ_send, State.drained_send (.inl rfl)]
  rfl

theorem State.sendAbort_of (hst : s.dma.send.st = 1 ∨ s.dma.send.st = 2) :
    s.sendAbort = ((s.onQ 5 (fun d => { d with st := 3 })).abortSends).drained 5 :=
  if_pos (by simpa using hst)

/-- An abort of a send queue with nothing in progress. -/
theorem State.sendAbort_idle (hst : s.dma.send.st = 1 ∨ s.dma.send.st = 2) (hjobs : s.dma.sendJobs = []) :
    s.sendAbort = { s with dma := { s.dma with send := { s.dma.send with
      st := if s.dma.send.head = s.dma.send.tail then 0 else 3 } } } := by
  have hnone : ((s.onQ 5 (fun d => { d with st := 3 })).abortSends) = s.onQ 5 (fun d => { d with st := 3 }) := by
    rw [State.abortSends, State.onQ_send, hjobs, List.foldl_nil]
  rw [State.sendAbort_of hst, hnone, State.onQ_send, State.drained_send (.inr rfl)]
  simp [hjobs, DmaQueue.limit]

section start

variable {e : SendEntry} {ok : Bool} (hlim : s.dma.send.st ≠ 0 ∧ s.dma.send.head ≠ s.dma.send.limit)
  (hjobs : s.dma.sendJobs.length < 256) (hstreams : s.bgp.streams.length < 4096)
include hlim hjobs hstreams

theorem sendStart_takes : (s.dma.send.st == 0 || s.dma.send.head == s.dma.send.limit
    || decide (s.dma.sendJobs.length ≥ 256) || decide (s.bgp.streams.length ≥ 4096)) = false := by
  simp [hlim.1, hlim.2, hjobs, hstreams]

/-- An entry that is refused at its start completes with the status of its refusal. -/
theorem exec_sendEntryStart_refused {st : Nat} (href : s.sendRefused e = some st) : exec (.sendEntryStart ⟨some e, ok⟩) s
    = .next (State.copyPost { s with dma := { s.dma with send := s.dma.send.next, sendNext := s.dma.sendNext + 1 } } 5
      s.dma.send.head.toNat e.tag.toNat e.signal st (b2n (st == stAborted)) 0 ok) := by
  refine (if_neg (by rw [sendStart_takes hlim hjobs hstreams]; exact Bool.false_ne_true)).trans ?_
  dsimp only
  rw [href]
  rfl

/-- An entry that is not refused opens a stream or waits as a fetch. -/
theorem exec_sendEntryStart_taken (href : s.sendRefused e = none) : ∀ u id,
    u = ({ s with dma := { s.dma with
      send := s.dma.send.next, sendNext := s.dma.sendNext + 1, sendJobs := s.dma.sendJobs ++ [(s.dma.sendNext, e)] } } : State) →
    id = u.pickId e.chip →
    exec (.sendEntryStart ⟨some e, ok⟩) s = .next (if e.kind = 0 then
        id.2.openStream (freshStream e.chip id.1 1 0 (ceilDiv e.b 224) e.localAddr e.b e.remote (.host s.dma.sendNext))
      else id.2.onBgp (fun b => { b with
        fetches := b.fetches ++ [⟨e.chip, id.1, e.remote, e.b, e.localAddr, s.dma.sendNext, true, 0, 0, 0, false⟩] })) := by
  rintro u id rfl rfl
  refine (if_neg (by rw [sendStart_takes hlim hjobs hstreams]; exact Bool.false_ne_true)).trans ?_
  dsimp only
  rw [href]
  by_cases hk : e.kind = 0
  · rw [if_pos hk]
    exact if_pos (beq_iff_eq.2 hk)
  · rw [if_neg hk]
    exact if_neg (mt beq_iff_eq.1 hk)

end start

theorem State.sendRefused_aborting {e : SendEntry} (h : s.dma.send.st = 3) : s.sendRefused e = some stAborted :=
  if_pos (beq_iff_eq.2 h)

theorem State.sendRefused_none {e : SendEntry} (h : s.dma.send.st ≠ 3) (hon : s.planeOn) (hbad : s.sendBad e = false) :
    s.sendRefused e = none := by
  simp [State.sendRefused, h, hon, hbad]

end send

/-- Settles O18: the queue's registers, its abort, and the start of an entry. -/
theorem theSendQueueStartsItsEntries : Obligations.TheSendQueueStartsItsEntries := by
  unfold Obligations.TheSendQueueStartsItsEntries
  rintro s d rfl
  refine ⟨fun hst => ?_, fun v hst hv => ?_, exec_sendQueueDrain, fun hst => congrArg _ (State.sendAbort_of hst),
    fun hst hjobs => congrArg _ (State.sendAbort_idle hst hjobs), ?_, ?_⟩
  · refine congrArg Host.Outcome.next ?_
    rw [if_pos (beq_iff_eq.2 hst), State.onQ_send, DmaQueue.enable_stopped hst]
  · refine congrArg Host.Outcome.next ?_
    rw [State.onQ_send, DmaQueue.doorbell_running hst hv]
  · rintro e u ok hst hne hjobs hstreams rfl
    have hlim : s.dma.send.st ≠ 0 ∧ s.dma.send.head ≠ s.dma.send.limit :=
      ⟨by omega, by rwa [DmaQueue.limit_of_ne_two (by omega)]⟩
    exact exec_sendEntryStart_refused hlim hjobs hstreams (State.sendRefused_aborting hst)
  · rintro e u id ok hst hjobs hstreams hu hon hbad hid
    obtain ⟨h0, h3, hlim⟩ := DmaQueue.starts hst
    exact exec_sendEntryStart_taken ⟨h0, hlim⟩ hjobs hstreams (State.sendRefused_none h3 hon hbad) u id hu hid

end Sys2Proof.Machine

/-! O17: the copy queues. -/
namespace Sys2Proof.Machine

/-! ### One queue changed, one job replaced -/

theorem State.onQ_copy (s : State) {q : Nat} (hq : q ≤ 4) (f : DmaQueue → DmaQueue) :
    s.onQ q f = { s with dma := { s.dma with queues := modifyAt s.dma.queues q f } } :=
  if_neg (by simp; omega)

theorem State.dmaQ_copy (s : State) {q : Nat} (hq : q ≤ 4) : s.dmaQ q = nth s.dma.queues q DmaQueue.reset :=
  if_neg (by simp; omega)

theorem State.onQ_congr {s : State} {q : Nat} {f g : DmaQueue → DmaQueue} (h : f (s.dmaQ q) = g (s.dmaQ q)) :
    s.onQ q f = s.onQ q g := by
  unfold State.dmaQ at h
  unfold State.onQ
  split
  · rw [if_pos ‹_›] at h
    rw [h]
  · rw [if_neg ‹_›] at h
    rw [modifyAt_congr h]

theorem State.onQ_of_eq {s : State} {q : Nat} {f : DmaQueue → DmaQueue} (h : f (s.dmaQ q) = s.dmaQ q) :
    s.onQ q f = s := by
  rw [State.onQ_congr (g := id) h, State.onQ]
  split
  · rfl
  · rw [modifyAt, List.modify_id]

section queue

variable (s : State) {q : Nat} (hq : q ≤ 4)

theorem State.dmaQ_onQ_same (hq : q ≤ 4) (hlen : q < s.dma.queues.length) (f : DmaQueue → DmaQueue) :
    (s.onQ q f).dmaQ q = f (s.dmaQ q) := by
  rw [State.onQ_copy s hq, State.dmaQ_copy _ hq, State.dmaQ_copy _ hq]
  exact nth_modifyAt_same f hlen

theorem State.dmaQ_onQ_ne (hq : q ≤ 4) {r : Nat} (hr : r ≠ q) (f : DmaQueue → DmaQueue) : (s.onQ q f).dmaQ r = s.dmaQ r := by
  rw [State.onQ_copy s hq]
  unfold State.dmaQ
  split
  · rfl
  · exact nth_modifyAt_ne f hr

theorem State.copyJob?_onQ (f : DmaQueue → DmaQueue) (r : Nat) : (s.onQ q f).copyJob? r = s.copyJob? r := by
  unfold State.onQ
  split <;> rfl

theorem State.queuePlot_onQ (f : DmaQueue → DmaQueue) (r : Nat) : (s.onQ q f).queuePlot r = s.queuePlot r := by
  unfold State.onQ
  split <;> rfl

@[simp] theorem State.copyJob?_setCopyJob (j : Option CopyJob) : (s.setCopyJob q j).copyJob? q = j := by
  have hrest : (s.dma.jobs.filter (fun x => x.1 != q)).find? (fun x => x.1 == q) = none := by
    simp [List.find?_eq_none]
  cases j with
  | none => exact congrArg (Option.map (·.2)) hrest
  | some j =>
    change Option.map (·.2) (List.find? _ (s.dma.jobs.filter _ ++ [(q, j)])) = some j
    rw [List.find?_append, hrest]
    simp

theorem State.queueBusy_copy (hq : q ≤ 4) : s.queueBusy q = (s.copyJob? q).isSome := by
  unfold State.queueBusy State.copyJob?
  rw [if_neg (by simp; omega)]
  induction s.dma.jobs with
  | nil => rfl
  | cons j l ih =>
    rw [List.any_cons, List.find?_cons, ih]
    cases j.1 == q <;> simp

/-- A draining or aborting queue without a job stops at its limit. -/
theorem State.dmaQ_drained (hq : q ≤ 4) (hlen : q < s.dma.queues.length) (hst : (s.dmaQ q).st = 2 ∨ (s.dmaQ q).st = 3) :
    (s.drained q).dmaQ q = { s.dmaQ q with
      st := if (s.dmaQ q).head = (s.dmaQ q).limit ∧ s.copyJob? q = none then 0 else (s.dmaQ q).st } := by
  have hend : ((s.dmaQ q).st == 2 || (s.dmaQ q).st == 3) = true := by simpa using hst
  unfold State.drained
  dsimp only
  rw [hend, Bool.true_and, State.queueBusy_copy s hq]
  by_cases h : (s.dmaQ q).head = (s.dmaQ q).limit ∧ s.copyJob? q = none
  · rw [if_pos (by simp [h]), if_pos h, State.dmaQ_onQ_same s hq hlen]
    rfl
  · rw [if_neg (by simpa using h), if_neg h]

end queue

/-! ### Starts -/

theorem ne_false_of {b : Bool} (h : b = false) : ¬ b = true := by simp [h]

section start

variable {s : State} {q k : Nat} {r : CopyStart} {e : CopyEntry}

section takes

variable (hq : q ≤ 4) (hst : (s.dmaQ q).st ≠ 0) (hne : (s.dmaQ q).head ≠ (s.dmaQ q).limit) (hjob : s.copyJob? q = none)
include hq hst hne hjob

omit hq in
theorem copyStart_takes : ¬ ((s.dmaQ q).st == 0 || (s.dmaQ q).head == (s.dmaQ q).limit || (s.copyJob? q).isSome) = true := by
  simp [hst, hne, hjob]

theorem exec_hostCopyEntryStart_unread (hr : r.entry = none) :
    exec (.hostCopyEntryStart q r) s = .next (s.onQ q (fun d => { d with st := 0, ringFault := true })) := by
  refine (if_neg (not_gt_four hq)).trans ((if_neg (copyStart_takes hst hne hjob)).trans ?_)
  rw [hr]
  rfl

theorem exec_hostCopyEntryStart_aborted (hab : (s.dmaQ q).st = 3) (hr : r.entry = some e) :
    exec (.hostCopyEntryStart q r) s = .next ((s.onQ q DmaQueue.next).copyPost q (s.dmaQ q).head.toNat e.tag.toNat
      e.signal stAborted 0 0 r.ringOk) := by
  refine (if_neg (not_gt_four hq)).trans ((if_neg (copyStart_takes hst hne hjob)).trans ?_)
  rw [hr]
  exact if_pos (beq_iff_eq.2 hab)

variable (hgo : (s.dmaQ q).st ≠ 3) (hplot : s.queuePlot q = some k) (hr : r.entry = some e)
  (hwait : s.copyWaits k e = false)
include hgo hplot hr hwait

theorem exec_hostCopyEntryStart_bad (hbad : s.entryRefused k e = some stBadParam) :
    exec (.hostCopyEntryStart q r) s = .next ((s.onQ q DmaQueue.next).copyPost q (s.dmaQ q).head.toNat e.tag.toNat
      e.signal stBadParam 0 0 r.ringOk) := by
  refine (if_neg (not_gt_four hq)).trans ((if_neg (copyStart_takes hst hne hjob)).trans ?_)
  rw [hr, hplot]
  refine (if_neg (mt beq_iff_eq.1 hgo)).trans ((if_neg (ne_false_of hwait)).trans ?_)
  rw [hbad]
  rfl

theorem exec_hostCopyEntryStart_taken (hok : s.entryRefused k e = none) : exec (.hostCopyEntryStart q r) s
    = .next ((s.onQ q DmaQueue.next).setCopyJob q (some ⟨e, 0, stDone, []⟩)) := by
  refine (if_neg (not_gt_four hq)).trans ((if_neg (copyStart_takes hst hne hjob)).trans ?_)
  rw [hr, hplot]
  refine (if_neg (mt beq_iff_eq.1 hgo)).trans ((if_neg (ne_false_of hwait)).trans ?_)
  rw [hok]

end takes

theorem State.entryRefused_bad (h : entryBad s k e) : s.entryRefused k e = some stBadParam := if_pos h

/-- A sound entry whose spans do not overlap, and whose destination the host may write. -/
theorem State.entryRefused_none (hbad : entryBad s k e = false)
    (happ : e.kind = 1 → e.dst + (permSpans e).2 ≤ e.src ∨ e.src + (permSpans e).1 ≤ e.dst)
    (hmay : e.kind = 3 ∨ s.hostMayWrite k e.dst (copySpans e).2) : s.entryRefused k e = none := by
  unfold State.entryRefused
  dsimp only
  rw [if_neg (ne_false_of hbad), if_neg ?overlap, if_neg ?may]
  case overlap =>
    intro h
    simp only [Bool.and_eq_true, beq_iff_eq, decide_eq_true_eq] at h
    obtain ⟨⟨hk, hsrc⟩, hdst⟩ := h
    rw [copySpans, if_pos (beq_iff_eq.2 hk)] at hsrc hdst
    have := happ hk
    omega
  case may =>
    obtain hk | hm := hmay
    · simp [hk]
    · simp [hm]

end start

/-! ### Moves -/

section moves

variable {s : State} {q k : Nat} {j : CopyJob}

/-- A move of a copy that goes on: the same entry, with its bytes counted. -/
theorem State.moveCopy_goes (hst : j.status = stDone) (hwait : s.copyWaits k j.entry = false)
    (hmay : j.entry.kind = 3 ∨ s.hostMayWrite k j.entry.dst (copySpans j.entry).2) (n : Nat) :
    ∃ i, (s.moveCopy q k j n).copyJob? q = some i ∧ i.entry = j.entry ∧ i.status = stDone ∧
      i.bytes = j.bytes + min n (j.entry.b - j.bytes) := by
  have hgo : (j.status != stDone || s.copyWaits k j.entry) = false := by simp [hst, hwait]
  have hwrite : (j.entry.kind != 3 && !s.hostMayWrite k j.entry.dst (copySpans j.entry).2) = false := by
    obtain hk | hm := hmay
    · simp [hk]
    · simp [hm]
  unfold State.moveCopy
  dsimp only
  rw [if_neg (ne_false_of hgo), if_neg (ne_false_of hwrite)]
  exact ⟨_, State.copyJob?_setCopyJob .., rfl, hst, rfl⟩

/-- A move leaves the queue its job, with the same entry. -/
theorem State.moveCopy_entry (hj : s.copyJob? q = some j) (n : Nat) :
    ∃ i, (s.moveCopy q k j n).copyJob? q = some i ∧ i.entry = j.entry := by
  unfold State.moveCopy
  dsimp only
  split
  · exact ⟨j, hj, rfl⟩
  · split
    · exact ⟨_, State.copyJob?_setCopyJob .., rfl⟩
    · exact ⟨_, State.copyJob?_setCopyJob .., rfl⟩

/-- What is left of a copy moved leaves the queue its job, with the same entry. -/
theorem finishCopy_entry (stop fuel : Nat) (hj : s.copyJob? q = some j) :
    ∃ i, (finishCopy q k stop fuel s).copyJob? q = some i ∧ i.entry = j.entry := by
  induction fuel generalizing s j with
  | zero => exact ⟨j, hj, rfl⟩
  | succ fuel ih =>
    rw [finishCopy, hj]
    dsimp only
    split
    · exact ⟨j, hj, rfl⟩
    · obtain ⟨i, hi, hentry⟩ := State.moveCopy_entry (k := k) hj (min 1024 (stop - j.bytes))
      obtain ⟨m, hm, hmi⟩ := ih hi
      exact ⟨m, hm, hmi.trans hentry⟩

/-- An abort stops the entry in progress with a status of its own. -/
theorem State.queueAbort_job (hst : (s.dmaQ q).st = 1 ∨ (s.dmaQ q).st = 2) (hj : s.copyJob? q = some j)
    (hplot : s.queuePlot q = some k) (n : Nat) :
    ∃ i, (s.queueAbort q n).copyJob? q = some i ∧ i.entry = j.entry ∧ i.status ≠ stDone := by
  have hrun : (!((s.dmaQ q).st == 1 || (s.dmaQ q).st == 2)) = false := by simpa [or_iff_not_imp_left] using hst
  have hj' : (s.onQ q (fun d => { d with st := 3 })).copyJob? q = some j := by rw [State.copyJob?_onQ, hj]
  unfold State.queueAbort
  dsimp only
  rw [if_neg (ne_false_of hrun), hj', State.queuePlot_onQ, hplot]
  obtain ⟨i, hi, hentry⟩ := finishCopy_entry (k := k) (j.stopAt n) (j.stopAt n / 1024 + 2) hj'
  rw [State.copyJob?_setCopyJob, hi]
  refine ⟨_, rfl, hentry, ?_⟩
  dsimp only
  split
  · decide
  · rename_i hne
    exact mt beq_iff_eq.2 hne

/-- An abort without an entry in progress: the queue stops where it has nothing left, or ends its entries as they are taken. -/
theorem State.queueAbort_idle (hq : q ≤ 4) (hlen : q < s.dma.queues.length) (hst : (s.dmaQ q).st = 1 ∨ (s.dmaQ q).st = 2)
    (hj : s.copyJob? q = none) (n : Nat) : (s.queueAbort q n).dmaQ q = { s.dmaQ q with
      st := if (s.dmaQ q).head = (s.dmaQ q).tail then 0 else 3 } := by
  have hrun : (!((s.dmaQ q).st == 1 || (s.dmaQ q).st == 2)) = false := by simpa [or_iff_not_imp_left] using hst
  generalize ht : s.onQ q (fun d => { d with st := 3 }) = t
  have hjt : t.copyJob? q = none := by rw [← ht, State.copyJob?_onQ, hj]
  have hd : t.dmaQ q = { s.dmaQ q with st := 3 } := by rw [← ht, State.dmaQ_onQ_same s hq hlen]
  have hlent : q < t.dma.queues.length := by
    rw [← ht, State.onQ_copy s hq]
    simpa [modifyAt] using hlen
  unfold State.queueAbort
  dsimp only
  rw [if_neg (ne_false_of hrun), ht, hjt]
  change (t.drained q).dmaQ q = _
  rw [State.dmaQ_drained t hq hlent (.inr (by rw [hd])), hjt, hd]
  simp [DmaQueue.limit]

end moves

/-! ### The end of a copy -/

/-- Where the end of a copy stops: at its last byte, or where the engine failed. -/
def CopyJob.stop (j : CopyJob) (failedAt : Option Nat) : Nat :=
  failedAt.elim j.entry.b (fun n => max j.bytes (min n j.entry.b))

/-- A copy that has moved all it can completes with its final status and frees the queue. -/
theorem exec_hostCopyComplete {s u : State} {q k : Nat} {j i : CopyJob} {f : Option Nat} {ok : Bool} (hq : q ≤ 4)
    (hj : s.copyJob? q = some j) (hplot : s.queuePlot q = some k)
    (hu : u = finishCopy q k (j.stop f) (j.stop f / 1024 + 2) s) (hi : u.copyJob? q = some i)
    (hend : i.status ≠ stDone ∨ f.isSome ∨ j.entry.b ≤ i.bytes) : exec (.hostCopyComplete q f ok) s
      = .next ((u.setCopyJob q none).copyPost q (u.dmaQ q).inFlight j.entry.tag.toNat j.entry.signal (i.final f.isSome)
        (if i.final f.isSome == stPoisoned then i.poisoned.length else 0) i.bytes ok) := by
  have hgo : ¬ (i.status == stDone && f.isNone && decide (i.bytes < j.entry.b)) = true := by
    intro h
    simp only [Bool.and_eq_true, beq_iff_eq, decide_eq_true_eq, Option.isNone_iff_eq_none] at h
    obtain ⟨⟨hst, hf⟩, hb⟩ := h
    obtain hst' | hf' | hb' := hend
    · exact hst' hst
    · simp [hf] at hf'
    · omega
  subst hu
  refine (if_neg (not_gt_four hq)).trans ?_
  rw [hj, hplot]
  cases f with
  | none =>
    change (if (_ : Bool) then _ else _) = _
    rw [show (finishCopy q k j.entry.b (j.entry.b / 1024 + 2) s).copyJob? q = some i from hi]
    exact if_neg hgo
  | some n =>
    change (if (_ : Bool) then _ else _) = _
    rw [show (finishCopy q k (max j.bytes (min n j.entry.b)) (max j.bytes (min n j.entry.b) / 1024 + 2) s).copyJob? q
      = some i from hi]
    exact if_neg hgo

theorem CopyJob.final_eq (i : CopyJob) (failed : Bool) : i.final failed = if i.status ≠ stDone then i.status
    else if failed then stHwFault else if i.poisoned = [] then stDone else stPoisoned := by
  simp [CopyJob.final]

/-- Settles O17: the queue's registers, the start of an entry, its moves, its end and its abort. -/
theorem copyQueuesWork : Obligations.CopyQueuesWork := by
  unfold Obligations.CopyQueuesWork
  refine ⟨?_, ?_, ?_⟩
  · rintro q k s d hq rfl hplot
    have hexists : ¬ ((s.queuePlot q).isNone && q != 0) = true := by simp [hplot]
    refine ⟨fun hst => ?_, fun hst => ?_, fun v hst hv hlen => ?_, fun hst hlen => ?_, fun r hst hjob => ⟨?_, ?_⟩, ?_, ?_⟩
    · refine (if_neg (not_gt_four hq)).trans ((if_neg hexists).trans (congrArg _ (State.onQ_congr ?_)))
      rw [DmaQueue.enable_stopped hst]
    · refine (if_neg (not_gt_four hq)).trans ((if_neg hexists).trans (congrArg _ (State.onQ_of_eq ?_)))
      exact DmaQueue.enable_of_ne hst
    · refine ⟨_, if_neg (not_gt_four hq), ?_, fun r hr => State.dmaQ_onQ_ne s hq hr _⟩
      rw [State.dmaQ_onQ_same s hq hlen, DmaQueue.doorbell_running hst hv]
    · refine ⟨_, if_neg (not_gt_four hq), ?_⟩
      generalize ht : s.onQ q (fun d => { d with st := 2, drainTo := d.tail }) = t
      have hd : t.dmaQ q = { s.dmaQ q with st := 2, drainTo := (s.dmaQ q).tail } := by
        rw [← ht, State.dmaQ_onQ_same s hq hlen]
      have hlent : q < t.dma.queues.length := by
        rw [← ht, State.onQ_copy s hq]
        simpa [modifyAt] using hlen
      rw [State.queueDrain, if_pos (beq_iff_eq.2 hst), ht, State.dmaQ_drained t hq hlent (.inl (by rw [hd])), hd, ← ht,
        State.copyJob?_onQ]
      simp [DmaQueue.limit]
    · obtain ⟨h0, -, hne⟩ := DmaQueue.starts hst
      exact exec_hostCopyEntryStart_unread hq h0 hne hjob
    · obtain ⟨h0, h3, hne⟩ := DmaQueue.starts hst
      rintro e u hr hwait rfl
      refine ⟨fun hbad happ hmay => ?_, fun hbad => ?_⟩
      · exact ⟨_, exec_hostCopyEntryStart_taken hq h0 hne hjob h3 hplot hr hwait (State.entryRefused_none hbad happ hmay),
          State.copyJob?_setCopyJob .., rfl⟩
      · exact exec_hostCopyEntryStart_bad hq h0 hne hjob h3 hplot hr hwait (State.entryRefused_bad hbad)
    · intro r e hst hne hjob hr
      exact exec_hostCopyEntryStart_aborted hq (by omega) (by rwa [DmaQueue.limit_of_ne_two (by omega)]) hjob hst hr
    · intro j hj hst hwait hmay
      refine ⟨(if_neg (not_gt_four hq)).trans ?_, State.moveCopy_goes hst hwait hmay 1024⟩
      rw [hj, hplot]
  · intro q k s j hq hj hplot
    refine ⟨?_, fun n hst => ?_⟩
    · rintro f stop u i rfl hu hi hend st rfl
      rw [← CopyJob.final_eq]
      refine ⟨?_, ?_⟩
      · rw [exec_hostCopyComplete hq hj hplot hu hi hend, State.copyPost, if_pos rfl]
        simp only [beq_iff_eq]
      · rw [exec_hostCopyComplete hq hj hplot hu hi hend]
        rfl
    · obtain ⟨i, hi⟩ := State.queueAbort_job hst hj hplot n
      exact ⟨_, i, if_neg (not_gt_four hq), hi⟩
  · intro q n s hq hlen hst hj
    exact ⟨_, if_neg (not_gt_four hq), State.queueAbort_idle hq hlen hst hj n⟩

end Sys2Proof.Machine

/-! Failed checks leave memory, time and the plane as they are. A descriptor fetch changes the groups of one tile. -/
namespace Sys2Proof.Machine

/-- A run without what a failed check changes in it. -/
def Run.offChecks (r : Run) : Run := { r with faults := [], failed := 0, suspectMark := false }

/-- The state without what a failed check changes: besides the records, the suspect flag, the ports, the counts of the run in
progress, and whether the plot parks. -/
def State.offChecks (s : State) : State := { s.offEvents with
  flash := { s.flash with cper := [], cperCount := 0, suspect := false }
  ports := []
  train := { s.train with run := s.train.run.map Run.offChecks, mustPark := false, suspectSince := none } }

/-- The state without what a fault of Table 13.1 may change, in the training job or in a plot's pass. -/
def State.offFaults (s : State) : State :=
  { s.offEvents with flash := Flash.shipped, train := Train.reset, plots := [], ports := [] }

/-- The state without what a scheduled read of HBM may change: besides what its faults change, the counts of the stacks. -/
def State.offReads (s : State) : State := { s.offFaults with mem := { s.mem with hstacks := [], hbm := Memories.reset.hbm } }

section faults

variable (s : State)

theorem State.offChecks_of_offRecords {s t : State} (h : t.offRecords = s.offRecords) : t.offChecks = s.offChecks :=
  congrArg (fun x : State => { x with
    flash := { x.flash with cper := [], cperCount := 0, suspect := false }
    ports := []
    train := { x.train with run := x.train.run.map Run.offChecks, mustPark := false, suspectSince := none } }) h

theorem State.offFaults_of_offChecks {s t : State} (h : t.offChecks = s.offChecks) : t.offFaults = s.offFaults :=
  congrArg (fun x : State => { x with flash := Flash.shipped, train := Train.reset, plots := [] }) h

theorem State.onRun_offChecks {f : Run → Run} (hf : ∀ r, (f r).offChecks = r.offChecks) :
    (s.onRun f).offChecks = s.offChecks := by
  have hrun : (s.train.run.map f).map Run.offChecks = s.train.run.map Run.offChecks := by
    rw [Option.map_map, show Run.offChecks ∘ f = Run.offChecks from funext hf]
  exact congrArg (fun o => { s.offChecks with train := { s.offChecks.train with run := o } }) hrun

@[simp] theorem State.event_offChecks (code kind idx : Nat) (params : List Byte) :
    (s.event code kind idx params).offChecks = s.offChecks :=
  State.offChecks_of_offRecords (State.event_offRecords ..)

@[simp] theorem State.writeRecord_offChecks (f : FaultRec) (outcome : Nat) : (s.writeRecord f outcome).offChecks = s.offChecks :=
  rfl

@[simp] theorem State.notice_offChecks (kind : Nat) (w : Site) (outcome plot : Nat) :
    (s.notice kind w outcome plot).offChecks = s.offChecks :=
  State.offChecks_of_offRecords (State.notice_offRecords ..)

@[simp] theorem State.withFaultN_offChecks (f : State → State) : (s.withFaultN f).offChecks = (f s).offChecks := by
  unfold State.withFaultN
  dsimp only
  split <;> rfl

/-- The suspect flag set, with the run and the tick that it dates from. -/
theorem State.suspectSince_offChecks (o : Train → Option (Nat × Nat)) :
    (s.onTrain fun t => { t with suspectSince := o t }).offChecks = s.offChecks := rfl

@[simp] theorem State.declareSuspect_offChecks (w : Site) : (s.declareSuspect w).offChecks = s.offChecks := by
  unfold State.declareSuspect
  split
  · rfl
  · refine (State.suspectSince_offChecks ..).trans ((State.onRun_offChecks _ fun _ => by rfl).trans ?_)
    rw [State.notice_offChecks, State.withFaultN_offChecks]
    rfl

@[simp] theorem State.linkFault_offChecks (p reason : Nat) : (s.linkFault p reason).offChecks = s.offChecks := by
  unfold State.linkFault
  split
  · exact State.notice_offChecks ..
  · rfl

@[simp] theorem State.recur_offChecks (f : FaultRec) (w : Site) : (s.recur f w).offChecks = s.offChecks := by
  have hleft : (s.onRun (fun r => { r with faults := markLeft r.faults f })).offChecks = s.offChecks :=
    State.onRun_offChecks _ fun _ => by rfl
  unfold State.recur
  split_ifs
  · exact (State.declareSuspect_offChecks ..).trans hleft
  · exact (State.linkFault_offChecks ..).trans hleft
  · exact (State.linkFault_offChecks ..).trans hleft
  · rfl
  · rfl

@[simp] theorem State.failCheckIn_offChecks (phase kind : Nat) (w : Site) (paired : Bool) :
    (s.failCheckIn phase kind w paired).offChecks = s.offChecks := by
  have hrecur (t : State) (c : Prop) [Decidable c] (f : FaultRec) :
      (if c then t.recur f w else t).offChecks = t.offChecks := by
    split
    · exact State.recur_offChecks ..
    · rfl
  unfold State.failCheckIn
  extract_lets q t counted src f counting src' f' late v leave mode
  have ht : t.offChecks = s.offChecks := State.event_offChecks ..
  have hlate : late.offChecks = s.offChecks := (State.onRun_offChecks _ fun _ => by rfl).trans ht
  have hv : v.offChecks = s.offChecks := (hrecur ..).trans hlate
  have hleave : (leave v).offChecks = s.offChecks :=
    (State.declareSuspect_offChecks ..).trans ((State.onRun_offChecks _ fun _ => by rfl).trans hv)
  have hcounting : counting.offChecks = s.offChecks := (State.onRun_offChecks _ fun _ => by rfl).trans ht
  clear_value t counting v leave
  split
  · exact ht
  · split
    · exact (hrecur ..).trans hcounting
    · split_ifs
      · exact hv
      · exact hv
      · exact hv
      · exact hv
      · exact hv
      · exact hleave
      · exact hleave

@[simp] theorem State.onTrain_offFaults (f : Train → Train) : (s.onTrain f).offFaults = s.offFaults := rfl
@[simp] theorem State.onRun_offFaults (f : Run → Run) : (s.onRun f).offFaults = s.offFaults := rfl
@[simp] theorem State.onPlot_offFaults (n : Nat) (f : Plot → Plot) : (s.onPlot n f).offFaults = s.offFaults := rfl

@[simp] theorem State.event_offFaults (code kind idx : Nat) (params : List Byte) :
    (s.event code kind idx params).offFaults = s.offFaults :=
  State.offFaults_of_offChecks (State.event_offChecks ..)

@[simp] theorem State.notice_offFaults (kind : Nat) (w : Site) (outcome plot : Nat) :
    (s.notice kind w outcome plot).offFaults = s.offFaults :=
  State.offFaults_of_offChecks (State.notice_offChecks ..)

@[simp] theorem State.declareSuspect_offFaults (w : Site) : (s.declareSuspect w).offFaults = s.offFaults :=
  State.offFaults_of_offChecks (State.declareSuspect_offChecks ..)

@[simp] theorem State.failCheckIn_offFaults (phase kind : Nat) (w : Site) (paired : Bool) :
    (s.failCheckIn phase kind w paired).offFaults = s.offFaults :=
  State.offFaults_of_offChecks (State.failCheckIn_offChecks ..)

@[simp] theorem State.plotFault_offFaults (plot kind : Nat) (w : Site) (paired : Bool) :
    (s.plotFault plot kind w paired).offFaults = s.offFaults := by
  unfold State.plotFault
  split
  · exact State.failCheckIn_offFaults ..
  · exact (State.onPlot_offFaults ..).trans (State.event_offFaults ..)

theorem State.offReads_of_offFaults {s t : State} (h : t.offFaults = s.offFaults) : t.offReads = s.offReads :=
  congrArg (fun x : State => { x with mem := { x.mem with hstacks := [], hbm := Memories.reset.hbm } }) h

theorem State.onStack_offReads (k : Nat) (f : Stack → Stack) : (s.onStack k f).offReads = s.offReads := rfl

theorem State.countStack_offReads (k n : Nat) : (s.countStack k n).offReads = s.offReads := by
  unfold State.countStack
  dsimp only
  split
  · rfl
  · split
    · exact (State.offReads_of_offFaults (State.notice_offFaults ..)).trans rfl
    · rfl

theorem State.seenHbm_offReads (plot : Nat) (ks : List Nat) (desc : Nat) (paired : Bool) (x : Seen) :
    (s.seenHbm plot ks desc paired x).offReads = s.offReads := by
  have hfaults (kind : Nat) (l : List Nat) (s : State) :
      (l.foldl (fun s cw => s.plotFault plot kind (siteHbm ks cw desc) paired) s).offReads = s.offReads :=
    foldl_frame (fun _ _ => State.offReads_of_offFaults (State.plotFault_offFaults ..)) l s
  unfold State.seenHbm
  dsimp only
  rw [hfaults, hfaults]
  refine foldl_frame (P := State.offReads) (fun s k => ?_) _ s
  exact (State.onStack_offReads ..).trans (State.countStack_offReads ..)

/-- A group fetched: what its codewords gave is counted, and HBM may have been corrected. -/
theorem State.fetchGroup_offReads (plot tile key group : Nat) (l : List (List Byte)) :
    (s.fetchGroup plot tile key group l).2.offReads = s.offReads := by
  unfold State.fetchGroup
  split
  · rfl
  · exact State.seenHbm_offReads ..

theorem State.fetchGroup_serving {s : State} (h : s.chip.profile ≠ 0) (plot tile key group : Nat) (l : List (List Byte)) :
    s.fetchGroup plot tile key group l = (some (groupBytes l group), s) := by
  unfold State.fetchGroup
  rw [if_neg (mt beq_iff_eq.1 h)]

end faults

/-! ### Descriptor fetches -/

section fetch

/-- A state whose tiles are those of `s` but for the groups that one of them holds. -/
def State.SameButGroups (phys : Nat) (s t : State) : Prop :=
  t.mem.residual = s.mem.residual ∧
    ∃ g : Tile → List (Nat × List Byte), t.mem.tiles = modifyAt s.mem.tiles phys (fun y => { y with groups := g y })

theorem State.SameButGroups.of_offReads {phys : Nat} {s t u : State} (h : State.SameButGroups phys s t)
    (hu : u.offReads = t.offReads) : State.SameButGroups phys s u := by
  have htiles : u.mem.tiles = t.mem.tiles := congrArg (·.mem.tiles) hu
  have hres : u.mem.residual = t.mem.residual := congrArg (·.mem.residual) hu
  obtain ⟨hr, g, hg⟩ := h
  exact ⟨hres.trans hr, g, htiles.trans hg⟩

theorem State.SameButGroups.onTile {phys : Nat} {s t : State} (h : State.SameButGroups phys s t)
    (g : Tile → List (Nat × List Byte)) :
    State.SameButGroups phys s (t.onTile phys (fun y => { y with groups := g y })) := by
  obtain ⟨hr, g', hg⟩ := h
  refine ⟨hr, fun y => g { y with groups := g' y }, ?_⟩
  change modifyAt t.mem.tiles phys _ = _
  rw [hg, modifyAt, modifyAt, List.modify_modify_eq]
  rfl

theorem State.SameButGroups.refl (phys : Nat) (s : State) : State.SameButGroups phys s s :=
  ⟨rfl, fun y => y.groups, (List.modify_id ..).symm⟩

theorem map_modifyAt {α β : Type} (l : List α) (i : Nat) {f : α → α} {g : α → β} (h : ∀ x, g (f x) = g x) :
    (modifyAt l i f).map g = l.map g := by
  refine List.ext_getElem? fun k => ?_
  rw [List.getElem?_map, List.getElem?_map, modifyAt, List.getElem?_modify]
  cases l[k]? with
  | none => rfl
  | some x => by_cases hk : i = k <;> simp [hk, h]

/-- A field that the groups do not touch is the same on every tile. -/
theorem State.SameButGroups.map {β : Type} {phys : Nat} {s t : State} (h : State.SameButGroups phys s t) {f : Tile → β}
    (hf : ∀ (y : Tile) g, f { y with groups := g } = f y) : t.mem.tiles.map f = s.mem.tiles.map f := by
  obtain ⟨-, g, hg⟩ := h
  rw [hg, map_modifyAt _ _ fun y => hf y (g y)]

theorem State.SameButGroups.tile_ne {phys i : Nat} {s t : State} (h : State.SameButGroups phys s t) (hi : i ≠ phys) :
    t.tile i = s.tile i := by
  obtain ⟨-, g, hg⟩ := h
  rw [State.tile, hg, nth_modifyAt_ne _ hi]
  rfl

theorem nth_map {α β : Type} (f : α → β) (l : List α) (i : Nat) (d : α) : f (nth l i d) = nth (l.map f) i (f d) := by
  rw [nth, nth, List.getD_map]

theorem State.SameButGroups.tile_field {β : Type} {phys : Nat} {s t : State} (h : State.SameButGroups phys s t) {f : Tile → β}
    (hf : ∀ (y : Tile) g, f { y with groups := g } = f y) (i : Nat) : f (t.tile i) = f (s.tile i) := by
  rw [State.tile, State.tile, nth_map f, h.map hf, ← nth_map]

/-- What one list of the tile adds to a fetch: the group of that number, once it is due. -/
def State.fetchOne (plot tile group phys now : Nat) (s : State) (x : Nat × Sched) : State :=
  match (x.2.list tile)[16 * group]? with
  | some b =>
    let t := s.tile phys
    if now + 256 < (parseHead b).start || (t.group? (x.1 + group)).isSome || 128 ≤ t.groups.length then s
    else
      let f := s.fetchGroup plot tile (x.1 + group) group (x.2.list tile)
      match f.1 with
      | some bs => f.2.onTile phys (fun t => { t with groups := t.groups ++ [(x.1 + group, bs)] })
      | none => f.2
  | none => s

theorem exec_descriptorFetch {plot tile group now : Nat} {p : Plot} {ls : List (Nat × Sched)} {s : State}
    (hp : s.plots[plot]? = some p) (htile : tile < 16 * p.clusters.length) (hl : s.fetchLists plot = some (now, ls)) :
    exec (.descriptorFetch plot tile group) s = .next (ls.foldl (State.fetchOne plot tile group (p.tileAt tile) now)
      (s.onTile (p.tileAt tile) (fun t => { t with groups := s.keptGroups tile now ls t }))) := by
  change execDescriptorFetch plot tile group s = _
  unfold execDescriptorFetch
  rw [State.plot?, hp]
  dsimp only
  rw [if_neg (by omega), hl]
  rfl

end fetch

end Sys2Proof.Machine

/-! O55: what the registers and the commands of time leave unchanged. -/
namespace Sys2Proof.Machine

/-- What a guarded command answers is its effect. -/
theorem next_of_unit {c : Prop} [Decidable c] {f : Fault} {x t : State}
    (h : (if c then Host.Outcome.fault f else .next x : Out) = .next t) : t = x := by
  split at h
  · cases h
  · exact (Host.Outcome.next.inj h).symm

/-! ### Queue pairs -/

/-- Only a queue pair has changed, and what the controller remembers. -/
def State.OnlyPair (n : Nat) (s t : State) : Prop :=
  t = { s with aq := t.aq } ∧ t.aq.journal = s.aq.journal ∧ t.aq.events = s.aq.events ∧ t.aq.jobs = s.aq.jobs ∧
    ∀ k, k ≠ n → t.pair k = s.pair k

theorem State.OnlyPair.refl (n : Nat) (s : State) : State.OnlyPair n s s := ⟨rfl, rfl, rfl, rfl, fun _ _ => rfl⟩

theorem State.OnlyPair.onPair (n : Nat) (s : State) (f : Pair → Pair) : State.OnlyPair n s (s.onPair n f) :=
  ⟨rfl, rfl, rfl, rfl, fun _ hk => nth_modifyAt_ne f hk⟩

theorem State.OnlyPair.pairEnable (n : Nat) (s : State) : State.OnlyPair n s (s.pairEnable n) := by
  unfold State.pairEnable
  dsimp only
  split
  · exact .refl ..
  · split
    · exact .onPair ..
    · exact ⟨rfl, rfl, rfl, rfl, fun _ hk => nth_modifyAt_ne _ hk⟩

theorem State.OnlyPair.pairDisable (n : Nat) (s : State) : State.OnlyPair n s (s.pairDisable n) := by
  unfold State.pairDisable
  split
  · exact .onPair ..
  · exact .refl ..

theorem State.OnlyPair.sqDoorbell (n : Nat) (v : W32) (s : State) : State.OnlyPair n s (s.sqDoorbell n v) := by
  unfold State.sqDoorbell
  dsimp only
  split
  · exact .onPair ..
  · exact .refl ..

theorem State.OnlyPair.cqHeadTo (n : Nat) (v : W32) (s : State) : State.OnlyPair n s (s.cqHeadTo n v) := by
  unfold State.cqHeadTo
  dsimp only
  split
  · exact .onPair ..
  · exact .refl ..

theorem execMgtSqtailDoorbell_onlyPair {n : Nat} {v : W32} {b : Bool} {s t : State}
    (h : execMgtSqtailDoorbell n v b s = .next t) : State.OnlyPair n s t := by
  unfold execMgtSqtailDoorbell at h
  split at h
  · cases h
  · split at h
    · cases h
      exact .onPair ..
    · cases h
      exact .sqDoorbell ..

/-! ### Copy and send queues -/

section dma

variable {β : Type} {P : State → β} (hP : ∀ x d, P { x with dma := d } = P x) (s : State)
include hP

theorem State.onQ_frame (q : Nat) (f : DmaQueue → DmaQueue) : P (s.onQ q f) = P s := by
  unfold State.onQ
  split
  · exact hP ..
  · exact hP ..

theorem State.queueDrain_frame (q : Nat) : P (s.queueDrain q) = P s := by
  have hdrained (t : State) : P (t.drained q) = P t := by
    unfold State.drained
    dsimp only
    split
    · exact State.onQ_frame hP t ..
    · rfl
  unfold State.queueDrain
  split
  · exact (hdrained _).trans (State.onQ_frame hP s ..)
  · rfl

theorem execSendQueueEnable_frame {t : State} (h : execSendQueueEnable s = .next t) : P t = P s := by
  unfold execSendQueueEnable at h
  cases h
  split
  · exact (hP ..).trans (State.onQ_frame hP s ..)
  · exact State.onQ_frame hP s ..

theorem execDmaQueueEnable_frame {q : Nat} {t : State} (h : execDmaQueueEnable q s = .next t) : P t = P s := by
  unfold execDmaQueueEnable at h
  split at h
  · cases h
  · split at h
    · cases h
      rfl
    · cases h
      exact State.onQ_frame hP s ..

end dma

/-! ### Time, refresh and posts -/

theorem State.leaveHoldover_of_ne {s : State} (h : s.time.pll ≠ .holdover) : s.leaveHoldover = s := by
  unfold State.leaveHoldover
  rw [if_neg (mt beq_iff_eq.1 h)]

theorem execCorePllLock_time {s t : State} (hpll : s.time.pll ≠ .holdover) (h : execCorePllLock s = .next t) :
    t = { s with time := t.time } := by
  unfold execCorePllLock at h
  dsimp only at h
  split at h
  · cases h
    rfl
  · rw [State.leaveHoldover_of_ne (by exact hpll)] at h
    cases h
    rfl

/-- The EPOCH_CHECK cell of one port of the mask queued (R237). -/
def State.sendEpochCheck (a : Arming) (s : State) (p : Nat) : State :=
  if (s.port p).st == 2 then
    s.onPort p (fun q => { q with ctl := q.ctl ++ [⟨ctlCell 4 (epochPayload a.token 8 p), s.time.cyc, none⟩] })
  else s

/-- The cells queued on every port of a mask change the ports alone. -/
theorem State.sendEpochChecks_ports (a : Arming) (mask : List Nat) (s : State) :
    mask.foldl (State.sendEpochCheck a) s = { s with ports := (mask.foldl (State.sendEpochCheck a) s).ports } := by
  have hframe := foldl_frame (P := fun x : State => { x with ports := s.ports }) (f := State.sendEpochCheck a)
    (fun u p => by unfold State.sendEpochCheck; split <;> rfl) mask s
  exact congrArg (fun x : State => { x with ports := (mask.foldl (State.sendEpochCheck a) s).ports }) hframe

/-- What EPOCH_CHECK_SEND does at its cycle. -/
def State.epochChecksSent (a : Arming) (s : State) : State := { s with
  time := { s.time with arming := some { a with sent := true } }
  ports := (a.mask.foldl (State.sendEpochCheck a) s).ports }

theorem State.epochChecksSent_eq (a : Arming) (s : State) : (a.mask.foldl (State.sendEpochCheck a) s).onTime
    (fun t => { t with arming := some { a with sent := true } }) = s.epochChecksSent a := by
  rw [State.sendEpochChecks_ports]
  rfl

theorem execEpochCheckSend_frame {s t : State} (h : execEpochCheckSend s = .next t) :
    t = { s with time := t.time, ports := t.ports } := by
  unfold execEpochCheckSend at h
  split at h
  · rename_i a ha
    split at h
    · obtain rfl := (State.epochChecksSent_eq a s).symm.trans (Host.Outcome.next.inj h)
      rfl
    · cases h
      rfl
  · cases h
    rfl

theorem State.passPost_plots (s : State) (fn count : Nat) :
    s.passPost fn count = { s with plots := (s.passPost fn count).plots } := by
  unfold State.passPost
  split <;> rfl

/-- Memory as it is, but for when each stack was refreshed last. -/
def State.OnlyRefresh (s t : State) : Prop :=
  t = { s with mem := t.mem } ∧ t.mem.hbm = s.mem.hbm ∧ t.mem.tiles = s.mem.tiles ∧ t.mem.residual = s.mem.residual

theorem State.OnlyRefresh.onStack (s : State) (k : Nat) (f : Stack → Stack) : State.OnlyRefresh s (s.onStack k f) :=
  ⟨rfl, rfl, rfl, rfl⟩

theorem State.OnlyRefresh.refl (s : State) : State.OnlyRefresh s s := ⟨rfl, rfl, rfl, rfl⟩

theorem execHbmRefreshWindow_onlyRefresh {k : Nat} {s t : State} (h : execHbmRefreshWindow k s = .next t) :
    State.OnlyRefresh s t := by
  unfold execHbmRefreshWindow at h
  split at h
  · cases h
  · split at h
    · cases h
      exact .onStack ..
    · cases h
      exact .refl s

theorem execHbmControllerRefresh_onlyRefresh {k : Nat} {s t : State} (h : execHbmControllerRefresh k s = .next t) :
    State.OnlyRefresh s t := by
  unfold execHbmControllerRefresh at h
  split at h
  · cases h
  · split at h
    · cases h
      exact .onStack ..
    · cases h
      exact .refl s

/-! ### Descriptor fetches -/

section fetch

variable {plot tile group phys now : Nat} {s u : State}

theorem State.SameButGroups.fetchOne (h : State.SameButGroups phys s u) (x : Nat × Sched) :
    State.SameButGroups phys s (State.fetchOne plot tile group phys now u x) := by
  unfold State.fetchOne
  split
  · dsimp only
    split
    · exact h
    · have hf := h.of_offReads (State.fetchGroup_offReads u plot tile (x.1 + group) group (x.2.list tile))
      split
      · exact hf.onTile _
      · exact hf
  · exact h

theorem State.SameButGroups.fetchAll (now : Nat) (s : State) (g : Tile → List (Nat × List Byte)) (ls : List (Nat × Sched)) :
    State.SameButGroups phys s (ls.foldl (State.fetchOne plot tile group phys now)
      (s.onTile phys (fun y => { y with groups := g y }))) :=
  List.foldlRecOn ls _ ((State.SameButGroups.refl phys s).onTile g) fun _ h x _ => h.fetchOne x

/-- In a serving profile a fetch changes the tile's groups and nothing else. -/
def State.OnlyTiles (s t : State) : Prop := t = { s with mem := t.mem } ∧ t.mem.hbm = s.mem.hbm ∧ t.mem.hstacks = s.mem.hstacks

theorem State.OnlyTiles.onTile {s t : State} (h : State.OnlyTiles s t) (k : Nat) (f : Tile → Tile) :
    State.OnlyTiles s (t.onTile k f) := by
  obtain ⟨ht, hhbm, hstacks⟩ := h
  exact ⟨congrArg (fun x : State => x.onTile k f) ht, hhbm, hstacks⟩

theorem State.OnlyTiles.fetchOne (hs : s.chip.profile ≠ 0) (h : State.OnlyTiles s u) (x : Nat × Sched) :
    State.OnlyTiles s (State.fetchOne plot tile group phys now u x) := by
  have hu : u.chip.profile ≠ 0 := by
    rw [h.1]
    exact hs
  unfold State.fetchOne
  split
  · dsimp only
    rw [State.fetchGroup_serving hu]
    split
    · exact h
    · exact h.onTile ..
  · exact h

/-- A fetch that answers is one of the tile's lists, or of none. -/
theorem execDescriptorFetch_cases {t : State} (h : execDescriptorFetch plot tile group s = .next t) :
    t = s ∨ ∃ (phys now : Nat) (ls : List (Nat × Sched)), t = ls.foldl (State.fetchOne plot tile group phys now)
      (s.onTile phys (fun y => { y with groups := s.keptGroups tile now ls y })) := by
  unfold execDescriptorFetch at h
  split at h
  · cases h
  · split at h
    · cases h
    · split at h
      · cases h
        exact .inl rfl
      · exact .inr ⟨_, _, _, (Host.Outcome.next.inj h).symm⟩

end fetch

/-- Settles O55: each effect changes the parts named for it. -/
theorem registerCommandsChangeOnlyTheirParts : Obligations.RegisterCommandsChangeOnlyTheirParts := by
  unfold Obligations.RegisterCommandsChangeOnlyTheirParts
  intro n v b i s t h
  refine ⟨fun hi => ?_, fun hi => ?_, ?_, fun hi => ?_, ?_, ?_, ?_, fun hi => ?_, ?_, ?_, ?_⟩
  · change State.OnlyPair n s t
    simp only [List.mem_cons, List.not_mem_nil, or_false] at hi
    rcases hi with rfl | rfl | rfl | rfl
    · exact next_of_unit h ▸ .pairEnable n s
    · exact next_of_unit h ▸ .pairDisable n s
    · exact execMgtSqtailDoorbell_onlyPair h
    · exact next_of_unit h ▸ .cqHeadTo n v s
  · have key : (fun x : State => { x with dma := s.dma }) t = s := by
      simp only [List.mem_cons, List.not_mem_nil, or_false] at hi
      rcases hi with rfl | rfl | rfl | rfl | rfl | rfl
      · exact execDmaQueueEnable_frame (P := fun x : State => { x with dma := s.dma }) (fun _ _ => rfl) s h
      · exact next_of_unit h ▸ State.queueDrain_frame (P := fun x : State => { x with dma := s.dma }) (fun _ _ => rfl) s n
      · exact next_of_unit h ▸ State.onQ_frame (P := fun x : State => { x with dma := s.dma }) (fun _ _ => rfl) s n _
      · exact execSendQueueEnable_frame (P := fun x : State => { x with dma := s.dma }) (fun _ _ => rfl) s h
      · cases h
        exact State.queueDrain_frame (P := fun x : State => { x with dma := s.dma }) (fun _ _ => rfl) s 5
      · cases h
        exact State.onQ_frame (P := fun x : State => { x with dma := s.dma }) (fun _ _ => rfl) s 5 _
    exact congrArg (fun x : State => { x with dma := t.dma }) key
  · rintro rfl
    rw [next_of_unit h]
    rfl
  · simp only [List.mem_cons, List.not_mem_nil, or_false] at hi
    rcases hi with rfl | rfl
    · rw [next_of_unit h]
      rfl
    · rw [next_of_unit h]
      rfl
  · rintro rfl hpll
    exact execCorePllLock_time hpll h
  · rintro rfl
    exact execEpochCheckSend_frame h
  · rintro rfl
    rw [next_of_unit h]
    exact State.passPost_plots ..
  · simp only [List.mem_cons, List.not_mem_nil, or_false] at hi
    rcases hi with rfl | rfl
    · exact execHbmRefreshWindow_onlyRefresh h
    · exact execHbmControllerRefresh_onlyRefresh h
  · rintro m k rfl
    obtain rfl | ⟨phys, now, ls, rfl⟩ := execDescriptorFetch_cases h
    · exact ⟨rfl, rfl, rfl, fun _ => ⟨rfl, rfl, rfl⟩⟩
    · have hgroups := State.SameButGroups.fetchAll (plot := m) (tile := k) (group := n) (phys := phys) now s
        (s.keptGroups k now ls) ls
      refine ⟨hgroups.map fun _ _ => rfl, hgroups.map fun _ _ => rfl, hgroups.1, fun hprof => ?_⟩
      exact List.foldlRecOn (motive := State.OnlyTiles s) ls _ ⟨rfl, rfl, rfl⟩ fun _ ht x _ => ht.fetchOne hprof x
  · rintro m k rfl
    cases h
    rfl
  · rintro x rfl
    cases h
    rfl

end Sys2Proof.Machine

/-! O27: descriptor fetches, refreshes and copy windows. -/
namespace Sys2Proof.Machine

section fetch

variable {plot tile group phys now : Nat} {s u : State}

/-- A fetch holds no more than the lookahead buffer's 128 groups (R78). -/
theorem State.fetchOne_groups_le (h : (u.tile phys).groups.length ≤ 128) (x : Nat × Sched) :
    ((State.fetchOne plot tile group phys now u x).tile phys).groups.length ≤ 128 := by
  have hsame {v : State} (hv : v.offReads = u.offReads) : (v.tile phys).groups = (u.tile phys).groups :=
    congrArg (fun y : State => (y.tile phys).groups) (a₁ := v.offReads) (a₂ := u.offReads) hv
  have hadd (l : List Tile) (g : Nat × List Byte) : (nth (modifyAt l phys (fun t => { t with groups := t.groups ++ [g] })) phys
      Tile.reset).groups.length ≤ (nth l phys Tile.reset).groups.length + 1 := by
    by_cases hlen : phys < l.length
    · simp [nth_modifyAt_same _ hlen]
    · rw [modifyAt, List.modify_eq_self (by omega)]
      omega
  unfold State.fetchOne
  split
  · dsimp only
    split
    · exact h
    · rename_i hgo
      have hlt : (u.tile phys).groups.length < 128 := by
        by_contra hge
        exact hgo (by simp; omega)
      have hf := hsame (State.fetchGroup_offReads u plot tile (x.1 + group) group (x.2.list tile))
      split
      · refine Nat.le_trans (hadd _ _) ?_
        change ((State.fetchGroup ..).2.tile phys).groups.length + 1 ≤ 128
        rw [hf]
        exact hlt
      · rw [hf]
        exact h
  · exact h

/-- The group of a list that is due, not held, and fits is fetched, and held unless it is poisoned. -/
theorem State.fetchOne_due {x : Nat × Sched} {b : List Byte} (hb : (x.2.list tile)[16 * group]? = some b)
    (hdue : (parseHead b).start ≤ now + 256) (hroom : (u.tile phys).groups.length < 128)
    (hnew : ∀ g ∈ (u.tile phys).groups, g.1 ≠ x.1 + group) :
    State.fetchOne plot tile group phys now u x =
      (u.fetchGroup plot tile (x.1 + group) group (x.2.list tile)).1.elim
        (u.fetchGroup plot tile (x.1 + group) group (x.2.list tile)).2
        (fun bs => (u.fetchGroup plot tile (x.1 + group) group (x.2.list tile)).2.onTile phys
          (fun y => { y with groups := y.groups ++ [(x.1 + group, bs)] })) := by
  have hgo : (decide (now + 256 < (parseHead b).start) || ((u.tile phys).group? (x.1 + group)).isSome
      || decide (128 ≤ (u.tile phys).groups.length)) = false := by
    have hfind : (u.tile phys).group? (x.1 + group) = none := by
      simpa [Tile.group?, List.find?_eq_none] using hnew
    simp [hfind, hdue, hroom]
  unfold State.fetchOne
  rw [hb]
  refine (if_neg (ne_false_of hgo)).trans ?_
  dsimp only
  cases (u.fetchGroup plot tile (x.1 + group) group (x.2.list tile)).1 <;> rfl

end fetch

/-! ### Refreshes -/

section refresh

variable {k : Nat} {s : State} (hk : k ≤ 7)

theorem exec_hbmControllerRefresh (hk : k ≤ 7) (h : (s.stack k).refresh = .controller) :
    exec (.hbmControllerRefresh k) s = .next (s.onStack k (fun x => { x with lastRef := s.time.cyc })) :=
  (if_neg (not_gt_seven hk)).trans (if_pos (beq_iff_eq.2 h))

theorem exec_hbmControllerRefresh_other (hk : k ≤ 7) (h : (s.stack k).refresh ≠ .controller) :
    exec (.hbmControllerRefresh k) s = .next s :=
  (if_neg (not_gt_seven hk)).trans (if_neg (mt beq_iff_eq.1 h))

theorem exec_hbmRefreshWindow (hk : k ≤ 7) (h : (s.stack k).refresh = .image) (hw : s.inWindow k) :
    exec (.hbmRefreshWindow k) s = .next (s.onStack k (fun x => { x with lastRef := s.time.cyc })) :=
  (if_neg (not_gt_seven hk)).trans (if_pos (by simp [h, hw]))

/-- A window of the step's schedule (R92). -/
theorem State.inWindow_step {r : Run} {i : Image} (hr : s.train.run = some r) (hi : s.train.image = some i)
    (hb : r.base ≤ s.time.tick) (hw : s.time.tick - r.base ∈
      i.windows (if r.armedForm then armedVar s.train.variant else baseVar s.train.variant) k) : s.inWindow k := by
  simp [State.inWindow, hr, hi, hb, hw]

/-- A window of a pass, of the stack as the program numbers it (R402). -/
theorem State.inWindow_pass {p : Plot} {x : Pass} {i : Image} (hr : s.train.run = none) (hprof : s.chip.profile ≠ 0)
    (hp : p ∈ s.plots) (hx : p.pass = some x) (hi : p.program = some i) (hk : k ∈ p.hstacks)
    (hw : (s.time.cyc - x.began) / 1024 ∈ i.windows 0 (p.hstacks.idxOf k)) : s.inWindow k := by
  have hin : p.inWindow k s.time.cyc = true := by
    simp [Plot.inWindow, hx, hi, hk, hw]
  simp only [State.inWindow, hr, Bool.and_eq_true, List.any_eq_true]
  exact ⟨by simpa using hprof, p, hp, hin⟩

end refresh

/-! ### Copy windows -/

/-- A copy window copies its page into the free page of the shadow, and the pair is recorded (R65, R329). -/
theorem exec_copyWindow {e page q : Nat} {s : State} {g : Nat × Region} (he : e ≤ 15) (harm : s.inArmedUpdate)
    (hspare : s.isSpare = false) (hrun : s.windowsBegun (some e) true ≠ 0)
    (hcount : s.snap.copied.length < s.windowsBegun none false) (hsnap : page ∈ s.snap.snap)
    (hnew : ∀ c ∈ s.snap.copied, c.1 ≠ page) (hpage : page ∈ s.windowPages)
    (hreg : regionAt (s.regions 0) (page * Config.pageBytes) 1 = some g) (hfree : s.freeShadow g.2.shadow = some q) :
    exec (.copyWindow e page) s = .next (((s.copyRead 0 (page * Config.pageBytes) Config.pageBytes).2.hbmWrite 0
      (q * Config.pageBytes) (s.copyRead 0 (page * Config.pageBytes) Config.pageBytes).1).onSnap (fun n => { n with
        copied := n.copied ++ [(page, q)] })) := by
  have hgo : (!s.inArmedUpdate || s.isSpare || s.windowsBegun (some e) true == 0
      || decide (s.windowsBegun none false ≤ s.snap.copied.length) || !s.snap.snap.contains page
      || s.snap.copied.any (fun c => c.1 == page) || !s.windowPages.contains page) = false := by
    have hany : s.snap.copied.any (fun c => c.1 == page) = false := by simpa using hnew
    simp [harm, hspare, hrun, hcount, hsnap, hany, hpage]
  refine (if_neg (by omega)).trans ((if_neg (ne_false_of hgo)).trans ?_)
  rw [hreg, Option.bind_some, hfree]

/-- Settles O27: a fetch is the fold over its lists, and a refresh or a copy window runs under its conditions. -/
theorem fetchesRefreshesAndCopyWindowsRun : Obligations.FetchesRefreshesAndCopyWindowsRun := by
  unfold Obligations.FetchesRefreshesAndCopyWindowsRun
  refine ⟨?_, ?_, ?_⟩
  · rintro k tile group phys now p ls s hp htile rfl hl
    have hgroups := State.SameButGroups.fetchAll (plot := k) (tile := tile) (group := group) (phys := p.tileAt tile) now s
      (s.keptGroups tile now ls) ls
    refine ⟨_, exec_descriptorFetch hp htile hl, fun i hi => hgroups.tile_ne hi, hgroups.tile_field (fun _ _ => rfl) _,
      hgroups.tile_field (fun _ _ => rfl) _, fun hle => ?_, ?_⟩
    · refine List.foldlRecOn (motive := fun u : State => (u.tile (p.tileAt tile)).groups.length ≤ 128) ls _ ?_
        fun u hu x _ => State.fetchOne_groups_le hu x
      change (nth (modifyAt s.mem.tiles _ _) _ _).groups.length ≤ 128
      by_cases hlen : p.tileAt tile < s.mem.tiles.length
      · rw [nth_modifyAt_same _ hlen]
        exact (List.length_filter_le ..).trans hle
      · rw [modifyAt, List.modify_eq_self (by omega)]
        exact hle
    · rintro x b u f rfl rfl hb hdue hroom hnew rfl
      exact State.fetchOne_due hb hdue hroom hnew
  · intro k s hk
    refine ⟨exec_hbmControllerRefresh hk, exec_hbmControllerRefresh_other hk, fun r i hr hi href hb hw => ?_,
      fun p x i hr hprof hp hx hi hmem href hw => ?_⟩
    · exact exec_hbmRefreshWindow hk href (State.inWindow_step hr hi hb hw)
    · exact exec_hbmRefreshWindow hk href (State.inWindow_pass hr hprof hp hx hi hmem hw)
  · rintro e page q s g r he harm hspare hrun hcount hsnap hnew hpage hreg hfree rfl
    exact exec_copyWindow he harm hspare hrun hcount hsnap hnew hpage hreg hfree

end Sys2Proof.Machine

/-! O28 to O30: the descriptors. -/
namespace Sys2Proof.Machine

section descriptors

variable {s : State} {d : Dc} {o : Op} {hw : Hw}

/-- Without physical faults nothing strikes. -/
theorem State.struck_none (hh : hw.hbmFlips = []) (hs : hw.sramFlips = []) (hr : hw.recFlips = []) : s.struck d hw = s := by
  rw [State.struck, hh, hs, hr]
  rfl

/-- Without a record the effect is all. -/
theorem State.withRecord_none {eff : Dc → State → State} (h : o.usesRecord = false ∨ d.record = 0xFFFF) :
    s.withRecord d o eff = eff d s := by
  refine if_neg ?_
  obtain hu | hr := h
  · simp [hu]
  · simp [hr]

/-- Without a failed check nothing is judged. -/
theorem State.arithFaults_none (ht : hw.tally = none) (hr : hw.residue = false) : s.arithFaults d o hw = s := by
  unfold State.arithFaults
  rw [ht, hr, Bool.and_false]
  cases o <;> rfl

theorem wait_withRecord (unit : Nat) : s.withRecord d (.wait unit) (fun _ s => s) = s :=
  State.withRecord_none (.inl rfl)

theorem wait_arithFaults (unit : Nat) : s.arithFaults d (.wait unit) hw = s := rfl

end descriptors

/-- Settles O28: each is a descriptor that runs (`runDesc_runs`). -/
theorem computingDescriptorsRun : Obligations.ComputingDescriptorsRun := by
  unfold Obligations.ComputingDescriptorsRun
  rintro x h s u d fin rfl rfl
  refine ⟨fun _ => runDesc_runs, fun _ => runDesc_runs, fun _ => runDesc_runs, fun _ => runDesc_runs, fun _ => runDesc_runs,
    fun _ => runDesc_runs, runDesc_runs, fun o r hlast => ?_, fun o eff ht hr hrec => ?_, State.struck_none⟩
  · refine (if_neg ?_).trans (runDesc_runs r)
    obtain hprof | hlast := hlast
    · simp [hprof]
    · rw [Bool.and_eq_true, not_and]
      intro _
      split
      · exact mt beq_iff_eq.1 (hlast _ ‹_›)
      · exact Bool.false_ne_true
  · dsimp only
    rw [State.arithFaults_none ht hr, State.withRecord_none hrec]

/-- Settles O29: each is a descriptor that runs, and WAIT has no effect of its own. -/
theorem movingDescriptorsRun : Obligations.MovingDescriptorsRun := by
  unfold Obligations.MovingDescriptorsRun
  rintro x h s u d fin rfl rfl
  refine ⟨fun _ => runDesc_runs, fun _ => runDesc_runs, fun _ => runDesc_runs, fun _ => runDesc_runs, fun _ => runDesc_runs,
    fun o r heng => (if_neg (by omega)).trans (runDesc_runs r), fun _ => runDesc_runs, fun _ => runDesc_runs,
    fun unit r => ⟨(runDesc_runs r).trans ?_, State.struck_none⟩⟩
  rw [wait_arithFaults, wait_withRecord]

/-- Settles O30: a serving program's fabric descriptors are rejected; the training job's run. -/
theorem fabricDescriptorsRun : Obligations.FabricDescriptorsRun := by
  unfold Obligations.FabricDescriptorsRun
  rintro x h s u d fin rfl rfl
  refine ⟨fun hprof => ?_, fun hprof o c => ?_⟩
  · have hgo {f x : Out} : (if s.chip.profile != 0 then f else x) = x := if_neg (by simp [hprof])
    exact ⟨fun _ r => hgo.trans (runDesc_runs r), fun _ r => hgo.trans (runDesc_runs r), fun _ r => hgo.trans (runDesc_runs r),
      fun _ r => hgo.trans (runDesc_runs r), fun _ r => hgo.trans (runDesc_runs r), fun _ r => hgo.trans (runDesc_runs r),
      fun _ r => hgo.trans (runDesc_runs r)⟩
  · have hstop {f x : Out} : (if s.chip.profile != 0 then f else x) = f := if_pos (by simp [hprof])
    exact ⟨hstop, hstop, hstop, hstop, hstop, hstop, hstop⟩

end Sys2Proof.Machine

/-! O21 and O22: BAR2 and the sideband. -/
namespace Sys2Proof.Machine

/-! ### BAR2 -/

section bar2

variable {fn off k n : Nat} {data : List Byte} {s : State}

theorem viewFetch_zero (s : State) (ks : List Nat) (a : Nat) : (s.viewFetch ks a 0).1 = [] := rfl

theorem hbmFetch_zero (m : Mem) (ks : List Nat) (a : Nat) : (hbmFetch m ks a 0).1 = [] := rfl

theorem State.hostRead_zero (s : State) (plot a : Nat) : (s.hostRead plot a 0).1 = [] := by
  unfold State.hostRead
  dsimp only
  split
  · rw [viewFetch_zero, List.map_nil]
  · rw [hbmFetch_zero, List.map_nil]

/-- A read within the plot's HBM is answered with what it reads. -/
theorem State.bar2Answer_within {a : Nat} (h : a + n ≤ hbmBytes (s.stacksOf k)) : s.bar2Answer k fn off a n
    = (s.hostRead k a n).2.2.emit (.bar2 fn off (s.hostRead k a n).1 (s.hostRead k a n).2.1) := by
  have hall : min n (hbmBytes (s.stacksOf k) - a) = n := by omega
  unfold State.bar2Answer
  dsimp only
  rw [hall, Nat.sub_self, List.replicate_zero, List.append_nil]

/-- A read beyond the plot's HBM is answered with ones. -/
theorem State.bar2Answer_beyond {a : Nat} (h : hbmBytes (s.stacksOf k) ≤ a) : s.bar2Answer k fn off a n
    = (s.hostRead k a 0).2.2.emit (.bar2 fn off (List.replicate n 0xFF) (s.hostRead k a 0).2.1) := by
  have hnone : min n (hbmBytes (s.stacksOf k) - a) = 0 := by omega
  unfold State.bar2Answer
  dsimp only
  rw [hnone, State.hostRead_zero, List.nil_append, Nat.sub_zero]

theorem State.mustWait_iff (plot a : Nat) : s.mustWait plot a n = true ↔
    (∃ x ∈ s.stacksOf plot, (s.stack x).refresh = .selfRefresh) ∨ plot = 0 ∧ s.chip.profile = 0 ∧ s.mustHold a n := by
  simp [State.mustWait, State.asleep, and_assoc]

variable (hfn : fn ≤ 4) (hon : fn ≤ s.host.vfs) (hst : s.chip.st = .ready) (hk : s.spaceOf fn = some k)
include hfn hon hst hk

theorem exec_bar2Write : exec (.bar2Write fn off data) s
    = if s.hostMayWrite k ((nth s.host.apbase fn 0).toNat + off) data.length then
        .next (s.hbmWrite k ((nth s.host.apbase fn 0).toNat + off) (clean data))
      else .next (s.discarded fn ((nth s.host.apbase fn 0).toNat + off) data.length) := by
  refine (if_neg (not_gt_four hfn)).trans ((if_neg (by simp [hst, State.fnOn, hon])).trans ?_)
  rw [hk]

theorem exec_bar2Read : exec (.bar2Read fn off n) s = if s.mustWait k ((nth s.host.apbase fn 0).toNat + off) n then
      .next (s.onHost (fun h => { h with reads := h.reads ++ [⟨fn, off, (nth s.host.apbase fn 0).toNat + off, n⟩] }))
    else .next (s.bar2Answer k fn off ((nth s.host.apbase fn 0).toNat + off) n) := by
  refine (if_neg (not_gt_four hfn)).trans ((if_neg (by simp [hst, State.fnOn, hon])).trans ?_)
  rw [hk]

end bar2

/-- Settles O21: the access is judged at APBASE's address, and a read within the plot's HBM is answered as it is read. -/
theorem bar2ReachesThePlotsMemory : Obligations.Bar2ReachesThePlotsMemory := by
  unfold Obligations.Bar2ReachesThePlotsMemory
  rintro fn off k a n data s hfn hon hst hk rfl
  refine ⟨?_, ?_, fun hw => ?_, ?_, fun hw htop => ?_, State.mustWait_iff k _⟩
  · rintro rfl hmay
    rw [exec_bar2Write hfn hon hst hk, if_pos hmay]
  · rintro rfl hmay
    rw [exec_bar2Write hfn hon hst hk, if_neg (ne_false_of hmay)]
    rfl
  · rw [exec_bar2Read hfn hon hst hk, if_pos hw]
    rfl
  · rintro hw hin r rfl
    rw [exec_bar2Read hfn hon hst hk, if_neg (ne_false_of hw), State.bar2Answer_within hin]
  · rw [exec_bar2Read hfn hon hst hk, if_neg (ne_false_of hw), State.bar2Answer_beyond htop]
    exact ⟨_, _, rfl⟩

/-! ### The sideband's buffer -/

/-- What lies in the sideband's buffer, zeros where nothing is listed. -/
def bufAt (l : List Host.Cell) (a : Nat) : Byte := (cellGet l a).getD 0

theorem bufPut_other (l : List Host.Cell) {off a : Nat} (bs : List Byte) (h : a < off ∨ off + bs.length ≤ a) :
    cellGet (bufPut l off bs) a = cellGet l a := by
  induction bs generalizing l off with
  | nil => rfl
  | cons b bs ih =>
    rw [List.length_cons] at h
    have hne : a ≠ off := by omega
    rw [bufPut, ih _ (by omega)]
    split
    · exact cellGet_del_other _ hne
    · exact cellGet_put_other _ _ hne

theorem bufAt_bufPut (l : List Host.Cell) (off : Nat) {bs : List Byte} {i : Nat} (h : i < bs.length) :
    bufAt (bufPut l off bs) (off + i) = nth bs i 0 := by
  induction bs generalizing l off i with
  | nil => cases h
  | cons b bs ih =>
    cases i with
    | zero =>
      change (cellGet (bufPut _ (off + 1) bs) off).getD 0 = b
      rw [bufPut_other _ _ (.inl (Nat.lt_succ_self off))]
      split
      · rw [cellGet_del_same]
        exact ‹b = 0›.symm
      · rw [cellGet_put_same]
        rfl
    | succ i =>
      rw [bufPut, ← Nat.add_assoc, Nat.add_right_comm, ih _ _ (Nat.lt_of_succ_lt_succ h)]
      rfl

/-- The bytes written are the bytes read. -/
theorem bufRead_bufPut (l : List Host.Cell) (off : Nat) (bs : List Byte) :
    (List.range bs.length).map (fun i => bufAt (bufPut l off bs) (off + i)) = bs := by
  refine List.ext_getElem (by simp) fun i hi hi' => ?_
  rw [List.getElem_map, List.getElem_range, bufAt_bufPut _ _ hi']
  exact nth_of_getElem? (List.getElem?_eq_getElem hi')

section buffer

variable {eid : Byte} {off n : Nat} {data : List Byte} {s : State} (heid : s.aq.eid.isSome)

theorem not_isNone_of_isSome {α : Type} {o : Option α} (h : o.isSome) : ¬ o.isNone = true := by
  simp [Option.isSome_iff_ne_none.1 h]

theorem exec_bufWrite (heid : s.aq.eid.isSome) (hr : bufRange off data.length) : exec (.bufWrite eid off data) s
    = .next ((s.onAq (fun a => { a with buf := bufPut a.buf off data })).emit
      (.sideband eid 6 (bufHead off data.length ++ [0]))) := by
  refine (if_neg (not_isNone_of_isSome heid)).trans ?_
  rw [hr]
  rfl

theorem exec_bufRead (heid : s.aq.eid.isSome) (hr : bufRange off n) : exec (.bufRead eid off n) s
    = .next (s.emit (.sideband eid 5 (bufHead off n ++ (List.range n).map (fun i => bufAt s.aq.buf (off + i))))) :=
  (if_neg (not_isNone_of_isSome heid)).trans (if_pos hr)

end buffer

/-- Settles O22: the buffer gives back what was put in, and the assigned ID is the endpoint's. -/
theorem theSidebandAnswers : Obligations.TheSidebandAnswers := by
  unfold Obligations.TheSidebandAnswers
  refine ⟨fun eid off data s heid h1 hmost hend => ?_, fun eid s => ?_⟩
  · have hr : bufRange off data.length := by simp [bufRange, h1, hmost, hend]
    refine ⟨_, exec_bufWrite heid hr, rfl, fun i hi => bufAt_bufPut _ _ hi, fun a ha => bufPut_other _ _ ha, ?_⟩
    refine (exec_bufRead (by exact heid) hr).trans ?_
    refine congrArg (fun l => Host.Outcome.next (State.emit _ (.sideband eid 5 (bufHead off data.length ++ l)))) ?_
    exact bufRead_bufPut _ off data
  · refine ⟨_, rfl, rfl, rfl, fun hsame => ?_, fun hnew r => ?_⟩
    · exact if_pos (beq_iff_eq.2 hsame)
    · change r ∈ (if s.aq.eid == some eid then s.aq.memory else s.aq.memory.filter _) ↔ _
      rw [if_neg (mt beq_iff_eq.1 hnew), List.mem_filter]
      cases r.src <;> simp

end Sys2Proof.Machine

/-! O26: the deadlines of the vote and of the beacons. -/
namespace Sys2Proof.Machine

section decided

variable {s : State} {ended park : Bool} {final : Option VoteWord} {passed : Option Bool}

theorem State.RunDecided.notice (h : s.RunDecided ended final passed park) (kind : Nat) (w : Site) (outcome plot : Nat) :
    (s.notice kind w outcome plot).RunDecided ended final passed park :=
  h.of_offSettle (State.offSettle_of_offRecords (State.notice_offRecords ..))

/-- The eighth failed run makes the plot park, and leaves the run decided as it is. -/
theorem State.RunDecided.limit (h : s.RunDecided ended final passed park) :
    (if s.atLimit then s.runLimit else s).RunDecided ended final passed (park || s.atLimit) := by
  obtain ⟨q, hq, hd, hpark⟩ := h
  cases hl : s.atLimit with
  | true =>
    rw [Bool.or_true]
    refine State.RunDecided.notice ?_ _ _ _ _
    exact ⟨q, hq, hd, rfl⟩
  | false =>
    rw [Bool.or_false]
    exact ⟨q, hq, hd, hpark⟩

end decided

theorem State.onRun_run (s : State) (f : Run → Run) : (s.onRun f).train.run = s.train.run.map f := rfl

/-- A run without a final word fails on this side, and the plot parks (R295). -/
theorem State.endVote_lost {s : State} {r : Run} (hr : s.train.run = some r) (hdue : r.due = none)
    (hlost : ((s.axesFrom 0).isEmpty && !s.isSpare) = false) :
    s.endVote.RunDecided r.phaseOver r.final (some false) true := by
  have hpark : s.noFinalWord.RunDecided r.phaseOver r.final r.passed true := by
    refine State.RunDecided.notice ?_ _ _ _ _
    exact ⟨r, hr, ⟨rfl, hdue, rfl, rfl⟩, rfl⟩
  obtain ⟨q, hq, ⟨hended, hd, hfinal, -⟩, hmust⟩ := hpark
  rw [State.endVote, if_neg (ne_false_of hlost)]
  have hrun : (s.noFinalWord.onRun (fun r => { r with passed := some false })).train.run
      = some { q with passed := some false } := by rw [State.onRun_run, hq, Option.map_some]
  exact State.RunDecided.voteFailed ⟨_, hrun, ⟨hended, hd, hfinal, rfl⟩, hmust⟩ _

/-- A slice of one chip decides by its own word (R292). -/
theorem State.endVote_alone {s : State} {r : Run} (hr : s.train.run = some r) (hp : r.passed = none)
    (halone : (s.axesFrom 0).isEmpty) (hspare : s.isSpare = false) :
    ∃ w, s.endVote.RunDecided r.phaseOver (some w) (some (s.votePasses w)) s.train.mustPark ∧
      (r.own = none → w = s.formWord) := by
  rw [State.endVote, if_pos (by simp [halone, hspare]), State.ownWord, hr]
  dsimp only
  cases hown : r.own with
  | some w => exact ⟨w, State.voteDecide_decided w hr hp, nofun⟩
  | none =>
    generalize hw : s.formWord = w
    refine ⟨w, ?_, fun _ => rfl⟩
    exact State.voteDecide_decided (s := s.onRun _) (r := r.formed w) w (congrArg (Option.map _) hr) hp

/-! ### The end of the vote phase -/

/-- The run at the end of its vote phase, which no word can decide any more. -/
def State.pastVote (s : State) : State := s.onRun (fun r => { r with phaseOver := true, due := none })

section overVote

variable {s : State} {r : Run} (hr : s.train.run = some r)

theorem State.pastVote_run (hr : s.train.run = some r) :
    s.pastVote.train.run = some { r with phaseOver := true, due := none } := congrArg (Option.map _) hr

theorem State.pastVote_formWord (hr : s.train.run = some r) : s.pastVote.formWord = s.formWord := by
  have hmask : s.pastVote.suspectMask = s.suspectMask := by
    unfold State.suspectMask
    rw [hr, State.pastVote_run hr, show s.pastVote.replica = s.replica from rfl]
    cases s.replica <;> rfl
  unfold State.formWord
  rw [hmask, hr, State.pastVote_run hr]

theorem State.overVote_of_none (hp : r.passed = none) : s.overVote r
    = if s.pastVote.endVote.atLimit then s.pastVote.endVote.runLimit else s.pastVote.endVote := by
  unfold State.overVote
  rw [hp]
  rfl

theorem State.overVote_of_some {b : Bool} (hp : r.passed = some b) : s.overVote r
    = if s.pastVote.atLimit then s.pastVote.runLimit else s.pastVote := by
  unfold State.overVote
  rw [hp]
  rfl

/-- A run that was decided stays as it was. -/
theorem State.overVote_decided (hr : s.train.run = some r) {b : Bool} (hp : r.passed = some b) :
    ∃ park, (s.overVote r).RunDecided true r.final (some b) park := by
  rw [State.overVote_of_some hp]
  exact ⟨_, State.RunDecided.limit ⟨_, State.pastVote_run hr, ⟨rfl, rfl, rfl, hp⟩, rfl⟩⟩

theorem State.overVote_lost (hr : s.train.run = some r) (hp : r.passed = none)
    (hlost : ((s.axesFrom 0).isEmpty && !s.isSpare) = false) :
    (s.overVote r).RunDecided true r.final (some false) true := by
  rw [State.overVote_of_none hp]
  exact State.RunDecided.limit (State.endVote_lost (State.pastVote_run hr) rfl hlost)

theorem State.overVote_alone (hr : s.train.run = some r) (hp : r.passed = none) (halone : (s.axesFrom 0).isEmpty)
    (hspare : s.isSpare = false) : ∃ w park, (s.overVote r).RunDecided true (some w) (some (s.votePasses w)) park ∧
      (r.own = none → w = s.formWord) := by
  obtain ⟨w, hd, hown⟩ := State.endVote_alone (State.pastVote_run hr) hp halone hspare
  rw [State.overVote_of_none hp]
  exact ⟨w, _, State.RunDecided.limit hd, fun h => (hown h).trans (State.pastVote_formWord hr)⟩

end overVote

/-- VOTE_PHASE_END at the last cycle of the vote phase. -/
theorem exec_votePhaseEnd {s : State} {r : Run} {ph : PhaseEntry} (hr : s.train.run = some r)
    (hph : s.phases[r.begun - 1]? = some ph) (hkind : ph.kind = 2) (hbegun : 0 < r.begun) (hended : r.phaseOver = false)
    (hcycle : r.phaseStart ph + ph.length * 1024 ≤ s.fabricCycle + 1) :
    exec .votePhaseEnd s = .next (s.overVote r) := by
  change execVotePhaseEnd s = _
  unfold execVotePhaseEnd
  rw [hr]
  dsimp only
  rw [Run.phase, hph]
  exact if_pos (by simp [hkind, hbegun, hended, hcycle])

/-! ### The beacons -/

section beacon

variable {p : Nat} {s : State} {b : BeaconDue} {bs : List BeaconDue} (hp : p ≤ 9) (hb : (s.check p).beacons = b :: bs)
  (hpast : (b.expected / 1024 + 1) * 1024 ≤ s.fabricCycle + 1)

theorem not_gt_nine {p : Nat} (h : p ≤ 9) : ¬ p > 9 := by omega

include hp hb hpast

theorem exec_beaconDeadline_shown (hgot : b.got = some true) :
    exec (.beaconDeadline p) s = .next (s.onCheck p (fun k => { k with beacons := bs })) := by
  refine (if_neg (not_gt_nine hp)).trans ?_
  rw [hb]
  exact (if_neg (by simp [BeaconDue.past, hpast])).trans (if_pos (beq_iff_eq.2 hgot))

theorem exec_beaconDeadline_missed {r : Run} (hgot : b.got ≠ some true) (hr : s.train.run = some r) (hbase : r.base = b.base) :
    exec (.beaconDeadline p) s = .next (((s.onCheck p (fun k => { k with beacons := bs })).onTime (fun x =>
      { x with beaconFail := true })).failCheckIn b.phase 0x06 (Site.port p b.slot) false) := by
  have hrun : s.beaconRun b = some r := by
    simp [State.beaconRun, hr, Option.filter, hbase]
  refine (if_neg (not_gt_nine hp)).trans ?_
  rw [hb]
  refine (if_neg (by simp [BeaconDue.past, hpast])).trans ((if_neg (mt beq_iff_eq.1 hgot)).trans ?_)
  rw [hrun]
  refine congrArg Host.Outcome.next (if_pos ?_)
  change s.train.run.any _ = true
  simp [hr]

end beacon

/-- Settles O26: the end of the vote phase decides what nothing has decided, and a beacon that was not shown fails its check. -/
theorem deadlinesOfAPhaseDecide : Obligations.DeadlinesOfAPhaseDecide := by
  unfold Obligations.DeadlinesOfAPhaseDecide
  refine ⟨fun s r ph hr hph hkind hbegun hended hcycle => ?_, ?_⟩
  · refine ⟨s.overVote r, ?_⟩
    rw [exec_votePhaseEnd hr hph hkind hbegun hended hcycle]
    cases hp : r.passed with
    | some b =>
      obtain ⟨park, q, hq, ⟨hover, -, -, hpassed⟩, -⟩ := State.overVote_decided hr hp
      exact ⟨q, rfl, hq, hover, fun _ hb => hb ▸ hpassed, nofun, nofun⟩
    | none =>
      cases hlost : (s.axesFrom 0).isEmpty && !s.isSpare with
      | false =>
        obtain ⟨q, hq, ⟨hover, -, -, hpassed⟩, hpark⟩ := State.overVote_lost hr hp hlost
        refine ⟨q, rfl, hq, hover, nofun, fun _ _ => ⟨hpassed, hpark⟩, fun _ halone hspare => ?_⟩
        simp [halone, hspare] at hlost
      | true =>
        simp only [Bool.and_eq_true, Bool.not_eq_true'] at hlost
        obtain ⟨halone, hspare⟩ := hlost
        obtain ⟨w, park, ⟨q, hq, ⟨hover, -, hfinal, hpassed⟩, -⟩, hown⟩ := State.overVote_alone hr hp halone hspare
        refine ⟨q, rfl, hq, hover, nofun, fun _ h => ?_, fun _ _ _ => ⟨w, hfinal, hpassed, hown⟩⟩
        simp [halone, hspare] at h
  · rintro p s u b bs hp hb hpast rfl
    exact ⟨exec_beaconDeadline_shown hp hb hpast, fun r => exec_beaconDeadline_missed hp hb hpast⟩

end Sys2Proof.Machine

/-! O24: the boundaries of runs and phases. -/
namespace Sys2Proof.Machine

/-- A run that has just begun. -/
def Run.Begins (r : Run) (n idx base : Nat) : Prop :=
  r.step = n ∧ r.idx = idx ∧ r.base = base ∧ r.begun = 0 ∧ r.passed = none

theorem State.beginRun_run (s : State) (n idx base : Nat) (prev : List FaultRec) :
    ∃ r, (s.beginRun n idx base prev).train.run = some r ∧ r.Begins n idx base ∧
      (s.beginRun n idx base prev).train.next = none :=
  ⟨_, rfl, ⟨rfl, rfl, rfl, rfl, rfl⟩, rfl⟩

theorem State.beginStep_run {s : State} {n : Nat} (hn : n = s.train.committed + 1) (base : Nat) :
    ∃ r, (s.beginStep base).train.run = some r ∧ r.Begins n 0 base ∧ (s.beginStep base).train.next = none := by
  subst hn
  exact State.beginRun_run ..

theorem State.endJobs_train (s : State) (l : List Job) (f : State → Nat) :
    (l.foldl (fun s j => s.endJob j stDone 0 (f s)) s).train = s.train :=
  foldl_frame (P := State.train) (fun _ _ => frame_of_offAq (P := State.train) (fun _ => rfl) (State.endJob_offAq ..)) l s

theorem State.refreshBy_train (s : State) (ks : List Nat) (r : RefreshBy) : (s.refreshBy ks r).train = s.train := by
  unfold State.refreshBy
  exact foldl_frame (P := State.train) (fun _ _ => by rfl) ks s

/-- The first run after a START (R67). -/
theorem starts_run {s : State} {n t0 : Nat} (hn : n = s.train.committed + 1) :
    ∃ r, (execStepBoundary.starts s t0).train.run = some r ∧ r.Begins n 0 t0 ∧
      (execStepBoundary.starts s t0).train.next = none := by
  unfold execStepBoundary.starts
  extract_lets t u v w
  have hseal : s.dropSeal.train = s.train := State.dropSeal_frame (P := State.train) (fun _ => rfl) s
  have hv : v.train.committed = s.train.committed := by
    change (if _ then u else u.refreshBy _ _ : State).train.committed = _
    split
    · exact congrArg (·.committed) hseal
    · rw [State.refreshBy_train]
      exact congrArg (·.committed) hseal
  have hw := State.beginStep_run (s := v) (n := n) (by rw [hv, hn]) t0
  change ∃ r, (State.train (List.foldl _ w _)).run = _ ∧ _
  rw [State.endJobs_train w _ (fun s => s.train.committed + 1)]
  exact hw

section boundary

variable {s : State} (hvalid : s.time.valid)
include hvalid

/-- The boundary before the first run after a START. -/
theorem exec_stepBoundary_start {t0 : Nat} (hrun : s.train.run = none) (hnext : s.train.next = some t0)
    (hdue : t0 ≤ s.time.tick) : exec .stepBoundary s = match s.recallTick with
      | some t => if t ≤ t0 then .next (s.recallNow t) else .next (execStepBoundary.starts s t0)
      | none => .next (execStepBoundary.starts s t0) := by
  refine (if_neg (by simp [hvalid])).trans ?_
  rw [hrun, hnext]
  exact if_neg (by omega)

theorem exec_stepBoundary_starts {t0 : Nat} (hrun : s.train.run = none) (hnext : s.train.next = some t0)
    (hdue : t0 ≤ s.time.tick) (hrecall : ∀ tr, s.recallTick = some tr → t0 < tr) :
    exec .stepBoundary s = .next (execStepBoundary.starts s t0) := by
  rw [exec_stepBoundary_start hvalid hrun hnext hdue]
  split
  · exact if_neg (Nat.not_le.2 (hrecall _ ‹_›))
  · rfl

variable {q : Run} (hrun : s.train.run = some q) (hend : s.runOver q)
include hrun hend

/-- The boundary after a run that is over. -/
theorem exec_stepBoundary_end : exec .stepBoundary s = if s.train.mustPark then .next (s.park false)
    else if s.recallTick.any (fun t => decide (t ≤ q.base + q.period)) then .next (s.recallNow (s.recallTick.getD 0))
    else if s.stopDue (s.train.committed + 1) then .next (s.stopNow (s.train.committed + 1))
    else if s.train.committed + 1 == q.step then
      .next ((s.leaveRun.applyChanges (s.train.committed + 1)).beginRun (s.train.committed + 1) (q.idx + 1)
        (q.base + q.period) q.faults)
    else .next (s.closeRun.leaveRun.beginStep (q.base + q.period)) := by
  refine (if_neg (by simp [hvalid])).trans ?_
  rw [hrun]
  exact if_neg (by simp [hend])

variable (hpark : s.train.mustPark = false)
include hpark

theorem exec_stepBoundary_recalls {tr : Nat} (hrecall : s.recallTick = some tr) (hdue : tr ≤ q.base + q.period) :
    exec .stepBoundary s = .next (s.recallNow tr) := by
  rw [exec_stepBoundary_end hvalid hrun hend, if_neg (ne_false_of hpark), hrecall]
  exact if_pos (by simp [hdue])

variable (hrecall : ∀ tr, s.recallTick = some tr → q.base + q.period < tr)
include hrecall

omit hvalid hrun hend hpark in
theorem no_recall_due : ¬ s.recallTick.any (fun t => decide (t ≤ q.base + q.period)) = true := by
  cases h : s.recallTick with
  | none => simp
  | some tr => simpa using hrecall tr h

/-- The next run: of the same step after a failed one, or the first of the next step (R67, R309). -/
theorem exec_stepBoundary_continues (hstop : s.stopDue (s.train.committed + 1) = false) : ∃ (t : State) (r : Run),
    exec .stepBoundary s = .next t ∧ t.train.run = some r ∧ r.Begins (s.train.committed + 1)
      (if s.train.committed + 1 = q.step then q.idx + 1 else 0) (q.base + q.period) := by
  rw [exec_stepBoundary_end hvalid hrun hend, if_neg (ne_false_of hpark), if_neg (no_recall_due hrecall),
    if_neg (ne_false_of hstop)]
  by_cases hstep : s.train.committed + 1 = q.step
  · rw [if_pos (beq_iff_eq.2 hstep), if_pos hstep]
    obtain ⟨r, hr, hbegins, -⟩ := State.beginRun_run (s.leaveRun.applyChanges (s.train.committed + 1))
      (s.train.committed + 1) (q.idx + 1) (q.base + q.period) q.faults
    exact ⟨_, r, rfl, hr, hbegins⟩
  · have hcommitted : s.closeRun.leaveRun.train.committed = s.train.committed :=
      congrArg (fun x : State => x.train.committed) (a₁ := s.closeRun.offSettle) (a₂ := s.offSettle)
        (State.closeRun_offSettle s)
    rw [if_neg (mt beq_iff_eq.1 hstep), if_neg hstep]
    obtain ⟨r, hr, hbegins, -⟩ := State.beginStep_run (s := s.closeRun.leaveRun) (n := s.train.committed + 1)
      (by rw [hcommitted]) (q.base + q.period)
    exact ⟨_, r, rfl, hr, hbegins⟩

end boundary

/-! ### Phases -/

/-- A phase begun: the run counts it, and every tile's draws and claims have started over. -/
def State.PhaseBegun (s : State) (begun : Nat) : Prop :=
  s.train.run.map (·.begun) = some begun ∧ ∀ x ∈ s.mem.tiles, x.w = 0 ∧ x.abandoned = false ∧ x.claims = []

theorem State.PhaseBegun.of_eq {s t : State} {begun : Nat} (h : s.PhaseBegun begun) (hrun : t.train.run = s.train.run)
    (hmem : t.mem = s.mem) : t.PhaseBegun begun := by
  rw [State.PhaseBegun, hrun, hmem]
  exact h

theorem State.expectBeacons_frame {β : Type} {P : State → β} (hP : ∀ x p f, P (State.onCheck x p f) = P x) (s : State)
    (r : Run) (phase : Nat) (ph : PhaseEntry) : P (s.expectBeacons r phase ph) = P s := by
  unfold State.expectBeacons
  refine foldl_frame (fun s p => ?_) _ s
  split
  · exact hP ..
  · rfl

theorem State.beginVote_frame {β : Type} {P : State → β} (hP : ∀ x p f, P (State.onPort x p f) = P x) (s : State) :
    P s.beginVote = P s := by
  unfold State.beginVote
  split
  · rfl
  · split
    · split
      · exact hP ..
      · rfl
    · rfl

/-- The run counts its next phase, and every tile's draws and claims start over (R63, R67). -/
def State.countPhase (s : State) : State :=
  (s.onRun (fun r => { r with begun := r.begun + 1 })).onMem (fun m => { m with tiles := m.tiles.map (fun t => { t with
    w := 0, draws := [], abandoned := false, claims := [] }) })

/-- The beacons of the phase are waited for and due, unless the update phase is an idle one. -/
def State.awaitPhase (s : State) (r : Run) (ph : PhaseEntry) : State :=
  let idle := ph.kind == 3 && r.idle
  let s := if idle then s else s.expectBeacons r r.begun ph
  let s := s.onPorts (fun p => { p with beaconDue := p.inSlice && !idle })
  if ph.kind == 3 && !idle then
    s.onTrain (fun t => { t with holds := { t.holds with entries := [], tiebreak := false, lost := [] } })
  else s

theorem State.countPhase_begun {s : State} {r : Run} (hr : s.train.run = some r) : s.countPhase.PhaseBegun (r.begun + 1) := by
  refine ⟨?_, fun z hz => ?_⟩
  · change (s.train.run.map _).map _ = _
    rw [hr]
    rfl
  · obtain ⟨z', -, rfl⟩ := List.mem_map.1 hz
    exact ⟨rfl, rfl, rfl⟩

theorem State.awaitPhase_begun {s : State} {begun : Nat} (h : s.PhaseBegun begun) (r : Run) (ph : PhaseEntry) :
    (s.awaitPhase r ph).PhaseBegun begun := by
  have hbeacons : (if ph.kind == 3 && r.idle then s else s.expectBeacons r r.begun ph).PhaseBegun begun := by
    split
    · exact h
    · exact h.of_eq (congrArg (·.run) (State.expectBeacons_frame (P := State.train) (fun _ _ _ => rfl) s r r.begun ph))
        (State.expectBeacons_frame (P := State.mem) (fun _ _ _ => rfl) s r r.begun ph)
  unfold State.awaitPhase
  dsimp only
  split
  · exact hbeacons
  · exact hbeacons

/-- PHASE_START at the tick of the next phase (R63, R67). -/
theorem exec_phaseStart {s : State} {r : Run} {ph : PhaseEntry} (hr : s.train.run = some r)
    (hph : s.phases[r.begun]? = some ph) (hvalid : s.time.valid) (hdue : r.base + ph.start ≤ s.time.tick)
    (hdecided : ph.kind = 3 → r.passed.isSome) : exec .phaseStart s
      = .next (if ph.kind == 2 then (s.countPhase.awaitPhase r ph).beginVote else s.countPhase.awaitPhase r ph) := by
  have hgo : ¬ (!s.time.valid || decide (s.time.tick < r.base + ph.start) || (ph.kind == 3 && r.passed.isNone)) = true := by
    intro h
    simp only [Bool.or_eq_true, Bool.not_eq_true', decide_eq_true_eq, Bool.and_eq_true, beq_iff_eq] at h
    obtain (hv | ht) | ⟨hk, hn⟩ := h
    · simp [hvalid] at hv
    · omega
    · exact not_isNone_of_isSome (hdecided hk) hn
  change execPhaseStart s = _
  unfold execPhaseStart
  rw [hr]
  dsimp -zeta only
  rw [hph]
  exact if_neg hgo

/-- Settles O24: what a boundary does in the order of its checks, and what a phase starts over. -/
theorem boundariesAndPhasesBegin : Obligations.BoundariesAndPhasesBegin := by
  unfold Obligations.BoundariesAndPhasesBegin
  refine ⟨?_, fun s r ph hr hph hvalid hdue hdecided => ⟨_, exec_phaseStart hr hph hvalid hdue hdecided, ?_⟩⟩
  swap
  · have hbegun := State.awaitPhase_begun (State.countPhase_begun hr) r ph
    split
    · exact hbegun.of_eq (congrArg (·.run) (State.beginVote_frame (P := State.train) (fun _ _ _ => rfl) _))
        (State.beginVote_frame (P := State.mem) (fun _ _ _ => rfl) _)
    · exact hbegun
  rintro s n hvalid rfl
  refine ⟨fun t0 hrun hnext hdue => ⟨fun tr hrecall hle => ?_, fun hrecall => ?_⟩, ?_⟩
  · rw [exec_stepBoundary_start hvalid hrun hnext hdue, hrecall]
    exact if_pos hle
  · obtain ⟨r, hr, ⟨hstep, hidx, hbase, hbegun, hpassed⟩, hnone⟩ := starts_run (s := s) (t0 := t0) rfl
    exact ⟨_, r, exec_stepBoundary_starts hvalid hrun hnext hdue hrecall, hr, hstep, hidx, hbase, hbegun, hpassed, hnone⟩
  · rintro q base hrun hend rfl
    refine ⟨fun hpark => ?_, fun hpark => ⟨fun tr => exec_stepBoundary_recalls hvalid hrun hend hpark,
      fun hrecall => ⟨fun hstop => ?_, fun hstop => ?_⟩⟩⟩
    · rw [exec_stepBoundary_end hvalid hrun hend, if_pos hpark]
    · rw [exec_stepBoundary_end hvalid hrun hend, if_neg (ne_false_of hpark), if_neg (no_recall_due hrecall), if_pos hstop]
    · obtain ⟨t, r, hexec, hr, hstep, hidx, hbase, hbegun, hpassed⟩ :=
        exec_stepBoundary_continues hvalid hrun hend hpark hrecall hstop
      exact ⟨t, r, hexec, hr, hstep, hbase, hidx, hbegun, hpassed⟩

end Sys2Proof.Machine

/-! O44: BOOT. -/
namespace Sys2Proof.Machine

/-- What is left of a change to HOLD beside the chip's own block: sent outputs only grow, and the ports, the checks and the
records change. -/
theorem State.toHold_chip (s : State) (scope kind step ms : Nat) (hstacks ports : List Nat) :
    (s.toHold scope kind step ms hstacks ports).chip = { s.chip with
      st := .hold, test := none, report := ⟨scope, kind, 1, step, ms, hstacks, ports⟩ } := by
  have hrefresh (t : State) : (t.refreshBy (List.range 8) .selfRefresh).chip = t.chip := by
    unfold State.refreshBy
    exact foldl_frame (P := State.chip) (fun _ _ => by rfl) _ t
  have hnotice (t : State) : (t.notice 0x1C Site.none 8 0xFF).chip = t.chip :=
    frame_of_offRecords (P := State.chip) (fun _ => rfl) (State.notice_offRecords ..)
  have hfault (t : State) (f : State → State) : (t.withFaultN f).chip = (f t).chip := by
    unfold State.withFaultN
    dsimp only
    split <;> rfl
  unfold State.toHold
  dsimp only
  rw [hnotice, hrefresh]
  exact hfault ..

section boot

variable {i : BootInfo} {s : State} (hst : s.chip.st = .boot) (hheld : s.chip.held = ⟨false, false, false⟩)

/-- VCORE's set point sent over AVSBus. -/
def State.setVcore (s : State) : State :=
  { s.emit (.avs setpointMv) with chip := { s.chip with setpoint := setpointMv } }

/-- Whether a bank's signature holds. -/
def bootBankOk (i : BootInfo) (n : Nat) : Bool := if n == 0 then i.bank0Ok else i.bank1Ok

/-- Whether the supply answers and has followed. -/
def bootSupplyOk (i : BootInfo) : Bool :=
  i.avsAnswers && decide (i.readBackMv ≤ setpointMv + 10) && decide (setpointMv ≤ i.readBackMv + 10)

/-- The bank that BOOT runs: the active one where its signature holds, else the other. -/
def State.bootBank (s : State) (i : BootInfo) : Nat := if bootBankOk i s.flash.active then s.flash.active else 1 - s.flash.active

/-- The power-on self-test from a bank. -/
def State.bootFrom (s : State) (b : Nat) : State := { s with
  flash := { s.flash with active := b }
  chip := { s.chip with
    st := .selftest
    ucode := (nth s.flash.banks b ⟨false, 0, 0⟩).ucode
    test := some ⟨0xFF, 2, s.chip.fullNext, 1, false, false, 0, List.range 10⟩ } }

include hst hheld

theorem exec_bootComplete : exec (.bootComplete i) s =
    if !bootSupplyOk i then .next (s.setVcore.toHold 0xFF 2 0 0 noStacks noPorts)
    else if bootBankOk i s.flash.active || bootBankOk i (1 - s.flash.active) then .next (s.setVcore.bootFrom (s.bootBank i))
    else .next (s.setVcore.toHold 0xFF 2 0 0 noStacks noPorts) :=
  if_neg (by simp [hst, hheld])

omit hst hheld in
/-- The chosen bank holds where either does. -/
theorem State.bankOk_bootBank (s : State) (i : BootInfo) :
    bootBankOk i (s.bootBank i) = (bootBankOk i s.flash.active || bootBankOk i (1 - s.flash.active)) := by
  unfold State.bootBank
  cases h : bootBankOk i s.flash.active <;> simp [h]

theorem exec_bootComplete_runs (hsupply : bootSupplyOk i) (hbank : bootBankOk i (s.bootBank i)) :
    exec (.bootComplete i) s = .next (s.setVcore.bootFrom (s.bootBank i)) := by
  rw [State.bankOk_bootBank] at hbank
  rw [exec_bootComplete hst hheld, if_neg (by simp [hsupply]), if_pos hbank]

theorem exec_bootComplete_holds (hbad : bootSupplyOk i = false ∨ bootBankOk i (s.bootBank i) = false) :
    exec (.bootComplete i) s = .next (s.setVcore.toHold 0xFF 2 0 0 noStacks noPorts) := by
  rw [State.bankOk_bootBank] at hbad
  rw [exec_bootComplete hst hheld]
  obtain h | h := hbad
  · rw [if_pos (by simp [h])]
  · rw [h]
    exact ite_self _

end boot

/-- Settles O44: the supply and the banks decide between the self-test and HOLD. -/
theorem bootLeadsToSelftestOrHold : Obligations.BootLeadsToSelftestOrHold := by
  unfold Obligations.BootLeadsToSelftestOrHold
  rintro s i ok b hst hheld rfl hb
  have hok (n : Nat) : (if n = 0 then i.bank0Ok else i.bank1Ok) = bootBankOk i n := by simp [bootBankOk]
  simp only [hok] at hb ⊢
  obtain rfl : b = s.bootBank i := hb
  refine ⟨fun havs hlow hhigh hbank => ?_, fun hbad => ?_⟩
  · have hsupply : bootSupplyOk i = true := by simp [bootSupplyOk, havs, hlow, hhigh]
    exact ⟨_, exec_bootComplete_runs hst hheld hsupply hbank, rfl, rfl, rfl, rfl, rfl, rfl⟩
  · have hhold : bootSupplyOk i = false ∨ bootBankOk i (s.bootBank i) = false := by
      rw [bootSupplyOk]
      obtain h | h | h | h := hbad
      · simp [h]
      · have : ¬ i.readBackMv ≤ setpointMv + 10 := by omega
        simp [this]
      · have : ¬ setpointMv ≤ i.readBackMv + 10 := by omega
        simp [this]
      · exact .inr h
    refine ⟨_, exec_bootComplete_holds hst hheld hhold, ?_⟩
    rw [State.toHold_chip]
    refine ⟨rfl, rfl, rfl, rfl, ?_⟩
    have hkeeps := State.toHold_keeps s.setVcore 0xFF 2 0 0 noStacks noPorts (Keeps.refl s.setVcore)
    exact hkeeps.out.subset (List.mem_append_right _ (List.mem_singleton_self _))

end Sys2Proof.Machine

/-! O45: dips, voltages and temperatures. -/
namespace Sys2Proof.Machine

/-! ### Dips -/

section dips

variable {s : State}

theorem State.dipEvent_offChecks (w : Site) : (s.dipEvent w).offChecks = s.offChecks := State.event_offChecks ..

theorem State.lateDip_offFaults (r : Run) (w : Site) : (s.lateDip r w).offFaults = s.offFaults := by
  unfold State.lateDip
  dsimp only
  split
  · rfl
  · split
    · exact (State.declareSuspect_offFaults ..).trans (State.onRun_offFaults ..)
    · split
      · exact (State.declareSuspect_offFaults ..).trans (State.onTrain_offFaults ..)
      · exact State.onTrain_offFaults ..

theorem State.runDip_offFaults (r : Run) (w : Site) : (s.runDip r w).offFaults = s.offFaults := by
  unfold State.runDip
  dsimp only
  split
  · exact (State.lateDip_offFaults ..).trans (State.failCheckIn_offFaults ..)
  · exact State.failCheckIn_offFaults ..

/-- A dip before the chip's own vote word marks the run and the step (R314). -/
theorem State.runDip_marks {r : Run} (hr : s.train.run = some r) (hv : s.voted = false) (w : Site) :
    (s.runDip r w).train.dipStep ∧ (s.runDip r w).train.run.map (·.suspectMark) = some true := by
  have hrun : (s.failCheck 0x0E w false).train.run.map Run.offChecks = s.train.run.map Run.offChecks :=
    congrArg (fun x : State => x.train.run) (a₁ := State.offChecks _) (a₂ := s.offChecks) (State.failCheckIn_offChecks ..)
  rw [hr, Option.map_some, Option.map_eq_some_iff] at hrun
  obtain ⟨q, hq, -⟩ := hrun
  unfold State.runDip
  dsimp only
  rw [if_neg (ne_false_of hv)]
  refine ⟨rfl, ?_⟩
  change ((s.failCheck 0x0E w false).train.run.map _).map _ = _
  rw [hq]
  rfl

/-- A dip in progress, with the voltage and the cycle of its crossing, on a rail that counts it. -/
def State.DipBegun (s : State) (rail mv : Nat) (t : State) : Prop :=
  ∃ d, t.power.dip = some d ∧ d.rail = rail ∧ d.lowest = mv ∧ d.began = s.time.cyc ∧
    t.power.rails = s.power.rails.modify rail (fun r => { r with dips := r.dips + 1, lowest := min r.lowest mv })

/-- The dip's own part of SUPPLY_DIP_BEGIN. -/
def State.beginDip (s : State) (rail mv : Nat) (o : Option Nat) : State := { s with power := { s.power with
  dip := some ⟨rail, mv, s.time.cyc, o⟩
  rails := modifyAt s.power.rails rail (fun r => { r with dips := r.dips + 1, lowest := min r.lowest mv }) } }

theorem State.beginDip_begun {t : State} (h : t.offFaults = s.offFaults) (rail mv : Nat) (o : Option Nat) :
    s.DipBegun rail mv (t.beginDip rail mv o) := by
  have hpower : t.power = s.power := congrArg (·.power) h
  have htime : t.time = s.time := congrArg (·.time) h
  refine ⟨_, rfl, rfl, rfl, ?_, ?_⟩
  · rw [htime]
  · rw [← hpower]
    rfl

theorem State.DipBegun.of_power {rail mv : Nat} {t u : State} (h : s.DipBegun rail mv t) (hu : u.power = t.power) :
    s.DipBegun rail mv u := by
  rw [State.DipBegun, hu]
  exact h

/-- The rail whose dip it is: VCORE or VSRAM. -/
def dipRail (vcore : Bool) : Nat := if vcore then 3 else 2

/-- Where the dip is. -/
def dipSite (vcore : Bool) (mv : Nat) : Site := ⟨5, dipRail vcore, mv, 0xFFFFFFFF, 0, none⟩

section begins

variable (v : Bool) (mv : Nat) (hheld : s.chip.held = ⟨false, false, false⟩) (hdip : s.power.dip = none)
include hheld hdip

theorem dip_begins : ¬ (s.chip.held.power || s.chip.held.pin || s.chip.held.trip || s.power.dip.isSome) = true := by
  simp [hheld, hdip]

/-- A dip while a step runs is the run's. -/
theorem exec_supplyDipBegin_run {r : Run} (hst : s.chip.st = .ready) (hprof : s.chip.profile = 0) (hr : s.train.run = some r) :
    exec (.supplyDipBegin v mv) s = .next ((s.runDip r (dipSite v mv)).beginDip (dipRail v) mv none) := by
  change execSupplyDipBegin v mv s = _
  unfold execSupplyDipBegin
  rw [if_neg (dip_begins hheld hdip)]
  extract_lets rail w begun
  rw [if_neg (by simp [hst]), if_pos (by simp [hprof]), hr]
  rfl

/-- Any other dip has its own event, and outside a run of a step no more than marks of its own. -/
theorem exec_supplyDipBegin_other (h : s.chip.st ≠ .ready ∨ s.chip.profile ≠ 0 ∨ s.train.run = none) : ∃ t o,
    exec (.supplyDipBegin v mv) s = .next t ∧ t.power = ((s.dipEvent (dipSite v mv)).beginDip (dipRail v) mv o).power := by
  change ∃ t o, execSupplyDipBegin v mv s = .next t ∧ _
  unfold execSupplyDipBegin
  rw [if_neg (dip_begins hheld hdip)]
  extract_lets rail w begun u chip hit u'
  have hbegun (o : Option Nat) : begun (s.dipEvent w) o = (s.dipEvent (dipSite v mv)).beginDip (dipRail v) mv o := rfl
  by_cases hst : s.chip.st = .ready
  · rw [if_neg (by simp [hst])]
    by_cases hprof : s.chip.profile = 0
    · have hr : s.train.run = none := (h.resolve_left (not_not_intro hst)).resolve_left (not_not_intro hprof)
      rw [if_pos (by simp [hprof]), hr]
      exact ⟨_, _, rfl, congrArg State.power (hbegun _)⟩
    · rw [if_neg (by simp [hprof])]
      refine ⟨_, some (if hit then 6 else 9), rfl, ?_⟩
      change (begun (s.dipEvent w) (some (if hit then 6 else 9))).power = _
      rw [hbegun]
  · rw [if_pos (by simp [hst])]
    refine ⟨_, some 9, rfl, ?_⟩
    rw [← hbegun]
    split <;> rfl

/-- A dip begins, whatever the chip is doing; in a run that has not voted it marks the run. -/
theorem exec_supplyDipBegin : ∃ t, exec (.supplyDipBegin v mv) s = .next t ∧ s.DipBegun (dipRail v) mv t ∧
    ∀ r, s.train.run = some r → s.chip.st = .ready → s.chip.profile = 0 → s.voted = false →
      t.train.dipStep ∧ t.train.run.map (·.suspectMark) = some true := by
  by_cases h : s.chip.st = .ready ∧ s.chip.profile = 0 ∧ s.train.run ≠ none
  · obtain ⟨hst, hprof, hrun⟩ := h
    obtain ⟨r, hr⟩ := Option.ne_none_iff_exists'.1 hrun
    exact ⟨_, exec_supplyDipBegin_run v mv hheld hdip hst hprof hr, State.beginDip_begun (State.runDip_offFaults ..) ..,
      fun _ _ _ _ hv => State.runDip_marks hr hv _⟩
  · obtain ⟨t, o, hexec, hpower⟩ := exec_supplyDipBegin_other (s := s) v mv hheld hdip (by tauto)
    refine ⟨t, hexec, (State.beginDip_begun ?_ (dipRail v) mv o).of_power hpower, fun r hr hst hprof => ?_⟩
    · exact State.offFaults_of_offChecks (State.dipEvent_offChecks _)
    · exact absurd ⟨hst, hprof, by simp [hr]⟩ h

end begins

/-- A dip in progress is the only one. -/
theorem exec_supplyDipBegin_again (v : Bool) (mv : Nat) (hdip : s.power.dip.isSome) :
    exec (.supplyDipBegin v mv) s = .next s :=
  if_pos (by simp [hdip])

/-- The end of a dip leaves its lowest voltage at its rail. -/
theorem exec_supplyDipEnd {d : Dip} (hdip : s.power.dip = some d) (mv : Nat) :
    ∃ t, exec (.supplyDipEnd mv) s = .next t ∧ t.power.dip = none ∧
      t.power.rails = s.power.rails.modify d.rail (fun r => { r with lowest := min r.lowest (min d.lowest mv) }) := by
  change ∃ t, execSupplyDipEnd mv s = _ ∧ _
  unfold execSupplyDipEnd
  rw [hdip]
  dsimp only
  cases d.record <;> exact ⟨_, rfl, rfl, rfl⟩

end dips

/-! ### Temperatures -/

/-- What a sensor keeps of a reading below its warning level. -/
def Sensor.below (x : Sensor) (r : Int) : Sensor := ⟨r, if x.fresh then r else max x.peak r, 0, r, false⟩

theorem warn_le_crit (i : Nat) : warnLevel i ≤ critLevel i := by
  unfold warnLevel critLevel
  split <;> decide

theorem warn_le_stack {i : Nat} (h : 16 ≤ i) : warnLevel i ≤ 9500 := by
  rw [warnLevel, if_neg (by omega)]
  decide

/-- A normal sensor stays normal at a reading below its warning level. -/
theorem sensorNext_below {i : Nat} {x : Sensor} {r : Int} (hx : x.st = 0) (hr : r < warnLevel i) : sensorNext i x r = 0 := by
  have hcrit : ¬ critLevel i ≤ r := by
    have := warn_le_crit i
    omega
  have hwarn : ¬ warnLevel i ≤ r := by omega
  simp [sensorNext, hx, hcrit, hwarn]

/-- Only the sensors and the stacks' heat change. -/
def State.OnlySensors (s t : State) : Prop := t.aq = s.aq ∧ t.plots = s.plots ∧ t.train = s.train

/-- One reading below the warning level. -/
theorem State.readSensor_below {s : State} {i : Nat} {x : Sensor} {r : Int} (hx : s.power.sensors[i]? = some x) (hst : x.st = 0)
    (hr : r < warnLevel i) : (s.readSensor i r).power.sensors = s.power.sensors.set i (x.below r) ∧
      State.OnlySensors s (s.readSensor i r) := by
  have hcool : ¬ (i ≥ 16 && decide (r > 9500) && s.train.run.isSome) = true := by
    intro h
    simp only [Bool.and_eq_true, decide_eq_true_eq] at h
    obtain ⟨⟨hi, hhot⟩, -⟩ := h
    have := warn_le_stack hi
    omega
  unfold State.readSensor
  rw [nth_of_getElem? hx]
  dsimp only
  rw [if_neg hcool, sensorNext_below hst hr, hst, if_neg (by decide), if_neg (by decide)]
  split
  · exact ⟨rfl, rfl, rfl, rfl⟩
  · exact ⟨rfl, rfl, rfl, rfl⟩

/-- The next sensor read. -/
def State.readNext (rs : List Int) (s : State) (i : Nat) : State := match rs[i]? with
  | some r => s.readSensor i r
  | none => s

/-- The sensors read in their order, one after another. -/
theorem readSensors_below {s : State} {rs : List Int} (hlen : s.power.sensors.length = 24) (hrs : rs.length = 24)
    (hst : ∀ x ∈ s.power.sensors, x.st = 0) (hr : ∀ i r, rs[i]? = some r → r < warnLevel i) {k : Nat} (hk : k ≤ 24) :
    ∀ t, t = (List.range k).foldl (State.readNext rs) s →
    (∀ j : Nat, t.power.sensors[j]? = if j < k then (List.zipWith Sensor.below s.power.sensors rs)[j]? else s.power.sensors[j]?) ∧
      State.OnlySensors s t := by
  induction k with
  | zero => rintro t rfl; exact ⟨fun j => rfl, rfl, rfl, rfl⟩
  | succ k ih =>
    rintro t rfl
    rw [List.range_succ, List.foldl_append, List.foldl_cons, List.foldl_nil]
    obtain ⟨hsensors, haq, hplots, htrain⟩ := ih (by omega) _ rfl
    generalize (List.range k).foldl _ s = u at *
    obtain ⟨r, hrk⟩ : ∃ r, rs[k]? = some r := ⟨_, List.getElem?_eq_getElem (by omega)⟩
    obtain ⟨x, hxk⟩ : ∃ x, s.power.sensors[k]? = some x := ⟨_, List.getElem?_eq_getElem (by omega)⟩
    have hux : u.power.sensors[k]? = some x := by rw [hsensors, if_neg (Nat.lt_irrefl k), hxk]
    obtain ⟨hset, haq', hplots', htrain'⟩ := State.readSensor_below hux (hst x (List.mem_of_getElem? hxk)) (hr k r hrk)
    rw [State.readNext, hrk]
    refine ⟨fun j => ?_, haq'.trans haq, hplots'.trans hplots, htrain'.trans htrain⟩
    rw [hset, List.getElem?_set]
    by_cases hj : k = j
    · subst hj
      have hin : k < u.power.sensors.length := (List.getElem?_eq_some_iff.1 hux).1
      rw [if_pos rfl, if_pos hin, if_pos (Nat.lt_succ_self k), List.getElem?_zipWith, hxk, hrk]
    · rw [if_neg hj, hsensors]
      by_cases hlt : j < k
      · rw [if_pos hlt, if_pos (by omega)]
      · rw [if_neg hlt, if_neg (by omega)]

/-- Settles O45: dips by where they strike, temperatures by the fold over the sensors. -/
theorem supplyAndHeatAreWatched : Obligations.SupplyAndHeatAreWatched := by
  unfold Obligations.SupplyAndHeatAreWatched
  refine ⟨fun s v mv => ⟨fun hheld hdip => ?_, exec_supplyDipBegin_again v mv, fun d hdip => exec_supplyDipEnd hdip mv⟩,
    fun s rs mv ma => ⟨fun hlen hrs hst hr => ?_, fun rails hrails => hrails ▸ rfl⟩⟩
  · obtain ⟨t, hexec, ⟨d, hd, hrail, hlow, hbegan, hrails⟩, hmarks⟩ := exec_supplyDipBegin v mv hheld hdip
    exact ⟨t, d, hexec, hd, hrail, hlow, hbegan, hrail ▸ hrails, hmarks⟩
  · obtain ⟨hsensors, haq, hplots, htrain⟩ := readSensors_below hlen hrs hst hr (Nat.le_refl 24) _ rfl
    refine ⟨(List.range 24).foldl (State.readNext rs) s, rfl, List.ext_getElem? fun j => ?_, haq, hplots, htrain⟩
    rw [hsensors]
    by_cases hj : j < 24
    · rw [if_pos hj]
      rfl
    · rw [if_neg hj, List.getElem?_eq_none (by omega), List.getElem?_eq_none (by simp; omega)]

end Sys2Proof.Machine

/-! O46: the flash device. -/
namespace Sys2Proof.Machine

section flash

variable {s : State} {status : Nat} {c : Nvme} {rest : List Nvme}

/-- The state once the oldest NVMe command has left. -/
def State.nvmeTaken (s : State) (rest : List Nvme) : State := s.onHost (fun h => { h with nvme := rest })

section completion

variable (hn : s.host.nvme = c :: rest)
include hn

theorem exec_nvmeCompletion_error (hst : status % 32768 ≠ 0) : exec (.nvmeCompletion status) s
    = .next (if c.retried then (s.nvmeTaken rest).nvmeFail c (status % 32768)
      else (s.nvmeTaken rest).nvmeIssue { c with retried := true }) := by
  change execNvmeCompletion status s = _
  unfold execNvmeCompletion
  rw [hn]
  dsimp only
  rw [if_neg (mt beq_iff_eq.1 hst)]
  cases c.retried <;> rfl

theorem exec_nvmeCompletion_staged (huse : c.use_ = 2) :
    exec (.nvmeCompletion 0) s = .next ((s.nvmeTaken rest).staged c) := by
  change execNvmeCompletion 0 s = _
  unfold execNvmeCompletion
  rw [hn]
  dsimp only
  rw [huse]
  rfl

theorem exec_nvmeCompletion_plain (huse : c.use_ = 3 ∨ c.use_ = 4) :
    exec (.nvmeCompletion 0) s = .next (s.nvmeTaken rest) := by
  change execNvmeCompletion 0 s = _
  unfold execNvmeCompletion
  rw [hn]
  dsimp only
  obtain huse | huse := huse
  · rw [huse]; rfl
  · rw [huse]; rfl

theorem exec_nvmeCompletion_hamper (huse : c.use_ < 2) :
    exec (.nvmeCompletion 0) s = .next ((s.nvmeTaken rest).flashNext.settlePages.hamperEnd) := by
  change execNvmeCompletion 0 s = _
  unfold execNvmeCompletion
  rw [hn]
  dsimp only
  rw [if_pos (by decide)]
  split
  · omega
  · omega
  · omega
  · rfl

end completion

theorem exec_nvmeTimeout (hn : s.host.nvme ≠ []) : ∀ again : Bool,
    again = s.host.lastTimeout.any (fun x => decide (s.time.cyc < x + tenMinutes)) →
    exec .nvmeTimeout s = .next (({ s with
      out := s.out ++ [.nvmeReset], free := s.free + 1,
      host := { s.host with lastTimeout := some s.time.cyc, flState := if again then 3 else s.host.flState } } :
        State).failAllNvme (if again then flashDead else Config.freeNat s.free % 32768)) := by
  rintro again hagain
  change execNvmeTimeout s = _
  unfold execNvmeTimeout
  rw [if_neg (by simpa using hn)]
  extract_lets again' d t
  have hsame : again' = again := by
    rw [hagain]
    change (match s.host.lastTimeout with | some t => _ | none => _) = _
    cases s.host.lastTimeout with
    | none => rfl
    | some x => exact (Option.any_some).symm
  clear_value again'
  subst hsame
  rfl

theorem exec_flashLinkDown_lost (h : s.host.flState ≠ 0) : exec (.flashLinkDown false) s
    = .next ((s.onHost (fun h => { h with flState := 3, flWidth := 0, flSpeed := 0 })).failAllNvme flashDead) :=
  if_neg (by simp [h])

end flash

/-- Settles O46: what the device's events do, by the use of the command that they end. -/
theorem theFlashDeviceServesItsCommands : Obligations.TheFlashDeviceServesItsCommands := by
  unfold Obligations.TheFlashDeviceServesItsCommands
  rintro s status c rest t rfl
  refine ⟨fun i hst hfl => ?_, fun hn hlt => ?_, exec_nvmeTimeout, exec_flashLinkDown_lost, rfl⟩
  · refine (if_neg (by simp [hst, hfl])).trans ?_
    simp only [beq_iff_eq]
  · have hmod : status % 32768 = status := Nat.mod_eq_of_lt hlt
    refine ⟨fun h0 hretry => ?_, fun h0 hretry => ?_, ?_, ?_, ?_⟩
    · rw [exec_nvmeCompletion_error hn (by rwa [hmod]), hretry]
      rfl
    · rw [exec_nvmeCompletion_error hn (by rwa [hmod]), hretry, hmod]
      rfl
    · rintro rfl
      exact exec_nvmeCompletion_staged hn
    · rintro rfl
      exact exec_nvmeCompletion_plain hn
    · rintro rfl
      exact exec_nvmeCompletion_hamper hn

end Sys2Proof.Machine

/-! O37: the router's tick. -/
namespace Sys2Proof.Machine

theorem State.takeMarks_bgp (s : State) : s.takeMarks.bgp.lastTick = some s.routerNow ∧ s.takeMarks.bgp.newMarks = none ∧
    (s.takeMarks.bgp.low, s.takeMarks.bgp.high) = s.bgp.newMarks.getD (s.bgp.low, s.bgp.high) := by
  cases hm : s.bgp.newMarks with
  | none => simp [State.takeMarks, State.onBgp, hm]
  | some m => simp [State.takeMarks, State.onBgp, hm]

/-- Settles O37. -/
theorem theRouterAssignsSlotsOnceATick : Obligations.TheRouterAssignsSlotsOnceATick := by
  unfold Obligations.TheRouterAssignsSlotsOnceATick
  rintro s t now rfl rfl
  exact ⟨fun h => if_pos (beq_iff_eq.2 h), fun h => if_neg (mt beq_iff_eq.1 h), s.takeMarks_bgp⟩

end Sys2Proof.Machine

/-! O39: the timers of the background plane. -/
namespace Sys2Proof.Machine

section timers

variable {s : State} {chip id : Nat}

theorem exec_ackTimer {t : Track} {a : Nat} (ht : s.track? chip id = some t) (ha : t.ackFrom = some a)
    (hdue : a + 256 ≤ s.ownTick) : exec (.ackTimer chip id) s = .next (s.sendAck chip id) := by
  change execAckTimer chip id s = _
  unfold execAckTimer
  rw [ht]
  dsimp only
  rw [ha]
  exact congrArg _ (if_pos hdue)

theorem exec_trackerIdleExpiry {t : Track} (ht : s.track? chip id = some t) (hst : t.st ≠ 1)
    (hdue : t.last + 16384 ≤ s.ownTick) : exec (.trackerIdleExpiry chip id) s = .next (s.onBgp (fun b => { b with
      tracker := b.tracker.filter (fun t => decide (¬(t.chip = chip ∧ t.stream = id))) })) := by
  change execTrackerIdleExpiry chip id s = _
  unfold execTrackerIdleExpiry
  rw [ht]
  dsimp only
  rw [if_pos (by simp [hst, hdue]), State.dropTrack]
  simp only [Bool.beq_eq_decide_eq, Bool.decide_and, decide_not]

section flight

variable {x : Stream} {f : Nat × Nat × Nat} (hx : s.stream? chip id = some x)
  (hf : x.flight.find? (fun g => g.1 == f.1) = some f) (hdue : f.2.1 + 16384 ≤ s.ownTick) (hnew : f.1 ∉ x.again)
include hx hf hdue hnew

theorem exec_retransmitTimeout_again (htries : f.2.2 < 8) : exec (.retransmitTimeout chip id f.1) s
    = .next (s.onStream chip id (fun x => { x with again := x.again ++ [f.1] })) := by
  change execRetransmitTimeout chip id f.1 s = _
  unfold execRetransmitTimeout
  rw [hx]
  dsimp only
  rw [hf]
  dsimp only
  rw [if_neg (by simp [hdue, hnew]), if_neg (by omega)]

theorem exec_retransmitTimeout_last (htries : 8 ≤ f.2.2) : ∃ u : State,
    exec (.retransmitTimeout chip id f.1) s = .next (u.streamFailed x stAborted 3) ∧ u.bgp = s.bgp := by
  change ∃ u : State, execRetransmitTimeout chip id f.1 s = _ ∧ _
  unfold execRetransmitTimeout
  rw [hx]
  dsimp only
  rw [hf]
  dsimp only
  rw [if_neg (by simp [hdue, hnew]), if_pos htries]
  exact ⟨_, rfl, frame_of_offRecords (P := State.bgp) (fun _ => rfl) (State.event_offRecords ..)⟩

end flight

theorem exec_fetchRetryTimer_unknown {f : Fetch} (hf : s.bgp.fetches.find? (fun f => f.stream == id && f.reason != 0
      && decide (f.sentAt + 1024 ≤ s.ownTick)) = some f) (hr : f.reason = 1) : exec (.fetchRetryTimer id) s
    = .next (s.onFetch f.chip id (fun f => { f with toSend := true, reason := 0, tries := f.tries + 1 })) := by
  change execFetchRetryTimer id s = _
  unfold execFetchRetryTimer
  rw [hf]
  exact if_pos (beq_iff_eq.2 hr)

theorem exec_fetchRetryTimer_other {f : Fetch} (hf : s.bgp.fetches.find? (fun f => f.stream == id && f.reason != 0
      && decide (f.sentAt + 1024 ≤ s.ownTick)) = some f) (hr : f.reason ≠ 1) : exec (.fetchRetryTimer id) s
    = .next (((s.pickId f.chip).2.dropFetch f.chip id).onBgp (fun b => { b with fetches := b.fetches ++
      [{ f with stream := (s.pickId f.chip).1, toSend := true, reason := 0, answered := false, tries := f.tries + 1 }] })) := by
  change execFetchRetryTimer id s = _
  unfold execFetchRetryTimer
  rw [hf]
  exact if_neg (mt beq_iff_eq.1 hr)

theorem not_mem_dropFetch {g : Fetch} (hg : g ∈ (s.dropFetch chip id).bgp.fetches) : ¬(g.chip = chip ∧ g.stream = id) := by
  obtain ⟨-, hne⟩ := List.mem_filter.1 hg
  simpa [or_iff_not_imp_left] using hne

end timers

section shift

variable {s : State} {h : Shift} {q : Request} (hs : s.shift = some h) (hq : h.request = some q)
include hs hq

/-- A REQUEST whose wait is over goes out again, unless nothing answered it for the eighth time. -/
theorem exec_shiftRetryTimer_again {r : Request} (hdue : q.since + (if q.notReady then 1024 else 16384) ≤ s.ownTick)
    (htries : q.notReady ∨ q.tries < 7)
    (hr : r = { q with tries := if q.notReady then 0 else q.tries + 1, since := s.ownTick, notReady := false }) :
    ∃ u : State, exec (.shiftRetryTimer q.run) s = .next (u.sendRequest h r) ∧ u.shift = some { h with request := some r } := by
  change ∃ u : State, execShiftRetryTimer q.run s = _ ∧ _
  unfold execShiftRetryTimer
  rw [hs]
  dsimp only
  rw [hq]
  dsimp only
  rw [if_neg (by simp; omega), if_neg (by cases hn : q.notReady <;> simp [hn] at htries ⊢; omega), ← hr]
  refine ⟨_, rfl, ?_⟩
  rw [State.onShift, hs]
  rfl

theorem exec_shiftRetryTimer_last (hn : q.notReady = false) (hdue : q.since + 16384 ≤ s.ownTick) (htries : 7 ≤ q.tries) :
    exec (.shiftRetryTimer q.run) s = .next (s.shiftAbort 2) := by
  change execShiftRetryTimer q.run s = _
  unfold execShiftRetryTimer
  rw [hs]
  dsimp only
  rw [hq]
  dsimp only
  rw [if_neg (by simp [hn, hdue]), if_pos (by simp [hn]; omega)]

end shift

/-- Settles O39, timer by timer. -/
theorem timersOfThePlaneAct : Obligations.TimersOfThePlaneAct := by
  unfold Obligations.TimersOfThePlaneAct
  refine ⟨fun chip id s => ⟨fun t a => exec_ackTimer, fun t => exec_trackerIdleExpiry,
    fun x f => exec_retransmitTimeout_again, fun x f => exec_retransmitTimeout_last, fun f hf => ?_,
    fun f hf => ⟨exec_fetchRetryTimer_unknown hf, fun hr =>
      ⟨_, exec_fetchRetryTimer_other hf hr, fun g => not_mem_dropFetch⟩⟩⟩,
    fun s h q hs hq => ⟨fun hn hdue => ?_, fun hn hdue => ⟨exec_shiftRetryTimer_last hs hq hn hdue, fun htries => ?_⟩⟩⟩
  · change execFetchTimeout id s = _
    unfold execFetchTimeout
    rw [hf]
  · exact exec_shiftRetryTimer_again hs hq (by simpa [hn] using hdue) (.inl hn) (by simp [hn])
  · exact exec_shiftRetryTimer_again hs hq (by simpa [hn] using hdue) (.inr htries) (by simp [hn])

end Sys2Proof.Machine

/-! O33 and O34: what a slot carries. -/
namespace Sys2Proof.Machine

section departure

variable {p slot : Nat} {s : State} {q : Port} (hp : p ≤ 9) (hq : q = s.port p) (hst : q.st = 2) (htr : q.train = none)
  (hslot : slot < q.slots) (hcycle : (if s.time.valid then s.time.cycle else s.time.cyc % 1024) = slot * 1024 / max q.slots 1)
include hp hq hst htr hslot hcycle

theorem exec_slotDeparture_reserved {e : SlotEntry} (hv : s.time.valid) (he : s.egressEntry p s.time.tick slot = some e) :
    exec (.slotDeparture p slot) s = .next (s.reserved p slot e) := by
  subst hq
  change execSlotDeparture p slot s = _
  unfold execSlotDeparture
  rw [if_neg (not_gt_nine hp)]
  dsimp only
  rw [if_neg (by simp [hslot, State.slotCycle, hcycle, Port.departs]), htr]
  dsimp only
  rw [if_pos hv, he]

theorem exec_slotDeparture_unreserved (hnone : s.time.valid = false ∨ s.egressEntry p s.time.tick slot = none) :
    exec (.slotDeparture p slot) s = .next (s.unreserved p slot) := by
  have hentry : (if s.time.valid then s.egressEntry p s.time.tick slot else none) = none := by
    obtain h | h := hnone <;> simp [h]
  subst hq
  change execSlotDeparture p slot s = _
  unfold execSlotDeparture
  rw [if_neg (not_gt_nine hp)]
  dsimp only
  rw [if_neg (by simp [hslot, State.slotCycle, hcycle, Port.departs]), htr]
  dsimp only
  rw [hentry]
  dsimp only
  rw [if_neg (by simp [hst])]

end departure

section unreserved

variable {p slot : Nat} {s : State}

theorem State.takeCtl_some {c : CtlCell} (h : (s.port p).ctl.find? (fun c => decide (c.notBefore ≤ s.time.cyc)) = some c) :
    s.takeCtl p = (some (c.stamped s.time.cyc), s.onPort p (fun q => { q with ctl := q.ctl.erase c })) := by
  rw [State.takeCtl, h]

theorem State.takeCtl_none (h : ∀ c ∈ (s.port p).ctl, s.time.cyc < c.notBefore) : s.takeCtl p = (none, s) := by
  have hnone : (s.port p).ctl.find? (fun c => decide (c.notBefore ≤ s.time.cyc)) = none := by
    simpa [List.find?_eq_none] using h
  rw [State.takeCtl, hnone]

theorem State.unreserved_control {c : CtlCell}
    (h : (s.port p).ctl.find? (fun c => decide (c.notBefore ≤ s.time.cyc)) = some c) :
    s.unreserved p slot
      = (s.onPort p (fun q => { q with ctl := q.ctl.erase c })).passSlot p slot (some (c.stamped s.time.cyc)) := by
  rw [State.unreserved, State.takeCtl_some h]

theorem State.unreserved_packet {b : Nat × Packet} (h : ∀ c ∈ (s.port p).ctl, s.time.cyc < c.notBefore) (hon : s.planeOn)
    (hb : (s.port p).bg.find? (fun x => x.1 == slot) = some b) :
    s.unreserved p slot
      = (s.onPort p (fun q => { q with bg := q.bg.erase b })).passSlot p slot (some (b.2.departed s.time.cyc)) := by
  rw [State.unreserved, State.takeCtl_none h]
  dsimp only
  rw [if_pos hon, hb]

theorem State.unreserved_idle (h : ∀ c ∈ (s.port p).ctl, s.time.cyc < c.notBefore)
    (hb : s.planeOn = false ∨ ∀ b ∈ (s.port p).bg, b.1 ≠ slot) : s.unreserved p slot = s.passSlot p slot (some idleCell) := by
  have hnone : (if s.planeOn then (s.port p).bg.find? (fun x => x.1 == slot) else none) = none := by
    obtain hoff | hb := hb
    · rw [if_neg (by simp [hoff])]
    · rw [List.find?_eq_none.2 (fun b hmem => by simpa using hb b hmem), ite_self]
  rw [State.unreserved, State.takeCtl_none h]
  dsimp only
  rw [hnone]

end unreserved

/-- Settles O33. -/
theorem slotsCarryWhatIsDue : Obligations.SlotsCarryWhatIsDue := by
  unfold Obligations.SlotsCarryWhatIsDue
  rintro p slot s q hp rfl hst htr hslot hcycle
  refine ⟨fun e => exec_slotDeparture_reserved hp rfl hst htr hslot hcycle, fun hnone => ?_⟩
  rw [exec_slotDeparture_unreserved hp rfl hst htr hslot hcycle hnone]
  exact ⟨fun c hc => congrArg _ (State.unreserved_control hc), fun hctl =>
    ⟨fun b hon hb => congrArg _ (State.unreserved_packet hctl hon hb), fun hb => congrArg _ (State.unreserved_idle hctl hb)⟩⟩

section beacon

variable {s : State} {p slot : Nat}

/-- The ports and the digests of what they sent. -/
def State.sent (s : State) : List Port × List Nat := (s.ports, s.checks.map (·.digTx))

theorem State.onCheck_sent (s : State) (f : PortCheck → PortCheck) (hf : ∀ k, (f k).digTx = k.digTx) :
    (s.onCheck p f).sent = s.sent :=
  congrArg (s.ports, ·) (map_modifyAt s.checks p hf)

theorem State.sendGroups_sent (s : State) (g : Nat) : (s.sendGroups p g).sent = s.sent := by
  refine (State.onCheck_sent _ _ fun _ => by rfl).trans ?_
  refine foldl_frame (fun t lane => ?_) _ s
  exact State.onCheck_sent t _ fun _ => by rfl

theorem State.passSlot_sent (s : State) (cell : Option (List Byte)) : (s.passSlot p slot cell).sent = s.sent := by
  have hgroups (t : State) (ht : t.sent = s.sent) (d : Bool) (g : Nat) :
      (if d then t.sendGroups p g else t).sent = s.sent := by
    cases d with
    | false => exact ht
    | true => exact (State.sendGroups_sent t g).trans ht
  unfold State.passSlot
  dsimp only
  split
  · rfl
  · cases cell with
    | none => exact hgroups s rfl ((slot + 1) % max (12 * (s.port p).lanes) 1 == 0) _
    | some c =>
      refine hgroups _ ?_ ((slot + 1) % max (12 * (s.port p).lanes) 1 == 0) _
      exact State.onCheck_sent s _ fun _ => by rfl

theorem State.mem_passSlot {c : List Byte} (hst : (s.port p).st = 2) : .cell p slot c ∈ (s.passSlot p slot (some c)).out := by
  have hemit (t : State) : .cell p slot c ∈ (t.emit (.cell p slot c)).out := List.mem_append_right _ (List.mem_singleton_self _)
  unfold State.passSlot
  dsimp only
  rw [if_neg (by simp [hst])]
  split
  · exact (State.sendGroups_keeps _ p _ (Keeps.refl _)).out.subset (hemit _)
  · exact hemit _

/-- What an ACTIVE port has counted and sent once a beacon has left it (R37, R221). -/
theorem State.sendScheduled_beacon {q : Port} {phase tag : Nat} {payload : List Byte} (hp : p < s.ports.length)
    (hc : p < s.checks.length) (hq : q = s.port p) (hst : q.st = 2) : ∀ t, t = s.sendScheduled p slot 0 phase tag 0 payload true →
    t.port p = { q with seqTx := q.seqTx + 1 } ∧ (t.check p).digTx = 0 ∧
      .cell p slot (schedCell 0 phase tag 0 s.place.epoch s.time.tick payload (q.seqTx + 1)) ∈ t.out := by
  rintro t rfl
  subst hq
  generalize hu : (s.onPort p (fun q => { q with seqTx := (s.port p).seqTx + 1 })).onCheck p (fun k => { k with digTx := 0 }) = u
  have hport : u.port p = { s.port p with seqTx := (s.port p).seqTx + 1 } := by
    rw [← hu]
    exact nth_modifyAt_same _ hp
  have hsend : s.sendScheduled p slot 0 phase tag 0 payload true
      = u.passSlot p slot (some (schedCell 0 phase tag 0 s.place.epoch s.time.tick payload ((s.port p).seqTx + 1))) := by
    rw [← hu]
    rfl
  have hsent := State.passSlot_sent (p := p) (slot := slot) u
    (some (schedCell 0 phase tag 0 s.place.epoch s.time.tick payload ((s.port p).seqTx + 1)))
  rw [hsend]
  refine ⟨?_, ?_, State.mem_passSlot (by rw [hport, hst])⟩
  · exact (congrArg (nth · p Port.reset) (congrArg Prod.fst hsent)).trans hport
  · refine (nth_map _ _ _ _).trans ((congrArg (nth · p 0) (congrArg Prod.snd hsent)).trans ?_)
    rw [← hu]
    exact (nth_map _ _ _ PortCheck.reset).symm.trans (congrArg PortCheck.digTx (nth_modifyAt_same _ hc))

theorem State.reserved_beacon {k : Nat} {e : SlotEntry} {ph : PhaseEntry} (hph : s.phaseAt s.time.tick = some (k, ph))
    (hkind : e.kind = 3) (htick : e.tick = 0) (hslot : e.slot = ph.beacon) :
    s.reserved p slot e = (s.onPort p (fun q => { q with beaconDue := false })).sendScheduled p slot 0 e.phase e.tag 0
      (s.beaconPayload p e.phase) true := by
  unfold State.reserved
  rw [hkind, hph]
  exact if_pos (by simp [SlotEntry.isBeacon, hkind, htick, hslot])

end beacon

/-- Settles O34. -/
theorem beaconsLeaveInTheirSlot : Obligations.BeaconsLeaveInTheirSlot := by
  unfold Obligations.BeaconsLeaveInTheirSlot
  rintro p slot k s q e ph hp hports hchecks rfl hst htr hslot hv hcycle he hph hkind htick hbeacon
  refine ⟨_, exec_slotDeparture_reserved hp rfl hst htr hslot ((if_pos hv).trans hcycle) hv he, ?_⟩
  have hport : (s.onPort p fun q => { q with beaconDue := false }).port p = { s.port p with beaconDue := false } :=
    nth_modifyAt_same _ hports
  obtain ⟨hsent, hdigest, hout⟩ := State.sendScheduled_beacon (s := s.onPort p fun q => { q with beaconDue := false })
    (by simpa [modifyAt] using hports) hchecks hport.symm hst _ (State.reserved_beacon hph hkind htick hbeacon)
  exact ⟨congrArg Port.seqTx hsent, congrArg Port.beaconDue hsent, hdigest, hout⟩

end Sys2Proof.Machine

/-! O31 and O32: the lanes of a link and its control cells. -/
namespace Sys2Proof.Machine

section lanes

variable {p : Nat} {s : State} {q : Port} (hp : p ≤ 9) (hq : q = s.port p)
include hp hq

theorem exec_pmdTrainingEnd {x : Training} (ok : Bool) (hx : q.train = some x) (hstage : x.stage = 1) :
    exec (.pmdTrainingEnd p ok) s
      = .next (if ok then s.onTraining p (fun t => { t with stage := 2 }) else s.trainFail p 0x02) := by
  subst hq
  change execPmdTrainingEnd p ok s = _
  unfold execPmdTrainingEnd
  rw [if_neg (not_gt_nine hp), hx]
  dsimp only
  rw [if_neg (by simp [hstage])]
  cases ok <;> rfl

theorem exec_linkTrainPortActive {x : Training} (hx : q.train = some x) (hstage : x.stage = 5) :
    exec (.linkTrainPortActive p) s = .next ((s.onPort p (fun q => { q with st := 2, train := none })).linkTrainEnd) := by
  subst hq
  refine (if_neg (not_gt_nine hp)).trans ?_
  rw [hx]
  exact if_pos (beq_iff_eq.2 hstage)

theorem exec_laneSignalLoss {lane : Nat} (hlane : lane < q.lanes) : exec (.laneSignalLoss p lane) s
    = .next (if q.st = 2 then s.linkFault p 0x01 else if q.st = 1 then s.trainFail p 0x01 else s) := by
  subst hq
  refine (if_neg (not_gt_nine hp)).trans ((if_neg (Nat.not_le.2 hlane)).trans ?_)
  simp only [beq_iff_eq]
  split_ifs <;> rfl

end lanes

/-! ### A lane's group -/

theorem State.port_onPort_field {β : Type} {g : Port → β} (s : State) (p k : Nat) {f : Port → Port}
    (hf : ∀ q, g (f q) = g q) : g ((s.onPort p f).port k) = g (s.port k) := by
  rw [State.port, nth_map g, State.onPort_ports, map_modifyAt _ _ hf, ← nth_map]
  rfl

/-- What a lane's group leaves in the counts of its port and in the checks of its lanes. -/
def State.groupTaken (s : State) (g : GroupRx) (r : LaneRx) (w : List Nat) : State :=
  (s.onPort g.port (fun q => { q with
    fecCorr := sat32 (q.fecCorr + g.corrected)
    fecUncorr := sat32 (q.fecUncorr + g.uncorrectable) })).onCheck g.port
      (fun k => { k with lanes := k.lanes.set g.lane r, uncorr := w })

theorem State.groupTaken_st (s : State) (g : GroupRx) (r : LaneRx) (w : List Nat) :
    ((s.groupTaken g r w).port g.port).st = (s.port g.port).st :=
  State.port_onPort_field (g := Port.st) s g.port g.port fun _ => by rfl

/-- A group of an ACTIVE port, which does not train: a lost lock, or too many uncorrectable codewords, is a link fault. -/
theorem exec_linbyGroupReceive {g : GroupRx} {s : State} {q : Port} {r : Bool × LaneRx} {w : List Nat} (hp : g.port ≤ 9)
    (hq : q = s.port g.port) (hst : q.st = 2) (htr : q.train = none) (hlane : g.lane < q.lanes)
    (hr : r = groupCheck g.port g.lane (nth (s.check g.port).lanes g.lane LaneRx.reset) g.group)
    (hw : w = uncorrWindow (s.check g.port).uncorr s.ownTick g.uncorrectable) (lost : Bool)
    (hlost : lost = ((r.2.locked && decide (3 ≤ r.2.bad)) || !g.skewOk)) : exec (.linbyGroupReceive g) s
      = .next (if 8 < w.length then (if lost then (s.groupTaken g r.2 w).linkFault g.port 0x03
          else s.groupTaken g r.2 w).linkFault g.port 0x0A
        else if lost then (s.groupTaken g r.2 w).linkFault g.port 0x03 else s.groupTaken g r.2 w) := by
  subst hq
  change execLinbyGroupReceive g s = _
  unfold execLinbyGroupReceive
  rw [if_neg (not_gt_nine hp)]
  dsimp only
  rw [if_neg (by simp [hst, hlane]), htr, ← hr, ← hw]
  have htaken : (s.groupTaken g r.2 w).lockLost g.port = (s.groupTaken g r.2 w).linkFault g.port 0x03 := by
    rw [State.lockLost, State.groupTaken_st, hst]
    rfl
  refine (if_neg (by simp)).trans (congrArg _ ?_)
  change (if ((s.port g.port).st == 2 && decide (8 < w.length)) = true
    then (if _ then (s.groupTaken g r.2 w).lockLost g.port else s.groupTaken g r.2 w).linkFault g.port 0x0A
    else if _ then (s.groupTaken g r.2 w).lockLost g.port else s.groupTaken g r.2 w) = _
  rw [htaken, ← hlost, hst]
  simp only [beq_self_eq_true, Bool.true_and, decide_eq_true_eq]

/-- Settles O31. -/
theorem linksFollowTheirLanes : Obligations.LinksFollowTheirLanes := by
  unfold Obligations.LinksFollowTheirLanes
  refine ⟨fun p s q hp hq => ⟨fun t hx hstage => ⟨exec_pmdTrainingEnd hp hq true hx hstage,
    exec_pmdTrainingEnd hp hq false hx hstage⟩, fun t => exec_linkTrainPortActive hp hq, fun lane hlane => ?_,
    fun b => if_neg (not_gt_nine hp)⟩, ?_⟩
  · rw [exec_laneSignalLoss hp hq hlane]
    exact ⟨fun h2 => congrArg _ (if_pos h2), fun h1 => by rw [h1]; rfl, fun h1 h2 => by rw [if_neg h2, if_neg h1]⟩
  · rintro g s u q r w hp hq hst htr hlane hr hw rfl
    have hexec := fun lost => exec_linbyGroupReceive hp hq hst htr hlane hr hw lost
    have hkeep (hkept : r.2.locked = false ∨ r.2.bad < 3) (hskew : g.skewOk) :
        false = ((r.2.locked && decide (3 ≤ r.2.bad)) || !g.skewOk) := by
      obtain h | h := hkept
      · simp [h, hskew]
      · simp [h, hskew]
    refine ⟨fun hkept hskew hlen => ?_, fun hkept hskew hlen => ?_, fun hlost hlen => ?_⟩
    · rw [hexec false (hkeep hkept hskew), if_neg (Nat.not_lt.2 hlen)]
      rfl
    · rw [hexec false (hkeep hkept hskew), if_pos hlen]
      rfl
    · rw [hexec true (by simpa using hlost), if_neg (Nat.not_lt.2 hlen)]
      rfl

/-! ### Link-control cells -/

section control

variable {p tick sub : Nat} {slot : ControlAt} {b : List Byte} {s : State} {q : Port} (hp : p ≤ 9) (hq : q = s.port p)
  (htick : tick = (s.fabricCycle - q.pinned) / 1024)
include hp hq htick

/-- A link-control cell in a slot of the run that is reserved for ingress fails that slot's cell. -/
theorem exec_linkControlCellReceive_reserved {e : SlotEntry} {k : Nat} {ph : PhaseEntry} {x : PastRun} (hst : q.st = 2)
    (hv : s.time.valid) (he : s.ingressEntry p tick slot.slot = some e) (hph : s.phaseAt tick = some (k, ph))
    (hx : s.runAt tick = some x) : exec (.linkControlCellReceive p b slot) s
      = .next ((s.missed p slot.slot k ph x.run e slot.voteDue).onPort p (fun q => { q with seqRx := q.seqRx + 1 })) := by
  subst hq
  refine (if_neg (not_gt_nine hp)).trans ?_
  rw [if_pos (by simp [hst, hv]), ← htick, he, hph, hx]
  rfl

/-- What a link-control cell of subtype `sub` does. -/
def State.takeControl (s : State) (p sub : Nat) (body : List Byte) : State :=
  match sub with
  | 1 => if (s.port p).st == 1 then s.takeIdentity p body else s
  | 2 => if (s.port p).st == 1 then s.takeCalReq p body else s
  | 3 => if (s.port p).st == 1 then s.takeCalResp p body else s
  | _ => s.takeEpochCheck p body

/-- In any other slot it is taken by its subtype, once it passes its checks. -/
theorem exec_linkControlCellReceive_free (hsub : sub = fieldAt b 1 1)
    (hfree : q.st = 1 ∨ q.st = 2 ∧ (s.time.valid = false ∨ s.ingressEntry p tick slot.slot = none)) (bad : Bool)
    (hbad : bad = (!cellCheckOk b || cellKind b != 3 || sub == 0 || decide (4 < sub))) :
    exec (.linkControlCellReceive p b slot) s
      = .next (if bad then s.onPort p (fun q => { q with cellErr := sat32 (q.cellErr + 1) })
        else s.takeControl p sub (slice b 8 240)) := by
  subst hq
  have hentry : (if (s.port p).st == 2 && s.time.valid then s.ingressEntry p tick slot.slot else none) = none := by
    obtain hst | ⟨-, hv | he⟩ := hfree
    · simp [hst]
    · simp [hv]
    · simp [he]
  have hst : (s.port p).st = 1 ∨ (s.port p).st = 2 := hfree.imp_right And.left
  refine (if_neg (not_gt_nine hp)).trans ?_
  rw [← htick, hentry, ← hsub]
  dsimp only
  rw [if_neg (by simp; tauto), ← hbad]
  cases bad with
  | true => rfl
  | false =>
    refine (if_neg Bool.false_ne_true).trans ?_
    rw [if_neg Bool.false_ne_true]
    have hsubs : sub = 1 ∨ sub = 2 ∨ sub = 3 ∨ sub = 4 := by
      simp only [Bool.false_eq, Bool.or_eq_false_iff, beq_eq_false_iff_ne, decide_eq_false_iff_not] at hbad
      omega
    clear hsub hbad
    obtain rfl | rfl | rfl | rfl := hsubs
    · rfl
    · rfl
    · rfl
    · rfl

end control

/-- Settles O32. -/
theorem linkControlCellsAreTakenBySubtype : Obligations.LinkControlCellsAreTakenBySubtype := by
  unfold Obligations.LinkControlCellsAreTakenBySubtype
  rintro p tick sub slot b body s q hp hq rfl hsub htick
  refine ⟨fun e k ph x => exec_linkControlCellReceive_reserved hp hq htick, fun hfree => ?_⟩
  have hexec := exec_linkControlCellReceive_free hp hq htick hsub hfree
  refine ⟨fun hbad => ?_, fun hcheck hkind => ?_⟩
  · rw [hexec true (by simpa [or_assoc] using hbad)]
    rfl
  · have htake (hlow : sub ≠ 0) (hhigh : sub ≤ 4) := hexec false (by simp [hcheck, hkind, hlow, hhigh])
    refine ⟨fun h1 hst => ?_, fun h2 hst => ?_, fun h3 hst => ?_, fun h4 => ?_⟩
    · rw [htake (by omega) (by omega), h1, State.takeControl, ← hq, hst]
      rfl
    · rw [htake (by omega) (by omega), h2, State.takeControl, ← hq, hst]
      rfl
    · rw [htake (by omega) (by omega), h3, State.takeControl, ← hq, hst]
      rfl
    · rw [htake (by omega) (by omega), h4]
      rfl

end Sys2Proof.Machine

/-! O35: the cell of a slot at its release cycle. -/
namespace Sys2Proof.Machine

section release

variable {p slot tick : Nat} {a : Arrival} {s : State} {q : Port}

theorem exec_scheduledCellReceive (hp : p ≤ 9) (hq : q = s.port p) (hv : s.time.valid) (hslot : slot < q.slots)
    (hpin : q.pinned ≤ s.fabricCycle) (htick : tick = (s.fabricCycle - q.pinned) / 1024)
    (hcycle : (s.fabricCycle - q.pinned) % 1024 = slot * 1024 / max q.slots 1) :
    exec (.scheduledCellReceive p slot a) s = .next (s.arrive p tick slot a) := by
  subst hq htick
  refine (if_neg (not_gt_nine hp)).trans ((if_neg (Nat.not_le.2 hslot)).trans ((if_neg (by simp [hv])).trans ?_))
  exact if_neg (by simp [hpin, hcycle, Port.departs])

/-- A cell that came in time gives its port its margin. -/
theorem State.elastic_inTime {s : State} (hlate : isLate a = false) :
    s.elastic p a = s.onPort p (fun q => { q with minMargin := min q.minMargin a.margin.toNat }) := by
  rw [State.elastic, hlate]
  rfl

theorem State.cellOk_onPort {s : State} {k : Nat} {e : SlotEntry} {c : List Byte} {f : Port → Port}
    (hf : ∀ q, (f q).seqRx = q.seqRx) : (s.onPort p f).cellOk p k tick e c = s.cellOk p k tick e c := by
  rw [State.cellOk, State.cellOk, State.port_onPort_field s p p hf]
  rfl

/-- A beacon that passes the checks of R219 is compared with what its phase, its epoch and the digest say (R37, R38). -/
theorem State.arrive_beacon {e : SlotEntry} {k : Nat} {ph : PhaseEntry} {x : PastRun} {c : List Byte}
    (hst : (s.port p).st = 2) (he : s.ingressEntry p tick slot = some e) (hph : s.phaseAt tick = some (k, ph))
    (hx : s.runAt tick = some x) (hbeacon : e.isBeacon ph) (hc : a.cell = some c) (hlate : isLate a = false)
    (hok : s.cellOk p k tick e c) : s.arrive p tick slot a
      = (((s.onPort p (fun q => { q with minMargin := min q.minMargin a.margin.toNat })).onCheck p
          (fun d => d.beaconCame x.run.base k (s.beaconMatches p x.run.step k tick (slice c 8 240)))).onPort p
            (fun q => { q with seqRx := q.seqRx + 1 })) := by
  have hkind : (e.kind == 4) = false := by
    simp only [SlotEntry.isBeacon, Bool.and_eq_true, beq_iff_eq] at hbeacon
    simp [hbeacon.1.1]
  unfold State.arrive
  rw [if_pos (by simp [hst]), he, hph, hx]
  dsimp only
  unfold State.arriveReserved
  rw [if_neg (by simp [hkind]), hc]
  dsimp only
  rw [State.elastic_inTime hlate, State.cellOk_onPort fun _ => by rfl, if_pos (by simp [hlate, hok]),
    State.handOn, if_pos hbeacon]
  rfl

end release

/-- Settles O35. -/
theorem cellsAreReleasedAfterThePinnedLatency : Obligations.CellsAreReleasedAfterThePinnedLatency := by
  unfold Obligations.CellsAreReleasedAfterThePinnedLatency
  rintro p slot tick a s q hp rfl hv hslot hpin htick hcycle
  refine ⟨exec_scheduledCellReceive hp rfl hv hslot hpin htick hcycle, ?_⟩
  rintro e k ph x c hst hports hchecks he hph hx hbeacon hc hmargin hdrift hok t rfl
  have hlate : isLate a = false := by simp [isLate, hdrift, hmargin]
  rw [State.arrive_beacon hst he hph hx hbeacon hc hlate hok]
  generalize hm : s.beaconMatches p x.run.step k tick (slice c 8 240) = ok
  have hcheck : (s.onPort p fun q => { q with minMargin := min q.minMargin a.margin.toNat }).check p = s.check p := rfl
  refine ⟨?_, ?_, ?_⟩
  · refine (congrArg PortCheck.beacons (nth_modifyAt_same _ hchecks)).trans ?_
    simp only [PortCheck.beaconCame, Bool.and_eq_true, beq_iff_eq]
    rfl
  · exact congrArg PortCheck.digRx (nth_modifyAt_same _ hchecks)
  · exact (nth_modifyAt_same _ (by simpa [modifyAt] using hports)).trans
      (congrArg (fun q : Port => { q with seqRx := q.seqRx + 1 }) (nth_modifyAt_same _ hports))

end Sys2Proof.Machine

/-! O38: the ejection unit. -/
namespace Sys2Proof.Machine

section duplicate

variable {h : PktHead} {payload : List Byte} {x : Ejection} {t : Track}

/-- A packet of a stream whose entry is not OPEN is acknowledged once more (R254). -/
theorem trackPacket_duplicate (hst : t.st ≠ 1) : trackPacket h t payload x = { x with
    st := ((x.st.onTrack h.src h.stream (fun t => { t with
      last := x.st.ownTick
      ackFrom := some (t.ackFrom.getD x.st.ownTick) })).countBgp 7).sendAck h.src h.stream } := by
  unfold trackPacket
  exact if_pos (by simpa using hst)

theorem toTracker_of_track (ht : x.st.track? h.src h.stream = some t) :
    toTracker h payload x = trackPacket h t payload x := by
  rw [toTracker, ht]

/-- The classes whose packets always pass the tracker. -/
theorem takePacket_of_cls {b : List Byte} (hb : (headOf b).cls = 1 ∨ (headOf b).cls = 3) :
    takePacket b x = toTracker (headOf b) (payloadOf b) x := by
  unfold takePacket
  dsimp only
  obtain hb | hb := hb
  · rw [hb]; rfl
  · rw [hb]; rfl

end duplicate

/-- Settles O38. -/
theorem ejectionFinishesTheOldestPackets : Obligations.EjectionFinishesTheOldestPackets := by
  unfold Obligations.EjectionFinishesTheOldestPackets
  refine fun n s => ⟨rfl, ?_⟩
  rintro x rest h t hbuf rfl hcls ht hst
  have hone : min 1 s.bgp.eject.length = 1 := by simp [hbuf]
  have hpop : ejectPackets 1 ⟨s, [], []⟩ = takePacket x.bytes ⟨s.onBgp (fun b => { b with eject := rest }), [], []⟩ := by
    rw [ejectPackets, hbuf]
    rfl
  change execEjectionWrite 1 s = _
  rw [execEjectionWrite, hone, hpop, takePacket_of_cls hcls, toTracker_of_track (by exact ht), trackPacket_duplicate hst]
  rfl

end Sys2Proof.Machine

/-! Reads and writes of HBM that no descriptor makes change HBM, the counts of its stacks, and what a failed check changes. -/
namespace Sys2Proof.Machine

/-- What does not look at what is sent out, at the host's side, or at what events and failed checks change. -/
structure Quiet {β : Type} (P : State → β) : Prop where
  emit : ∀ (s : State) o, P (s.emit o) = P s
  onHost : ∀ (s : State) f, P (s.onHost f) = P s
  event : ∀ (s : State) code kind idx params, P (s.event code kind idx params) = P s
  notice : ∀ (s : State) kind w outcome plot, P (s.notice kind w outcome plot) = P s
  check : ∀ (s : State) phase kind w paired, P (s.failCheckIn phase kind w paired) = P s

/-- What ignores what a failed check changes is the same where that alone differs. -/
theorem frame_of_offChecks {β : Type} {P : State → β} (hP : ∀ x : State, P x.offChecks = P x) {s t : State}
    (h : t.offChecks = s.offChecks) : P t = P s := by
  rw [← hP t, h, hP]

theorem Quiet.of_offChecks {β : Type} {P : State → β} (hP : ∀ x : State, P x.offChecks = P x) : Quiet P where
  emit _ _ := frame_of_offChecks hP rfl
  onHost _ _ := frame_of_offChecks hP rfl
  event _ _ _ _ _ := frame_of_offChecks hP (State.event_offChecks ..)
  notice _ _ _ _ _ := frame_of_offChecks hP (State.notice_offChecks ..)
  check _ _ _ _ _ := frame_of_offChecks hP (State.failCheckIn_offChecks ..)

section access

variable {β : Type} {P : State → β} (hP : Quiet P)

variable (hstack : ∀ (x : State) k (f : Stack → Stack), (∀ y, (f y).refresh = y.refresh) → P (x.onStack k f) = P x)
include hP hstack

theorem State.countStack_frame (s : State) (k n : Nat) : P (s.countStack k n) = P s := by
  unfold State.countStack
  dsimp only
  split
  · rfl
  · split
    · exact (hP.notice ..).trans (hstack s k _ fun _ => by rfl)
    · exact hstack s k _ fun _ => by rfl

/-- What a read met is counted for its stacks and judged as failed checks. -/
theorem State.seenHost_frame (s : State) (ks : List Nat) (x : Seen) : P (s.seenHost ks x) = P s := by
  have hcounts : P ((List.range 8).foldl (fun s k =>
      (s.countStack k (x.corrected.filter (fun cw => stackOfCw cw == k)).length).onStack k
        (fun y => { y with uncorrectable := sat32 (y.uncorrectable
        + (x.uncorrectable.filter (fun cw => stackOfCw cw == k)).length) })) s) = P s := by
    refine foldl_frame (fun s k => ?_) _ s
    exact (hstack _ k _ fun _ => by rfl).trans (State.countStack_frame hP hstack ..)
  have hchecks (kind : Nat) (l : List Nat) (s : State) :
      P (l.foldl (fun s cw => s.failCheck kind (siteHbm ks cw 0xFFFFFFFF) true) s) = P s :=
    foldl_frame (fun _ _ => hP.check ..) l s
  unfold State.seenHost
  dsimp only
  split
  · exact (hchecks ..).trans ((hchecks ..).trans hcounts)
  · refine (foldl_frame (fun s cw => ?_) _ _).trans hcounts
    exact hP.notice ..

variable (hhbm : ∀ (x : State) (b : Mem), P (x.onMem fun m => { m with hbm := b }) = P x)
include hhbm

theorem State.hbmWrite_frame (s : State) (plot a : Nat) (bs : List TByte) : P (s.hbmWrite plot a bs) = P s := by
  unfold State.hbmWrite
  exact (State.seenHost_frame hP hstack ..).trans (hhbm ..)

theorem State.drainRead_frame (s : State) (page : Nat) : P (s.drainRead page).2.2.2 = P s := by
  unfold State.drainRead
  exact (State.seenHost_frame hP hstack ..).trans (hhbm ..)

theorem State.copyRead_frame (s : State) (plot a n : Nat) : P (s.copyRead plot a n).2 = P s := by
  unfold State.copyRead
  exact (State.seenHost_frame hP hstack ..).trans (hhbm ..)

theorem State.hostRead_frame (s : State) (plot a n : Nat) : P (s.hostRead plot a n).2.2 = P s := by
  unfold State.hostRead
  exact (State.seenHost_frame hP hstack ..).trans (hhbm ..)

/-- A read over BAR2 answered: what it sent out is not looked at. -/
theorem State.bar2Answer_frame (s : State) (plot fn off a n : Nat) : P (s.bar2Answer plot fn off a n) = P s := by
  unfold State.bar2Answer
  exact (hP.emit ..).trans (State.hostRead_frame hP hstack hhbm ..)

/-- The held reads answered, or still held. -/
theorem State.releaseReads_frame (s : State) : P s.releaseReads = P s := by
  unfold State.releaseReads
  refine (foldl_frame (fun s r => ?_) _ _).trans (hP.onHost s _)
  dsimp only
  split
  · exact hP.onHost ..
  · exact State.bar2Answer_frame hP hstack hhbm ..

end access

/-! O40: a page of a draining hamper. -/

section drain

variable {s : State}

/-- Writing a slot of the ring leaves the hamper in hand as it is. -/
theorem State.slotWrite_hamper (ns j off : Nat) (data : List Byte) (use page : Nat) :
    (s.slotWrite ns j off data use page).snap.hamper = s.snap.hamper := by
  unfold State.slotWrite
  split <;> rfl

/-- The state once a page has been read and written to the destinations of the hamper. -/
def State.pageDrained (s : State) (page k : Nat) (h : Hamper) : State :=
  let r := s.drainRead page
  let e := dirEntryBytes page (nth h.pages k (0, 0)).2 r.2.1 (payloadDigest r.1) r.2.2.1
  let off := h.layout.pages + k * Config.pageBytes
  let s := r.2.2.2.onHamper (fun h => { h with dir := h.dir ++ [(page, e)], poison := h.poison || r.2.1 != 0 })
  let s := match h.staging with
    | some a => s.hbmWrite 0 (a + off) (clean r.1)
    | none => s
  match h.flashSlot with
  | some j => s.slotWrite h.ns j off r.1 0 page
  | none => s

variable {page k : Nat} {h : Hamper} (hh : s.snap.hamper = some h)
include hh

theorem exec_hamperDrain (hdrain : h.draining) (hk : h.pages.findIdx? (fun p => p.1 == page) = some k)
    (hnew : ∀ e ∈ h.dir, e.1 ≠ page) (hstage : h.flashSlot = none ∨ h.stage = 2) :
    exec (.hamperDrain page) s = .next ((s.pageDrained page k h).stageFront.flashNext.settlePages.hamperEnd) := by
  change execHamperDrain page s = _
  unfold execHamperDrain
  rw [hh]
  dsimp only
  rw [hk]
  dsimp only
  rw [if_neg]
  · unfold State.pageDrained
    rfl
  · simp only [hdrain, Bool.not_true, Bool.false_or, Bool.or_eq_true, List.any_eq_true, beq_iff_eq, Bool.and_eq_true,
      bne_iff_ne, not_or, not_exists, not_and]
    obtain hnone | hstage := hstage
    · exact ⟨hnew, by simp [hnone]⟩
    · exact ⟨hnew, fun _ => not_not.2 hstage⟩

/-- The page, once read, is in the directory. -/
theorem State.pageDrained_hamper {g : Nat} {r : List Byte × Nat × Bool × State} (hg : h.pages[k]? = some (page, g))
    (hr : r = s.drainRead page) : (s.pageDrained page k h).snap.hamper = some { h with
      dir := h.dir ++ [(page, dirEntryBytes page g r.2.1 (payloadDigest r.1) r.2.2.1)]
      poison := h.poison || r.2.1 != 0 } := by
  have hread : r.2.2.2.snap.hamper = some h := by
    rw [hr, ← hh]
    exact State.drainRead_frame (P := fun x : State => x.snap.hamper) (.of_offChecks fun _ => rfl)
      (fun _ _ _ _ => rfl) (fun _ _ => rfl) s page
  unfold State.pageDrained
  rw [← hr, nth_of_getElem? hg]
  extract_lets q e off u v
  have hu : u.snap.hamper = some { h with dir := h.dir ++ [(page, e)], poison := h.poison || r.2.1 != 0 } :=
    congrArg (Option.map _) hread
  have hv : v.snap.hamper = u.snap.hamper := by
    unfold v
    split
    · exact State.hbmWrite_frame (P := fun x : State => x.snap.hamper) (.of_offChecks fun _ => rfl)
        (fun _ _ _ _ => rfl) (fun _ _ => rfl) u ..
    · rfl
  clear_value v u
  rw [← hu, ← hv]
  split
  · exact State.slotWrite_hamper ..
  · rfl

end drain

/-- Settles O40. -/
theorem drainedPagesEnterTheDirectory : Obligations.DrainedPagesEnterTheDirectory := by
  unfold Obligations.DrainedPagesEnterTheDirectory
  rintro page k g h s e r hh hdrain hk hg hnew hstage hr rfl
  exact ⟨_, exec_hamperDrain hh hdrain hk hnew hstage, State.pageDrained_hamper hh hg hr⟩

end Sys2Proof.Machine

/-! O41: the passes of a serving plot. -/
namespace Sys2Proof.Machine

section posts

variable {s : State} {fn k : Nat} {p : Plot}

/-- A plot after a post of `count` passes (R403). -/
def Plot.posted (count : Nat) (p : Plot) : Plot :=
  if p.st == .running && decide (p.pending + count ≤ 65535) then
    { p with pending := p.pending + count, posts := p.posts ++ List.replicate count (p.time / 1024) }
  else { p with refused := true }

theorem exec_hstPassPost (hfn : 1 ≤ fn) (hfn4 : fn ≤ 4) {count : Nat} (hcount : count < 65536) (hspace : s.spaceOf fn = some k)
    (hp : s.plots[k]? = some p) :
    exec (.hstPassPost fn count) s = .next ({ s with plots := s.plots.set k (p.posted count) } : State) := by
  have hfn0 : (fn == 0) = false := by simp; omega
  have hplots : modifyAt s.plots k (Plot.posted count) = s.plots.set k (p.posted count) := modifyAt_of_getElem? _ hp
  refine (if_neg (by omega)).trans ?_
  rw [Nat.mod_eq_of_lt hcount, State.passPost, State.plotOfFn, hfn0, if_neg (by decide), hspace, ← hplots]
  rfl

end posts

section passStart

variable {s : State} {k : Nat} {p : Plot}

/-- The draw counts and claims of a tile started over for a pass. -/
def Tile.passFresh (t : Tile) : Tile := { t with w := 0, draws := [], abandoned := false, groups := [], claims := [] }

theorem State.refreshBy_frame {β : Type} {P : State → β} (hP : ∀ x k f, P (State.onStack x k f) = P x) (s : State)
    (ks : List Nat) (r : RefreshBy) : P (s.refreshBy ks r) = P s :=
  foldl_frame (fun _ _ => hP _ _ _) ks s

theorem State.refreshBy_tile (s : State) (ks : List Nat) (r : RefreshBy) (i : Nat) : (s.refreshBy ks r).tile i = s.tile i :=
  State.refreshBy_frame (P := fun x : State => x.tile i) (fun _ _ _ => by rfl) s ks r

theorem State.tile_onTile_same {s : State} {i : Nat} (h : i < s.mem.tiles.length) (f : Tile → Tile) :
    (s.onTile i f).tile i = f (s.tile i) := nth_modifyAt_same f h

theorem State.tile_onTile_ne {s : State} {i j : Nat} (h : i ≠ j) (f : Tile → Tile) : (s.onTile j f).tile i = s.tile i :=
  nth_modifyAt_ne f h

/-- Tiles changed one after the other by a function that changes nothing the second time. -/
theorem State.tile_foldl_onTile {f : Tile → Tile} (hf : ∀ t, f (f t) = f t) {i : Nat} (l : List Nat) : ∀ s : State,
    i < s.mem.tiles.length → (l.foldl (fun s t => s.onTile t f) s).tile i = if i ∈ l then f (s.tile i) else s.tile i := by
  induction l with
  | nil => exact fun s _ => rfl
  | cons j l ih =>
    intro s hi
    rw [List.foldl_cons, ih _ (by simpa [modifyAt] using hi)]
    by_cases hij : i = j
    · subst hij
      simp [State.tile_onTile_same hi, hf]
    · simp [State.tile_onTile_ne hij, hij]

theorem exec_passStart (hp : s.plots[k]? = some p) (hprof : s.chip.profile ≠ 0) (hdue : p.passDue) :
    exec (.passStart k) s = .next ((p.physTiles.foldl (fun s t => s.onTile t Tile.passFresh) (s.onPlot k (fun p => { p with
      pass := some ⟨s.time.cyc, false, false, []⟩, pending := p.pending - 1, posts := p.posts.tail
      records := p.records.map ScaleRec.fresh }))).refreshBy p.hstacks .image) := by
  change execPassStart k s = _
  unfold execPassStart
  rw [State.plot?, hp]
  exact if_neg (by simp [hprof, hdue])

theorem passDue_of {t : Nat} {rest : List Nat} (hst : p.st = .running ∨ p.st = .draining) (hpass : p.pass = none)
    (htime : p.time % 1024 = 0) (hposts : p.posts = t :: rest) (hwait : t + 2 ≤ p.time / 1024) : p.passDue := by
  simp [Plot.passDue, hst, hpass, htime, hposts, hwait]

end passStart

section passEnd

variable {s : State} {k : Nat} {p : Plot} {x : Pass}

theorem exec_passEnd (hp : s.plots[k]? = some p) (hx : p.pass = some x) (hdue : x.began + p.period * 1024 ≤ s.time.cyc) :
    exec (.passEnd k) s
      = .next (((((s.closePass k).onPlot k (Plot.passOver x)).rest p.hstacks).signal p.fn 3).stopIfDone k) := by
  change execPassEnd k s = _
  unfold execPassEnd
  rw [State.plot?, hp]
  dsimp only
  rw [hx]
  exact if_neg (Nat.not_lt.2 hdue)

theorem State.rest_frame {β : Type} {P : State → β} (hP : ∀ x k f, P (State.onStack x k f) = P x) (s : State) (ks : List Nat) :
    P (s.rest ks) = P s := by
  unfold State.rest
  split
  · rfl
  · exact State.refreshBy_frame hP ..

/-- A pass closed: the records of its faults are written, and the pass has none any more. -/
theorem State.closePass_plots (hp : s.plots[k]? = some p) (hx : p.pass = some x) : (s.closePass k).plots
    = s.plots.set k { p with pass := some { x with faults := [] } } := by
  have hrecords : (x.faults.foldl (fun s f => s.writeRecord f 6) s).plots = s.plots :=
    foldl_frame (P := State.plots) (fun _ _ => by rfl) _ s
  rw [State.closePass, State.plot?, hp, Option.bind_some, hx]
  dsimp only
  rw [State.onPlot_plots, hrecords, modifyAt_of_getElem? _ hp, hx]
  rfl

theorem State.closePass_host (s : State) (k : Nat) : (s.closePass k).host = s.host := by
  unfold State.closePass
  split
  · exact foldl_frame (P := State.host) (f := fun s f => s.writeRecord f 6) (fun _ _ => by rfl) _ s
  · rfl

end passEnd

/-- Settles O41: the post, the start and the end of a pass each change one plot. -/
theorem postsLeadToPasses : Obligations.PostsLeadToPasses := by
  unfold Obligations.PostsLeadToPasses
  refine ⟨fun k s p hp => ⟨?_, ?_⟩, ?_⟩
  · rintro hprof hst hpass htime ⟨t, rest, hposts, hwait⟩
    refine ⟨_, exec_passStart hp hprof (passDue_of hst hpass htime hposts hwait), ?_, fun i hi hlen => ?_⟩
    · rw [State.refreshBy_frame (P := State.plots) (fun _ _ _ => by rfl),
        foldl_frame (P := State.plots) (f := fun s t => s.onTile t Tile.passFresh) (fun _ _ => by rfl), State.onPlot_plots,
        modifyAt_of_getElem? _ hp, List.getElem?_set_self (List.getElem?_eq_some_iff.1 hp).1]
    · rw [State.refreshBy_tile, State.tile_foldl_onTile (f := Tile.passFresh) (fun _ => rfl) _ _ (by exact hlen), if_pos hi]
      exact ⟨rfl, rfl, rfl⟩
  · intro x hx hdue
    refine ⟨_, exec_passEnd hp hx hdue, ?_, ?_⟩
    · rw [State.rest_frame (P := State.plots) (fun _ _ _ => by rfl), State.onPlot_plots, State.closePass_plots hp hx]
      have hlen := (List.getElem?_eq_some_iff.1 hp).1
      rw [modifyAt_of_getElem? _ (List.getElem?_set_self hlen), List.getElem?_set_self (by simpa using hlen)]
      rfl
    · rw [State.rest_frame (P := State.host) (fun _ _ _ => by rfl)]
      exact State.closePass_host s k
  · rintro fn count k p q s hfn hfn4 hcount hspace hp rfl
    rw [exec_hstPassPost hfn hfn4 hcount hspace hp]
    simp only [Plot.posted, Bool.and_eq_true, beq_iff_eq, decide_eq_true_eq]

end Sys2Proof.Machine

/-! What events, faults and copies leave unchanged, the queue pairs among it. -/
namespace Sys2Proof.Machine

section pairs

variable (s : State)

theorem State.signal_pairs (fn vec : Nat) : (s.signal fn vec).aq.pairs = s.aq.pairs := by
  unfold State.signal
  split
  · rfl
  · split <;> rfl

section events

variable {β : Type} {P : Aqvel → β}
  (hP : ∀ (a : Aqvel) ev n src, P { a with events := ev, enext := n, esrc := src } = P a)
include hP

theorem Aqvel.store_frame (a : Aqvel) (tick step code kind idx : Nat) (params : List Byte) :
    P (a.store tick step code kind idx params) = P a := hP ..

theorem Aqvel.makeRoom_frame (a : Aqvel) (tick step : Nat) : P (a.makeRoom tick step) = P a := by
  unfold Aqvel.makeRoom
  split
  · rfl
  · exact (Aqvel.store_frame hP ..).trans (hP a _ a.enext a.esrc)

/-- An event changes the event log and its sequences, of the controller's tables. -/
theorem State.event_aq_frame (code kind idx : Nat) (params : List Byte) : P (s.event code kind idx params).aq = P s.aq := by
  have hsignal (s : State) (fn vec : Nat) : (s.signal fn vec).aq = s.aq := by
    unfold State.signal
    split
    · rfl
    · split <;> rfl
  rw [State.event, State.eventOf, State.signalEvent, foldl_frame (P := State.aq) (fun s fn => hsignal s fn 0)]
  exact (Aqvel.store_frame hP ..).trans (Aqvel.makeRoom_frame hP ..)

end events

theorem State.event_pairs (code kind idx : Nat) (params : List Byte) : (s.event code kind idx params).aq.pairs = s.aq.pairs :=
  State.event_aq_frame s (P := Aqvel.pairs) (fun _ _ _ _ => rfl) ..

theorem State.writeRecord_pairs (f : FaultRec) (outcome : Nat) : (s.writeRecord f outcome).aq.pairs = s.aq.pairs := by
  unfold State.writeRecord
  dsimp only

theorem State.notice_pairs (kind : Nat) (w : Site) (outcome plot : Nat) : (s.notice kind w outcome plot).aq.pairs = s.aq.pairs :=
  (State.writeRecord_pairs ..).trans (State.event_pairs ..)

theorem State.withFaultN_pairs {f : State → State} (hf : (f s).aq = s.aq) : (s.withFaultN f).aq.pairs = s.aq.pairs := by
  unfold State.withFaultN
  dsimp only
  split
  · rw [hf]
  · exact congrArg Aqvel.pairs hf

theorem State.declareSuspect_pairs (w : Site) : (s.declareSuspect w).aq.pairs = s.aq.pairs := by
  unfold State.declareSuspect
  split
  · rfl
  · exact (State.notice_pairs ..).trans (State.withFaultN_pairs s (by rfl))

theorem State.linkFault_pairs (p reason : Nat) : (s.linkFault p reason).aq.pairs = s.aq.pairs := by
  unfold State.linkFault
  split
  · exact State.notice_pairs ..
  · rfl

theorem State.recur_pairs (f : FaultRec) (w : Site) : (s.recur f w).aq.pairs = s.aq.pairs := by
  unfold State.recur
  split_ifs
  · exact State.declareSuspect_pairs ..
  · exact State.linkFault_pairs ..
  · exact State.linkFault_pairs ..
  · rfl
  · rfl

theorem State.failCheckIn_pairs (phase kind : Nat) (w : Site) (paired : Bool) :
    (s.failCheckIn phase kind w paired).aq.pairs = s.aq.pairs := by
  have hrecur (t : State) (c : Prop) [Decidable c] (f : FaultRec) :
      (if c then t.recur f w else t).aq.pairs = t.aq.pairs := by
    split
    · exact State.recur_pairs ..
    · rfl
  unfold State.failCheckIn
  extract_lets q t counted src f counting src' f' late v leave mode
  have ht : t.aq.pairs = s.aq.pairs := State.event_pairs ..
  have hv : v.aq.pairs = s.aq.pairs := (hrecur ..).trans ht
  have hleave : (leave v).aq.pairs = s.aq.pairs := (State.declareSuspect_pairs ..).trans hv
  have hcounting : counting.aq.pairs = s.aq.pairs := ht
  clear_value t counting v leave
  split
  · exact (State.writeRecord_pairs ..).trans ht
  · split
    · exact (hrecur ..).trans hcounting
    · split_ifs
      · exact hv
      · exact hv
      · exact hv
      · exact hv
      · exact hv
      · exact hleave
      · exact hleave

theorem quiet_pairs : Quiet fun s : State => s.aq.pairs where
  emit _ _ := rfl
  onHost _ _ := rfl
  event := State.event_pairs
  notice := State.notice_pairs
  check := State.failCheckIn_pairs

end pairs

/-- A fold that carries a state along with something else. -/
theorem foldl_frame_of {α β σ : Type} {P : σ → β} {f : σ → α → σ} (hf : ∀ x a, P (f x a) = P x) (l : List α) (x : σ) :
    P (l.foldl f x) = P x := by
  induction l generalizing x with
  | nil => rfl
  | cons a l ih => rw [List.foldl_cons, ih, hf]

/-! ### What the completion of an entry leaves unchanged -/

section completions

variable {β : Type} {P : State → β} (hdma : ∀ (x : State) (d : Dma), P { x with dma := d } = P x)
include hdma

theorem State.drained_frame (s : State) (q : Nat) : P (s.drained q) = P s := by
  unfold State.drained
  dsimp only
  split
  · exact State.onQ_frame hdma ..
  · rfl

variable (hP : Quiet P)
include hP

theorem State.copyDone_frame (s : State) (q ring tag : Nat) (signal : Bool) (status count bytes : Nat) :
    P (s.copyDone q ring tag signal status count bytes) = P s := by
  have hsignal (t : State) (fn vec : Nat) : P (t.signal fn vec) = P t := by
    unfold State.signal
    split
    · rfl
    · split
      · exact hP.onHost ..
      · exact hP.emit ..
  unfold State.copyDone
  dsimp only
  split
  · rw [hsignal, State.onQ_frame hdma, hP.emit]
  · rw [State.onQ_frame hdma, hP.emit]

theorem State.sendDone_frame (s : State) (idx status cause bytes : Nat) : P (s.sendDone idx status cause bytes) = P s := by
  unfold State.sendDone
  split
  · rfl
  · exact (State.drained_frame hdma ..).trans ((State.copyDone_frame hdma hP ..).trans (hdma ..))

end completions

/-! ### What a copy leaves unchanged -/

section copies

variable {β : Type} {P : State → β} (hP : Quiet P)
  (hstack : ∀ (x : State) k (f : Stack → Stack), (∀ y, (f y).refresh = y.refresh) → P (x.onStack k f) = P x)
  (hhbm : ∀ (x : State) (b : Mem), P (x.onMem fun m => { m with hbm := b }) = P x)
include hP hstack hhbm

theorem State.movePiece_frame (s : State) (q plot : Nat) (e : CopyEntry) (at_ k : Nat) :
    P (s.movePiece q plot e at_ k).2 = P s := by
  have hwrite (t : State) (a : Nat) (bs : List TByte) : P (t.hbmWrite plot a bs) = P t := State.hbmWrite_frame hP hstack hhbm ..
  have hfetch (t : State) (a n : Nat) : P (t.hostFetch plot a n).2 = P t := State.copyRead_frame hP hstack hhbm ..
  unfold State.movePiece
  split
  · exact (hwrite ..).trans (hfetch ..)
  · refine foldl_frame_of (P := fun x : List Nat × State => P x.2) (fun x seg => (hwrite ..).trans ?_) _ _
    exact foldl_frame_of (P := fun y : List TByte × List Nat × State => P y.2.2) (fun y i => hfetch y.2.2 ..) _ _
  · exact hwrite ..
  · exact (hP.emit ..).trans (hfetch ..)

variable (hdma : ∀ (x : State) (d : Dma), P { x with dma := d } = P x)
include hdma

theorem State.moveCopy_frame (s : State) (q plot : Nat) (j : CopyJob) (k : Nat) : P (s.moveCopy q plot j k) = P s := by
  unfold State.moveCopy
  dsimp only
  split
  · rfl
  · split
    · refine (hdma ..).trans ?_
      split
      · exact hP.event ..
      · rfl
    · exact (hdma ..).trans (State.movePiece_frame hP hstack hhbm ..)

theorem finishCopy_frame (q plot stop fuel : Nat) (s : State) : P (finishCopy q plot stop fuel s) = P s := by
  induction fuel generalizing s with
  | zero => rfl
  | succ fuel ih =>
    rw [finishCopy]
    split
    · rfl
    · split
      · rfl
      · exact (ih _).trans (State.moveCopy_frame hP hstack hhbm hdma ..)

theorem State.queueAbort_frame (s : State) (q n : Nat) : P (s.queueAbort q n) = P s := by
  have honQ (t : State) (f : DmaQueue → DmaQueue) : P (t.onQ q f) = P t := State.onQ_frame hdma ..
  unfold State.queueAbort
  dsimp only
  split
  · rfl
  · split
    · exact (hdma ..).trans ((finishCopy_frame hP hstack hhbm hdma ..).trans (honQ ..))
    · exact (hdma ..).trans (honQ ..)
    · exact (State.drained_frame hdma ..).trans (honQ ..)

end copies

theorem State.queueAbort_pairs (s : State) (q n : Nat) : (s.queueAbort q n).aq.pairs = s.aq.pairs :=
  State.queueAbort_frame quiet_pairs (fun _ _ _ _ => rfl) (fun _ _ => rfl) (fun _ _ => rfl) s q n

end Sys2Proof.Machine

/-! O53: commands that complete on conditions of their own. Most of what they do is said above, command by command. -/
namespace Sys2Proof.Machine

/-- GET_STATE without an extended buffer. -/
theorem exec_getState_noExt {s : State} {c : Slot} (hsound : Sound s 0x0102 .chip c anywhere) (hclean : Clean c [(0, 32)] [])
    (hext : c.extLen = 0) : ∃ detail, exec (.getState c) s
      = .next ((s.taken c).reply 0x0102 c stDone detail (if s.chip.profile = 0 then s.train.committed else 2 ^ 64 - 1)) := by
  have htaken : (s.taken c).chip = s.chip ∧ (s.taken c).train = s.train :=
    frame_of_offAq (P := fun x : State => (x.chip, x.train)) (fun _ => rfl) (State.taken_offAq s c) |> Prod.mk.inj
  refine ⟨_, getStateReturnsTheCommittedStep c s (s.taken c) (s.taken c) _ _ rfl hsound hclean ?_ rfl (.inl ⟨hext, rfl⟩)⟩
  rw [htaken.1, htaken.2]

/-! ### Queue pairs -/

section pair

variable {s : State} {n : Nat}

theorem State.pair_onPair_same (hlen : n < s.aq.pairs.length) (f : Pair → Pair) : (s.onPair n f).pair n = f (s.pair n) :=
  nth_modifyAt_same f hlen

variable (hn : n ≤ 7) (hlen : n < s.aq.pairs.length)
include hn hlen

theorem exec_mgtQueueEnable_started (hr : (s.pair n).running = false) (he : s.pairExists n) (hv : (s.pair n).valid) :
    ∃ t, exec (.mgtQueueEnable n) s = .next t ∧ (t.pair n).running ∧ (t.pair n).sqHead = 0 ∧ (t.pair n).cqTail = 0 := by
  refine ⟨_, exec_mgtQueueEnable hn, ?_⟩
  rw [State.pairEnable_starts hr he hv, State.pair, ← modifyAt, nth_modifyAt_same _ hlen]
  exact ⟨rfl, rfl, rfl⟩

theorem exec_mgtQueueDisable_stopped (hr : (s.pair n).running) :
    ∃ t, exec (.mgtQueueDisable n) s = .next t ∧ (t.pair n).running = false := by
  refine ⟨_, exec_mgtQueueDisable hn, ?_⟩
  rw [State.pairDisable, if_pos hr, State.pair_onPair_same hlen]
  rfl

theorem exec_mgtSqtailDoorbell_tail (hr : (s.pair n).running) {v : W32} (hv : v.toNat < (s.pair n).sqSize.toNat)
    (hfit : (s.pair n).visible.length + (v.toNat + (s.pair n).sqSize.toNat - (s.pair n).sqTail.toNat)
      % (s.pair n).sqSize.toNat ≤ (s.pair n).sqSize.toNat - 1) :
    ∃ t, exec (.mgtSqtailDoorbell n v true) s = .next t ∧ (t.pair n).sqTail = v := by
  refine ⟨_, exec_mgtSqtailDoorbell hn, ?_⟩
  rw [State.sqDoorbell_moves hr rfl hv rfl hfit, State.pair_onPair_same hlen]

theorem exec_mgtCqheadWrite_head (hr : (s.pair n).running) {v : W32} (hv : v.toNat < (s.pair n).cqSize.toNat)
    (hle : (v.toNat + (s.pair n).cqSize.toNat - (s.pair n).cqHead.toNat) % (s.pair n).cqSize.toNat
      ≤ ((s.pair n).cqTail.toNat + (s.pair n).cqSize.toNat - (s.pair n).cqHead.toNat) % (s.pair n).cqSize.toNat) :
    ∃ t, exec (.mgtCqheadWrite n v) s = .next t ∧ (t.pair n).cqHead = v := by
  refine ⟨_, exec_mgtCqheadWrite hn, ?_⟩
  rw [State.cqHeadTo_moves hr rfl hv hle, State.pair_onPair_same hlen]

theorem exec_completionWrite_delivers (hr : (s.pair n).running) {w : Waiting} {rest : List Waiting}
    (hw : (s.pair n).waiting = w :: rest) (hfree : 0 < (s.pair n).ringFree) :
    ∃ t, exec (.completionWrite n true) s = .next t ∧ (t.pair n).waiting = rest ∧
      .hostWrite (if n ≤ 3 then 0 else n - 3) ((s.pair n).cqBase.toNat + 32 * (s.pair n).cqTail.toNat) w.entry.bytes ∈ t.out := by
  refine ⟨_, exec_completionWrite hn hr hw hfree _ _ _ _ rfl rfl rfl rfl, ?_⟩
  generalize hu : State.emits _ _ = u
  have hwaiting : (u.pair n).waiting = rest := by
    rw [← hu]
    exact congrArg Pair.waiting (State.pair_onPair_same hlen _)
  have hout : Output.hostWrite (if n ≤ 3 then 0 else n - 3) ((s.pair n).cqBase.toNat + 32 * (s.pair n).cqTail.toNat)
      w.entry.bytes ∈ u.out := by
    rw [← hu]
    exact List.mem_append_right _ (List.mem_cons_self ..)
  split
  · refine ⟨?_, (State.signal_keeps _ _ _ (Keeps.refl u)).out.subset hout⟩
    rw [State.pair, State.signal_pairs]
    exact hwaiting
  · exact ⟨hwaiting, hout⟩

end pair

/-! ### Copy queues -/

section copy

variable {s : State} {q k : Nat}

/-- Nothing of the entry is left to move. -/
theorem finishCopy_done {j : CopyJob} {stop : Nat} (hj : s.copyJob? q = some j) (hdone : stop ≤ j.bytes) (fuel : Nat) :
    finishCopy q k stop (fuel + 1) s = s := by
  rw [finishCopy, hj]
  exact if_pos (by simpa using hdone)

theorem State.copyJob?_copyDone (r ring tag : Nat) (signal : Bool) (status count bytes : Nat) :
    (s.copyDone q ring tag signal status count bytes).copyJob? r = s.copyJob? r := by
  have hsignal (t : State) (fn vec : Nat) : (t.signal fn vec).copyJob? r = t.copyJob? r :=
    frame_of_offRecords (P := fun x : State => x.copyJob? r) (fun _ => rfl)
      (State.offRecords_of_offEvents (State.signal_offEvents ..))
  unfold State.copyDone
  dsimp only
  split
  · rw [hsignal, State.copyJob?_onQ]
    rfl
  · rw [State.copyJob?_onQ]
    rfl

theorem State.copyJob?_drained (r : Nat) : (s.drained q).copyJob? r = s.copyJob? r := by
  unfold State.drained
  dsimp only
  split
  · exact State.copyJob?_onQ ..
  · rfl

variable (hq : q ≤ 4) (hplot : s.queuePlot q = some k)
include hq hplot

theorem exec_hostCopyComplete_frees {j : CopyJob} (hj : s.copyJob? q = some j) (hdone : j.entry.b ≤ j.bytes) :
    ∃ t, exec (.hostCopyComplete q none true) s = .next t ∧ t.copyJob? q = none := by
  refine ⟨_, exec_hostCopyComplete hq hj hplot (finishCopy_done hj hdone _).symm hj (.inr (.inr hdone)), ?_⟩
  rw [State.copyPost, if_pos rfl, State.copyJob?_drained, State.copyJob?_copyDone, State.copyJob?_setCopyJob]

end copy

/-! ### The virtual functions -/

/-- The reset of a VF stops its pair (R431). -/
theorem exec_vfFlr_stops {s : State} {vf : Nat} (h1 : 1 ≤ vf) (h4 : vf ≤ 4) (hlen : 3 + vf < s.aq.pairs.length) :
    ∃ t, exec (.vfFlr vf) s = .next t ∧ (t.pair (3 + vf)).running = false := by
  refine ⟨_, if_neg (by simp; omega), ?_⟩
  rw [State.pair, State.queueAbort_pairs, ← State.pair, State.pairDisable]
  split
  · rw [State.pair_onPair_same hlen]
    rfl
  · next hrun => simpa using hrun

/-- Settles O53. -/
theorem commandsCompleteOnConditionsOfTheirOwn : Obligations.CommandsCompleteOnConditionsOfTheirOwn := by
  unfold Obligations.CommandsCompleteOnConditionsOfTheirOwn
  intro s
  refine ⟨fun c => exec_getState_noExt, fun n hn hlen => ⟨exec_mgtQueueEnable_started hn hlen, fun hr =>
    ⟨exec_mgtQueueDisable_stopped hn hlen hr, fun v => exec_mgtSqtailDoorbell_tail hn hlen hr, fun v =>
      exec_mgtCqheadWrite_head hn hlen hr, fun w rest => exec_completionWrite_delivers hn hlen hr⟩⟩, ?_, ?_, ?_, ?_,
    fun vf => exec_vfFlr_stops⟩
  · intro q k hq hlen hplot
    obtain ⟨henable, -, hdoorbell, hdrain, hstart, -⟩ := copyQueuesWork.1 q k s _ hq rfl hplot
    refine ⟨fun hst => ⟨_, henable hst, ?_, ?_⟩, fun j hj _ hdone => exec_hostCopyComplete_frees hq hplot hj hdone,
      fun hst hne => ⟨fun v hv => ?_, ?_, fun n hj => ?_, fun e hj hwait hbad hkind hmay => ?_⟩⟩
    · rw [State.dmaQ_onQ_same s hq hlen]
    · rw [State.dmaQ_onQ_same s hq hlen]
    · obtain ⟨t, ht, htail, -⟩ := hdoorbell v hst hv hlen
      exact ⟨t, ht, congrArg DmaQueue.tail htail⟩
    · obtain ⟨t, ht, hd⟩ := hdrain hst hlen
      exact ⟨t, ht, by rw [hd]; exact if_neg fun h => hne h.1, by rw [hd]⟩
    · obtain ⟨t, ht, hd⟩ := copyQueuesWork.2.2 q n s hq hlen (.inl hst) hj
      exact ⟨t, ht, by rw [hd]; exact if_neg hne⟩
    · obtain ⟨-, htaken⟩ := hstart ⟨some e, true⟩ (.inl ⟨hst, hne⟩) hj
      obtain ⟨t, ht, hjob, -⟩ := (htaken e _ rfl hwait rfl).1 hbad (fun h => absurd h hkind) hmay
      exact ⟨t, ht, hjob⟩
  · obtain ⟨henable, hdoorbell, hdrain, -, habort, -, hstart⟩ := theSendQueueStartsItsEntries s _ rfl
    refine ⟨fun hst => ⟨_, henable hst, rfl⟩, fun hst hne => ⟨fun v hv => ⟨_, hdoorbell v hst hv, rfl⟩,
      ⟨_, hdrain hst, if_neg fun h => hne h.1⟩, fun hjobs => ⟨_, habort (.inl hst) hjobs, if_neg hne⟩,
      fun e ok hjobs hstreams hon hbad => ⟨_, hstart e _ _ ok (.inl ⟨hst, hne⟩) hjobs hstreams rfl hon hbad rfl, ?_⟩⟩⟩
    split <;> rfl
  · intro fn k count p h1 h4 hspace hp hst hsum
    refine ⟨_, exec_hstPassPost h1 h4 (by omega) hspace hp, ?_⟩
    rw [List.getElem?_set_self (List.getElem?_eq_some_iff.1 hp).1, Plot.posted, if_pos (by simp [hst, hsum])]
  · intro eid off n heid h1 hn hoff
    refine ⟨_, ?_, exec_bufRead heid (by simp [bufRange, h1, hn, hoff])⟩
    rw [List.length_map, List.length_range]

end Sys2Proof.Machine

/-! O23: fabric time and its reference. -/
namespace Sys2Proof.Machine

/-! ### The edges of FTSYNC -/

section edges

variable {s : State} (hlocked : s.time.locked)
include hlocked

theorem exec_ftsyncRisingEdge_armed (harmed : s.time.armed) : exec .ftsyncRisingEdge s = .next { s with
    time := { s.time with
      armed := false, valid := true, syncSeen := true, tick := 0, cycle := 0
      arming := s.time.arming.map (fun a => { a with edge := true }) }
    ports := s.ports.map (fun p => { p with seqTx := 0, seqRx := 0 })
    checks := s.checks.map (fun k => { k with digTx := 0, digRx := 0 }) } :=
  (if_neg (by simp [hlocked])).trans (if_pos harmed)

theorem exec_ftsyncRisingEdge_grid (harmed : s.time.armed = false) : exec .ftsyncRisingEdge s
    = .next (if s.time.valid ∧ s.time.cycle ≠ 0 then (s.onTime (fun t => { t with
        slips := min (t.slips + 1) 255 })).event 0x20 0 0 (leBytes 2 s.time.cycle) else s) := by
  refine (if_neg (by simp [hlocked])).trans ((if_neg (by simp [harmed])).trans ?_)
  cases hv : s.time.valid with
  | false => simp
  | true => by_cases hc : s.time.cycle = 0 <;> simp [hc]

end edges

/-! ### EPOCH_CHECK -/

section epoch

variable {s : State} {a : Arming}

/-- A port with the EPOCH_CHECK cell of port `p` to send (R237). -/
def Port.checkQueued (a : Arming) (now p : Nat) (q : Port) : Port :=
  { q with ctl := q.ctl ++ [⟨ctlCell 4 (epochPayload a.token 8 p), now, none⟩] }

theorem State.port_sendEpochCheck {p : Nat} (hp : p < s.ports.length) (j : Nat) : (s.sendEpochCheck a j).port p
    = if p = j ∧ (s.port p).st = 2 then (s.port p).checkQueued a s.time.cyc p else s.port p := by
  unfold State.sendEpochCheck
  by_cases hj : p = j
  · subst hj
    split
    · next hst => exact (nth_modifyAt_same _ hp).trans (if_pos ⟨rfl, beq_iff_eq.1 hst⟩).symm
    · next hst => exact (if_neg fun h => hst (beq_iff_eq.2 h.2)).symm
  · have hother : ¬ (p = j ∧ (s.port p).st = 2) := fun h => hj h.1
    rw [if_neg hother]
    split
    · exact nth_modifyAt_ne _ hj
    · rfl

/-- The cells of a mask, which names no port twice. -/
theorem State.port_sendEpochChecks (a : Arming) {p : Nat} (mask : List Nat) : ∀ s : State, mask.Nodup → p < s.ports.length →
    (mask.foldl (State.sendEpochCheck a) s).port p
      = if p ∈ mask ∧ (s.port p).st = 2 then (s.port p).checkQueued a s.time.cyc p else s.port p := by
  induction mask with
  | nil => exact fun s _ _ => (if_neg (by simp)).symm
  | cons j mask ih =>
    intro s hnodup hp
    obtain ⟨hj, hnodup⟩ := List.nodup_cons.1 hnodup
    have hlen : (s.sendEpochCheck a j).ports.length = s.ports.length := by
      unfold State.sendEpochCheck
      split
      · exact List.length_modify ..
      · rfl
    have htime : (s.sendEpochCheck a j).time = s.time := by
      unfold State.sendEpochCheck
      split <;> rfl
    rw [List.foldl_cons, ih _ hnodup (hlen ▸ hp), State.port_sendEpochCheck hp, htime]
    by_cases hpj : p = j
    · subst hpj
      simp [hj]
    · simp [hpj]

theorem exec_epochCheckSend (ha : s.time.arming = some a) (hedge : a.edge) (hsent : a.sent = false) (hv : s.time.valid)
    (htick : s.time.tick = 8) (hcycle : s.time.cycle = 0) : exec .epochCheckSend s = .next (s.epochChecksSent a) := by
  change execEpochCheckSend s = _
  unfold execEpochCheckSend
  rw [ha]
  dsimp only
  rw [if_pos (by simp [hedge, hsent, hv, htick, hcycle]), ← State.epochChecksSent_eq]
  rfl

theorem State.port_epochChecksSent {p : Nat} (hnodup : a.mask.Nodup) (hp : p < s.ports.length) : (s.epochChecksSent a).port p
    = if p ∈ a.mask ∧ (s.port p).st = 2 then (s.port p).checkQueued a s.time.cyc p else s.port p :=
  State.port_sendEpochChecks a a.mask s hnodup hp

end epoch

/-! ### The reference -/

/-- What the time block says of its reference. -/
def State.reference (s : State) : PllRef × Bool × Bool × Bool × Bool :=
  (s.time.pll, s.time.locked, s.time.ftref, s.time.valid, s.time.refLost)

section lost

variable (s : State)

theorem State.offAq_reference {s t : State} (h : t.offAq = s.offAq) : t.reference = s.reference :=
  frame_of_offAq (P := State.reference) (fun _ => rfl) h

theorem State.linkTrainEnd_offAq : s.linkTrainEnd.offAq = s.offAq := by
  unfold State.linkTrainEnd
  split
  · rfl
  · dsimp only
    split
    · rfl
    · split
      · exact State.endJob_offAq ..
      · exact State.endJob_offAq ..

theorem State.armLost_reference : s.armLost.reference = s.reference := by
  unfold State.armLost
  split
  · exact (State.offAq_reference (State.endJob_offAq ..)).trans rfl
  · rfl

theorem State.dropWork_reference (opcode : Nat) : (s.dropWork opcode).reference = s.reference := by
  unfold State.dropWork
  split_ifs <;> rfl

theorem State.abortWork_reference (f : Job → Bool) : (s.abortWork f).reference = s.reference := by
  unfold State.abortWork
  refine foldl_frame (P := State.reference) (fun s j => ?_) _ s
  exact (State.dropWork_reference ..).trans (State.offAq_reference (State.endJob_offAq ..))

/-- The reference lost: LOCKED and VALID fall, and the PLL is left in holdover, whatever ends with it (R41). -/
theorem exec_refLost (h : s.time.locked ∨ s.time.ftref) :
    ∃ t, exec .refLost s = .next t ∧ t.reference = (.holdover, false, false, false, true) := by
  refine ⟨_, if_neg (by obtain h | h := h <;> simp [h]), ?_⟩
  refine (frame_of_offChecks (P := State.reference) (fun _ => rfl) (State.notice_offChecks ..)).trans ?_
  have hrefresh (t : State) : (if t.chip.trained then t.refreshBy (List.range 8) .selfRefresh else t).reference = t.reference := by
    split
    · exact State.refreshBy_frame (P := State.reference) (fun _ _ _ => rfl) ..
    · rfl
  rw [hrefresh, State.abortWork_reference]
  refine (foldl_frame (P := State.reference) (fun t q => State.queueAbort_frame (.of_offChecks fun _ => rfl) (fun _ _ _ _ => rfl)
    (fun _ _ => rfl) (fun _ _ => rfl) t q 0) _ _).trans ?_
  rw [State.offAq_reference (State.linkTrainEnd_offAq _)]
  exact (State.armLost_reference _).trans rfl

end lost

section holdover

variable {s : State}

/-- Holdover is left for PCIE_REFCLK. -/
theorem State.leaveHoldover_time (h : s.time.pll = .holdover) : s.leaveHoldover.time = { s.time with pll := .pcie } := by
  unfold State.leaveHoldover
  rw [if_pos (by simp [h])]
  refine (State.releaseReads_frame (P := State.time) (.of_offChecks fun _ => rfl) (fun _ _ _ _ => rfl) (fun _ _ => rfl) _).trans ?_
  dsimp only
  split
  · exact State.rest_frame (P := State.time) (fun _ _ _ => rfl) ..
  · rfl

theorem State.refresh_refreshBy {k : Nat} (r : RefreshBy) (ks : List Nat) : ∀ s : State, k < s.mem.hstacks.length →
    ((s.refreshBy ks r).stack k).refresh = if k ∈ ks then r else (s.stack k).refresh := by
  induction ks with
  | nil => exact fun s _ => rfl
  | cons j ks ih =>
    intro s hk
    refine (ih (s.onStack j fun x => { x with refresh := r }) ((List.length_modify ..).symm ▸ hk)).trans ?_
    by_cases hkj : k = j
    · subst hkj
      have hsame : (s.onStack k fun x => { x with refresh := r }).stack k = { s.stack k with refresh := r } :=
        nth_modifyAt_same _ hk
      simp [hsame]
    · have hother : (s.onStack j fun x => { x with refresh := r }).stack k = s.stack k := nth_modifyAt_ne _ hkj
      simp [hother, hkj]

/-- A read leaves every stack to the one that refreshes it. -/
theorem State.refresh_releaseReads (s : State) (k : Nat) : (s.releaseReads.stack k).refresh = (s.stack k).refresh := by
  have hmap : s.releaseReads.mem.hstacks.map (·.refresh) = s.mem.hstacks.map (·.refresh) :=
    State.releaseReads_frame (P := fun x : State => x.mem.hstacks.map (·.refresh)) (.of_offChecks fun _ => rfl)
      (fun x k f hf => map_modifyAt x.mem.hstacks k hf) (fun _ _ => rfl) s
  exact (nth_map ..).trans ((congrArg (nth · k _) hmap).trans (nth_map ..).symm)

/-- Out of holdover, the controller refreshes the trained stacks, but in HOLD. -/
theorem State.leaveHoldover_refresh (h : s.time.pll = .holdover) (htrained : s.chip.trained) (hst : s.chip.st ≠ .hold)
    {k : Nat} (hk8 : k < 8) (hk : k < s.mem.hstacks.length) : (s.leaveHoldover.stack k).refresh = .controller := by
  unfold State.leaveHoldover
  rw [if_pos (by simp [h]), State.refresh_releaseReads, if_pos (by exact htrained), State.rest,
    if_neg (by simp [State.onTime, hst]), State.refresh_refreshBy _ _ _ (by exact hk), if_pos (List.mem_range.2 hk8)]

theorem State.anyRunning_iff (s : State) : s.anyRunning = true ↔ ∃ p ∈ s.plots, p.st = .running ∨ p.st = .draining := by
  simp [State.anyRunning]

theorem exec_corePllLock_locks (h : s.time.pll = .ftref ∨ s.anyRunning = false) : exec .corePllLock s
    = .next (((s.onTime fun t => { t with ftref := true }).leaveHoldover).onTime fun t => { t with
      pll := .ftref, locked := true }) :=
  if_neg (by obtain h | h := h <;> simp [h])

/-- The time block of a PLL locked to FTREF, by way of PCIE_REFCLK where it was in holdover. -/
theorem State.lockedTo_time : (((s.onTime fun t => { t with ftref := true }).leaveHoldover).onTime fun t => { t with
    pll := .ftref, locked := true }).time = { s.time with ftref := true, pll := .ftref, locked := true } := by
  by_cases hpll : s.time.pll = .holdover
  · rw [State.onTime_time, State.leaveHoldover_time (by exact hpll)]
    rfl
  · rw [State.leaveHoldover_of_ne (by exact hpll)]
    rfl

end holdover

/-- Settles O23: the edge, the check cells, the loss of the reference and the lock to it. -/
theorem fabricTimeFollowsItsEdges : Obligations.FabricTimeFollowsItsEdges := by
  unfold Obligations.FabricTimeFollowsItsEdges
  refine ⟨fun s hlocked => ⟨fun harmed => ⟨_, exec_ftsyncRisingEdge_armed hlocked harmed, rfl, rfl, rfl, rfl, rfl, rfl, rfl, rfl,
    rfl, rfl⟩, fun harmed hv hc => ?_, fun harmed hv hc => ?_, fun harmed hv => ?_⟩, ?_, fun s => ⟨fun h => ?_, fun h => ?_,
    fun hpll hrun => ?_, fun hpll => ⟨_, rfl, State.leaveHoldover_time hpll, fun htrained hst k hk8 hk =>
      State.leaveHoldover_refresh hpll htrained hst hk8 hk⟩, fun hpll => congrArg _ (State.leaveHoldover_of_ne hpll)⟩⟩
  · rw [exec_ftsyncRisingEdge_grid hlocked harmed, if_neg fun h => h.2 hc]
  · rw [exec_ftsyncRisingEdge_grid hlocked harmed, if_pos ⟨hv, hc⟩]
  · rw [exec_ftsyncRisingEdge_grid hlocked harmed, if_neg (by simp [hv])]
  · intro s a ha hedge hsent hv htick hcycle hnodup hports
    refine ⟨_, exec_epochCheckSend ha hedge hsent hv htick hcycle, rfl, fun p hp => ?_⟩
    exact State.port_epochChecksSent hnodup (by omega)
  · obtain ⟨t, ht, href⟩ := exec_refLost s h
    simp only [State.reference, Prod.mk.injEq] at href
    obtain ⟨hpll, hlocked, hftref, hvalid, hlost⟩ := href
    exact ⟨t, ht, hpll, hlocked, hftref, hvalid, hlost⟩
  · have hquiet : s.time.pll = .ftref ∨ s.anyRunning = false := h.imp_right fun hnone =>
      Bool.eq_false_iff.2 fun hrun => by
        obtain ⟨p, hp, hst⟩ := s.anyRunning_iff.1 hrun
        exact hst.elim (hnone p hp).1 (hnone p hp).2
    refine ⟨_, exec_corePllLock_locks hquiet, State.lockedTo_time, fun hpll htrained hst k hk8 hk => ?_⟩
    exact State.leaveHoldover_refresh (s := s.onTime fun t => { t with ftref := true }) hpll htrained hst hk8 hk
  · exact if_pos (by simp [s.anyRunning_iff.2 hrun, hpll])

end Sys2Proof.Machine

/-! O42 and O43: chip resets. -/
namespace Sys2Proof.Machine

/-- The state without what the reset commands leave apart from one another: what is sent out, what holds the chip, the
profile that its straps select with its plots, and the TAP. -/
def State.offHeld (s : State) : State := { s with
  out := [], plots := [], tap := .idcode
  chip := { s.chip with held := ⟨false, false, false⟩, profile := 0, thermTrip := false } }

section reset

variable (s : State)

theorem State.pinTo_offHeld (land : Nat) (old new : Bool) : (s.pinTo land old new).offHeld = s.offHeld := by
  unfold State.pinTo
  split <;> rfl

theorem State.clearedTo_offHeld (cause : Nat) (vioLost full : Bool) :
    (s.clearedTo cause vioLost full).offHeld = (s.cleared cause vioLost full).offHeld := by
  unfold State.clearedTo
  dsimp only
  split <;> rfl

theorem State.chipReset_offHeld (cause : Nat) (vioLost full : Bool) :
    (s.chipReset cause vioLost full).offHeld = (s.cleared cause vioLost full).offHeld := by
  rw [State.chipReset, State.pinTo_offHeld, State.pinTo_offHeld, State.clearedTo_offHeld]

/-- What ignores what `offHeld` takes away is what the cleared chip has. -/
theorem frame_of_offHeld {β : Type} {P : State → β} (hP : ∀ x : State, P x.offHeld = P x) {t u : State}
    (h : t.offHeld = u.offHeld) : P t = P u := by
  rw [← hP t, h, hP]

theorem State.chipReset_held (cause : Nat) (vioLost full : Bool) : (s.chipReset cause vioLost full).chip.held = s.chip.held := by
  have hpin (t : State) (land : Nat) (old new : Bool) : (t.pinTo land old new).chip = t.chip := by
    unfold State.pinTo
    split <;> rfl
  rw [State.chipReset, hpin, hpin]
  unfold State.clearedTo
  dsimp only
  split <;> rfl

/-- The fields of Table 17.5 after a chip reset of `s`. -/
def State.ResetFrom (s : State) (cause : Nat) (full : Bool) (t : State) : Prop :=
  t.chip.st = .boot ∧ t.chip.cause = cause ∧ t.chip.count = min (s.chip.count + 1) 65535 ∧
    t.chip.fullNext = full ∧ t.chip.profsel = s.chip.profsel ∧ t.chip.slotId = s.chip.slotId ∧
    t.train = State.reset.train ∧ t.aq.jobs = [] ∧ t.aq.journal = s.aq.journal ∧ t.aq.jnext = s.aq.jnext ∧
    t.aq.events = [] ∧ t.flash.suspect = s.flash.suspect ∧ t.flash.prof0 = s.flash.prof0 ∧ t.flash.cper = s.flash.cper ∧
    t.ports = State.reset.ports ∧ t.time.valid = false ∧ t.time.locked = false ∧ t.shift = none ∧ t.snap.hamper = none

theorem Flash.applied_kept (f : Flash) :
    f.applied.suspect = f.suspect ∧ f.applied.prof0 = f.prof0 ∧ f.applied.cper = f.cper := by
  unfold Flash.applied
  split <;> exact ⟨rfl, rfl, rfl⟩

theorem State.cleared_resetFrom (cause : Nat) (full : Bool) : s.ResetFrom cause full (s.cleared cause false full) := by
  obtain ⟨hsuspect, hprof, hcper⟩ := s.flash.applied_kept
  exact ⟨rfl, rfl, rfl, rfl, rfl, rfl, rfl, rfl, rfl, rfl, rfl, hsuspect, hprof, hcper, rfl, rfl, rfl, rfl, rfl⟩

theorem State.ResetFrom.of_offHeld {s t : State} {cause : Nat} {full : Bool}
    (h : t.offHeld = (s.cleared cause false full).offHeld) : s.ResetFrom cause full t :=
  (frame_of_offHeld (P := s.ResetFrom cause full) (fun _ => rfl) h).mpr (s.cleared_resetFrom cause full)

end reset

/-! ### The commands -/

section commands

variable (s : State)

theorem exec_pinReset_awake (hpower : s.chip.held.power = false) (htrip : s.chip.held.trip = false) :
    exec .pinReset s = .next { s.chipReset 1 false false with chip := { (s.chipReset 1 false false).chip with
      held := { (s.chipReset 1 false false).chip.held with pin := true } } } :=
  if_neg (by simp [hpower, htrip])

theorem exec_commandChipReset {full : Bool} (h : s.chip.resetDue = some full) :
    exec .commandChipReset s = .next (s.chipReset 5 false full) := by
  change execCommandChipReset s = _
  rw [execCommandChipReset, h]

theorem exec_supplyDipTimeout {d : Dip} (hd : s.power.dip = some d) (hdue : d.began + 10 * Config.cyclesPerMs ≤ s.time.cyc) :
    exec .supplyDipTimeout s = .next (s.chipReset d.rail false false) := by
  change execSupplyDipTimeout s = _
  rw [execSupplyDipTimeout, hd]
  exact if_pos hdue

/-- A thermal trip asserts THERMTRIP_N, which a reset keeps, and holds the chip (R427). -/
def State.thermalTripped (s : State) : State :=
  { s.chipReset 4 false false with chip := { (s.chipReset 4 false false).chip with
    thermTrip := true, held := { (s.chipReset 4 false false).chip.held with trip := true } } }

theorem exec_thermalTrip : exec .thermalTrip s = .next (s.pinTo 1 s.chip.thermTrip true).thermalTripped := rfl

theorem State.thermalTripped_offHeld :
    (s.pinTo 1 s.chip.thermTrip true).thermalTripped.offHeld = (s.cleared 4 false false).offHeld := by
  refine (State.chipReset_offHeld (s.pinTo 1 s.chip.thermTrip true) 4 false false).trans ?_
  unfold State.pinTo
  split <;> rfl

/-- Power on: THERMTRIP_N is released, and RESET_N is still low. -/
theorem exec_powerOnReset (vioLost : Bool) : ∃ t, exec (.powerOnReset vioLost) s = .next t ∧
    t.offHeld = (s.cleared 0 vioLost false).offHeld ∧ t.chip.held = ⟨false, true, false⟩ ∧ t.chip.thermTrip = false ∧
      (vioLost → t.tap = .idcode) := by
  refine ⟨_, rfl, ?_, rfl, rfl, fun h => if_pos h⟩
  exact (State.pinTo_offHeld ..).trans (State.chipReset_offHeld ..)

end commands

/-- Settles O42: each of the commands leaves the cleared chip, but for what holds it. -/
theorem chipResetsClearTheChip : Obligations.ChipResetsClearTheChip := by
  unfold Obligations.ChipResetsClearTheChip
  intro s cause c full hc
  change ∃ t : State, exec c s = .next t ∧ s.ResetFrom cause full t
  obtain (⟨rfl, rfl, rfl, hpower, htrip⟩ | ⟨rfl, rfl, rfl⟩ | ⟨rfl, rfl, rfl⟩ | ⟨rfl, rfl, rfl⟩ |
    ⟨rfl, rfl, hdue⟩ | ⟨rfl, rfl, rfl⟩ | ⟨d, rfl, hd, rfl, rfl, hdue⟩) := hc
  · exact ⟨_, exec_pinReset_awake s hpower htrip, .of_offHeld (State.chipReset_offHeld s 1 false false)⟩
  · exact ⟨_, rfl, .of_offHeld (State.chipReset_offHeld s 2 false false)⟩
  · exact ⟨_, rfl, .of_offHeld (State.chipReset_offHeld s 3 false false)⟩
  · exact ⟨_, exec_thermalTrip s, .of_offHeld (State.thermalTripped_offHeld s)⟩
  · exact ⟨_, exec_commandChipReset s hdue, .of_offHeld (State.chipReset_offHeld s 5 false full)⟩
  · obtain ⟨t, ht, hoff, -⟩ := exec_powerOnReset s false
    exact ⟨t, ht, .of_offHeld hoff⟩
  · exact ⟨_, exec_supplyDipTimeout s hd hdue, .of_offHeld (State.chipReset_offHeld s d.rail false false)⟩

section held

variable {s : State}

/-- PWR_OK low: the chip is held, and the reset record stays as it was (R410). -/
theorem exec_pwrOkDeassert (s : State) : ∃ t, exec .pwrOkDeassert s = .next t ∧ t.chip.held = ⟨true, s.chip.held.pin, false⟩ ∧
    t.chip.st = .boot ∧ t.chip.cause = s.chip.cause ∧ t.chip.count = s.chip.count ∧ t.aq.journal = s.aq.journal ∧
    t.flash.cper = s.flash.cper := by
  refine ⟨_, rfl, rfl, ?_⟩
  have hoff := (State.pinTo_offHeld (s.chipReset 0 false false) 1 (s.chipReset 0 false false).chip.thermTrip false).trans
    (State.chipReset_offHeld s 0 false false)
  obtain ⟨hst, -, -, -, -, -, -, -, hjournal, -, -, -, -, hcper, -⟩ := State.ResetFrom.of_offHeld hoff
  exact ⟨hst, rfl, rfl, hjournal, hcper⟩

theorem exec_resetNDeassert_held (hpin : s.chip.held.pin) {p n : Nat} (hp : p < 4) (hn : n < 64) :
    ∃ t, exec (.resetNDeassert p n) s = .next t ∧ t.chip = { s.chip with
      held := { s.chip.held with pin := false }, profsel := p, slotId := n, profile := p } ∧
      (∀ b, s.flash.profile? p = some b → t.plots = plotsOf b) ∧ t.train = s.train ∧ t.mem = s.mem := by
  refine ⟨_, if_pos hpin, ?_⟩
  rw [Nat.mod_eq_of_lt hp, Nat.mod_eq_of_lt hn]
  dsimp only
  cases hb : s.flash.profile? p with
  | none => exact ⟨rfl, nofun, rfl, rfl⟩
  | some b => exact ⟨rfl, fun b' hb' => by obtain rfl := Option.some.inj hb'; rfl, rfl, rfl⟩

end held

/-- Settles O43. -/
theorem heldChipsWait : Obligations.HeldChipsWait := by
  unfold Obligations.HeldChipsWait
  refine fun s p n => ⟨?_, exec_pwrOkDeassert s, ⟨_, exec_thermalTrip s, rfl, rfl⟩, ?_, fun hpin hp hn => ?_,
    fun hpin => if_neg (by simp [hpin])⟩
  · obtain ⟨t, ht, hoff, hheld, htrip, htap⟩ := exec_powerOnReset s true
    have hrecord : (t.aq.journal, t.chip.count, t.chip.cause) = ([], 1, 0) :=
      (frame_of_offHeld (P := fun x : State => (x.aq.journal, x.chip.count, x.chip.cause)) (fun _ => rfl) hoff).trans rfl
    simp only [Prod.mk.injEq] at hrecord
    obtain ⟨hjournal, hcount, hcause⟩ := hrecord
    exact ⟨t, ht, hjournal, hcount, hcause, htap rfl, hheld, htrip⟩
  · by_cases hheld : (s.chip.held.power || s.chip.held.trip) = true
    · exact ⟨_, if_pos hheld, rfl⟩
    · exact ⟨_, if_neg hheld, by rw [State.chipReset_held]⟩
  · obtain ⟨t, ht, hchip, hrest⟩ := exec_resetNDeassert_held hpin hp hn
    exact ⟨t, ht, by rw [hchip], by rw [hchip], by rw [hchip], by rw [hchip], hrest⟩

end Sys2Proof.Machine

/-! O25: the commit of a step. -/
namespace Sys2Proof.Machine

/-- The counts of a job that a commit sets: the committed step, the failed runs, what the next run starts with, and the absent
record. -/
def State.counts (s : State) : Nat × Nat × Nat × Bool × Nat :=
  (s.train.committed, s.train.failedRuns, s.train.nextAbsent, s.train.nextRaised, s.train.absentLast)

section counts

variable (s : State)

theorem State.hbmWrite_counts (plot a : Nat) (bs : List TByte) : (s.hbmWrite plot a bs).counts = s.counts :=
  State.hbmWrite_frame (P := State.counts) (.of_offChecks fun _ => rfl) (fun _ _ _ _ => rfl) (fun _ _ => rfl) ..

theorem State.copyRead_counts (plot a n : Nat) : (s.copyRead plot a n).2.counts = s.counts :=
  State.copyRead_frame (P := State.counts) (.of_offChecks fun _ => rfl) (fun _ _ _ _ => rfl) (fun _ _ => rfl) ..

theorem State.endJob_counts (j : Job) (status detail result : Nat) : (s.endJob j status detail result).counts = s.counts :=
  frame_of_offAq (P := State.counts) (fun _ => rfl) (State.endJob_offAq ..)

theorem State.forgetAudit_counts : (s.onTrain fun t => { t with audit := none }).counts = s.counts := rfl

theorem State.compareAudit_counts (r : Run) (a : Audit) : (s.compareAudit r a).counts = s.counts := by
  have hnotice (t : State) (step code kind idx : Nat) (params : List Byte) (f : FaultRec) (outcome : Nat) :
      ((t.eventOf step code kind idx params).writeRecord f outcome).counts = t.counts :=
    (frame_of_offRecords (P := State.counts) (fun _ => rfl) (State.writeRecord_offRecords ..)).trans
      (frame_of_offRecords (P := State.counts) (fun _ => rfl)
        (State.offRecords_of_offEvents (State.eventOf_offEvents ..)))
  unfold State.compareAudit
  extract_lets h n l u theirs bad v
  have hu : u.counts = s.counts :=
    (State.hbmWrite_counts ..).trans ((State.copyRead_counts ..).trans (State.copyRead_counts ..))
  have hv : v.counts = u.counts := by
    unfold v
    clear_value bad
    cases bad with
    | nil => rfl
    | cons i _ => exact hnotice ..
  clear_value v u
  rw [← hu, ← hv]
  split
  · exact State.endJob_counts ..
  · rfl

theorem State.endAudit_counts (r : Run) : (s.endAudit r).counts = s.counts := by
  unfold State.endAudit
  split
  · rfl
  · next a _ =>
    split
    · dsimp only
      rw [State.forgetAudit_counts, ← State.hbmWrite_counts s 0 a.log (clean (auditLog a.step r.idx r.raised a.entries))]
      split
      · exact State.endJob_counts ..
      · rfl
    · split
      · rw [State.forgetAudit_counts, State.compareAudit_counts]
      · rfl

theorem State.endOp_counts (opcode status detail result : Nat) : (s.endOp opcode status detail result).counts = s.counts :=
  frame_of_offAq (P := State.counts) (fun _ => rfl) (State.endOp_offAq ..)

theorem State.onSnap_counts (f : Snap → Snap) : (s.onSnap f).counts = s.counts := rfl

theorem State.slotWrite_counts (ns j off : Nat) (data : List Byte) (use page : Nat) :
    (s.slotWrite ns j off data use page).counts = s.counts := by
  unfold State.slotWrite
  split <;> rfl

theorem State.partnerPass_counts : s.partnerPass.counts = s.counts := by
  unfold State.partnerPass
  split
  · rfl
  · split
    · rfl
    · split <;> rfl

theorem State.stageFront_counts : s.stageFront.counts = s.counts := by
  unfold State.stageFront
  split
  · rfl
  · split
    · split
      · rw [State.onHamper, State.onSnap_counts, State.hbmWrite_counts]
      · rfl
    · rfl

theorem State.dropHamper_counts : s.dropHamper.counts = s.counts := rfl

theorem State.hamperEnds_counts : s.hamperEnds.counts = s.counts := by
  unfold State.hamperEnds
  split
  · rfl
  · split
    · dsimp only
      split
      · rw [State.endOp_counts, State.dropHamper_counts]
      · exact State.dropHamper_counts s
    · rfl

theorem State.startDrain_counts : s.startDrain.counts = s.counts := by
  unfold State.startDrain
  split
  · rfl
  · dsimp only
    rw [State.hamperEnds_counts, State.stageFront_counts, State.partnerPass_counts]
    split
    · exact State.slotWrite_counts ..
    · rfl

theorem State.endViews_counts : s.endViews.counts = s.counts := by
  unfold State.endViews
  refine foldl_frame (P := State.counts) (fun s x => ?_) _ s
  split
  · exact State.sendDone_frame (P := State.counts) (fun _ _ => rfl) (.of_offChecks fun _ => rfl) ..
  · rfl
  · rfl

theorem State.releaseReads_counts : s.releaseReads.counts = s.counts :=
  State.releaseReads_frame (P := State.counts) (.of_offChecks fun _ => rfl) (fun _ _ _ _ => rfl) (fun _ _ => rfl) s

end counts

/-- A commit sets the counts, and nothing that follows it in the same step does. -/
theorem State.commit_counts (s : State) (r : Run) : (s.commit r).counts = (r.step, 0, 0, false, match r.final with
    | some w => s.absentNext w
    | none => r.absent) := by
  unfold State.commit
  extract_lets carried own dropped absent reported closed counted audited disarmed drained
  have haudited : audited.counts = counted.counts := State.endAudit_counts ..
  have hdisarmed : disarmed.counts = audited.counts := by
    unfold disarmed
    split <;> rfl
  have hdrained : drained.counts = disarmed.counts := by
    unfold drained
    split
    · exact State.startDrain_counts ..
    · rfl
  rw [State.releaseReads_counts, State.endViews_counts, hdrained, hdisarmed, haudited]
  rfl

theorem exec_stepCommit {s : State} {r : Run} {ph : PhaseEntry} (hr : s.train.run = some r)
    (hph : s.phases[r.begun - 1]? = some ph) (hgo : ph.kind = 3 ∧ r.begun ≠ 0 ∧ r.passed = some true ∧
      s.train.committed < r.step ∧ s.time.valid ∧ r.base + ph.start + ph.length ≤ s.time.tick) :
    exec .stepCommit s = .next (s.commit r) := by
  obtain ⟨hkind, hbegun, hpassed, hstep, hv, hend⟩ := hgo
  change execStepCommit s = _
  unfold execStepCommit
  rw [hr]
  dsimp only
  rw [Run.phase, hph]
  exact if_pos (by simp [hkind, hbegun, hpassed, hstep, hv, hend])

/-- Settles O25. -/
theorem stepsCommit : Obligations.StepsCommit := by
  unfold Obligations.StepsCommit
  intro s r ph hr hph hkind hbegun hpassed hstep hv hend
  have hcounts := s.commit_counts r
  simp only [State.counts, Prod.mk.injEq] at hcounts
  obtain ⟨hcommitted, hfailed, habsent, hraised, hlast⟩ := hcounts
  refine ⟨_, exec_stepCommit hr hph ⟨hkind, hbegun, hpassed, hstep, hv, hend⟩, hcommitted, hfailed, habsent, hraised, ?_⟩
  rw [hlast]
  cases r.final <;> rfl

end Sys2Proof.Machine

/-! O12: the ends of the configuration commands. -/
namespace Sys2Proof.Machine

section layers

variable {β : Type} {P : State → β} (hP : Quiet P)
  (hstack : ∀ (x : State) k (f : Stack → Stack), (∀ y, (f y).refresh = y.refresh) → P (x.onStack k f) = P x)
  (hhbm : ∀ (x : State) (b : Mem), P (x.onMem fun m => { m with hbm := b }) = P x)
include hP hstack hhbm

/-- Laying out the lists of a variant writes HBM and the layout alone. -/
theorem State.layLists_frame (hlayout : ∀ (x : State) (l : Train → List (Nat × Nat × Nat)), P (x.onTrain fun t => { t with layout := l t }) = P x)
    (s : State)
    (i : Image) (v : Nat) : P (s.layLists i v) = P s := by
  unfold State.layLists
  refine (foldl_frame_of (P := fun x : State × List Nat => P x.1) (fun x g => ?_) _ _).trans (hlayout s fun _ => [])
  dsimp only
  split
  · exact (hlayout _ fun t => t.layout ++ [_]).trans (State.hbmWrite_frame hP hstack hhbm ..)
  · rfl

theorem State.writeArea_frame (s : State) (i : Image) (b : List Byte) : P (s.writeArea i b) = P s := by
  unfold State.writeArea
  exact foldl_frame (fun _ _ => State.hbmWrite_frame hP hstack hhbm ..) _ s

end layers

theorem State.refreshSlice_frame {β : Type} {P : State → β} (hport : ∀ x p f, P (State.onPort x p f) = P x)
    (hcheck : ∀ x p f, P (State.onCheck x p f) = P x) (s : State) : P s.refreshSlice = P s := by
  unfold State.refreshSlice
  refine foldl_frame (fun s p => ?_) _ s
  dsimp only
  split
  · exact (hcheck ..).trans (hport ..)
  · exact hport ..

/-- The training plot's state, once it is set. -/
theorem State.setPlot0_st {s : State} {st : PlotState} {p : Plot} (h : (s.setPlot0 st).plots[0]? = some p) : p.st = st := by
  simp only [State.setPlot0, State.onPlot, modifyAt, List.getElem?_modify, if_pos, Option.map_eq_map, Option.map_eq_some_iff] at h
  obtain ⟨q, -, rfl⟩ := h
  rfl

/-- The image set, with its policies and its plane map, before its bytes are written into its area. -/
def State.withImage (s : State) (i : Image) : State :=
  (({ s with place := { s.place with map := i.map } } : State).setPlot0 .loaded).onTrain (fun t => { t.emptied with
    image := some i, carry := i.carry, satAccept := i.satAccept })

/-- A training image loaded. -/
def State.loaded (s : State) (i : Image) (b : List Byte) : State :=
  (((s.withImage i).writeArea i b).onSnap fun n => { n with
    partners := [], snap := [], copied := [], armedNext := false }).refreshSlice

/-- What a loaded image sets in the job and on the plane. -/
def State.imageSet (s : State) : Option Image × Bool × Bool × List Nat :=
  (s.train.image, s.train.carry, s.train.satAccept, s.place.map)

theorem State.loaded_imageSet (s : State) (i : Image) (b : List Byte) :
    (s.loaded i b).imageSet = (some i, i.carry, i.satAccept, i.map) :=
  (State.refreshSlice_frame (P := State.imageSet) (fun _ _ _ => rfl) (fun _ _ _ => rfl) _).trans
    (State.writeArea_frame (P := State.imageSet) (.of_offChecks fun _ => rfl) (fun _ _ _ _ => rfl) (fun _ _ => rfl) (s.withImage i) i b)

theorem State.loaded_partners (s : State) (i : Image) (b : List Byte) : (s.loaded i b).snap.partners = [] :=
  State.refreshSlice_frame (P := fun x : State => x.snap.partners) (fun _ _ _ => rfl) (fun _ _ _ => rfl) _

section ends

variable {s : State} {j : Job}

theorem exec_setProfileEnd {b : List Byte} {n : Nat} (hj : s.job? 0x0301 = some j) (hn : n = arg j.slot 0 1)
    (hb : s.flash.profile? n = some b) : exec .setProfileEnd s = .next ((s.switchProfile n b).endJob j stDone 0 n) := by
  subst hn
  change execSetProfileEnd s = _
  unfold execSetProfileEnd
  rw [hj]
  dsimp only
  rw [hb]

theorem exec_writeProfileEnd {b : List Byte} {n : Nat} (hj : s.job? 0x0303 = some j) (hn : n = arg j.slot 0 1)
    (hb : s.extBytes j.slot = some b) (hok : profileBad n b = none) : exec (.writeProfileEnd true) s
      = .next (({ s with flash := { s.flash with
        prof0 := s.flash.prof0.set n b, prof1 := s.flash.prof1.set n b } } : State).endJob j stDone 0 0) := by
  subst hn
  change execWriteProfileEnd true s = _
  unfold execWriteProfileEnd
  rw [hj]
  dsimp only
  rw [hb]
  exact if_pos (by simp [hok])

theorem exec_plotReconfigEnd {k : Nat} {p : Plot} {z : Bool} {b : List Byte} (hp : s.plot? k = some p)
    (hj : s.plotJob 0x0306 k = some j) (hc : p.config = some (z, b)) :
    exec (.plotReconfigEnd k) s = .next ((s.reconfigure k p z b).endJob j stDone 0 0) := by
  change execPlotReconfigEnd k s = _
  unfold execPlotReconfigEnd
  rw [hp]
  dsimp only
  rw [hj, hc]

section load

variable {b : List Byte} (hj : s.job? 0x0401 = some j) (hb : s.train.loading = some b)
include hj hb

theorem exec_loadImageValidationEnd_invalid {e : Breach} (he : imageBad trainTarget b = some e) :
    exec .loadImageValidationEnd s = .next (s.unload.endJob j stInvalid e.detail e.off) := by
  change execLoadImageValidationEnd s = _
  unfold execLoadImageValidationEnd
  rw [hj, hb]
  dsimp only
  rw [he]

theorem exec_loadImageValidationEnd_mismatch {e : Breach} (hok : imageBad trainTarget b = none)
    (he : s.fitBad (parseImage b) = some e) :
    exec .loadImageValidationEnd s = .next (s.unload.endJob j stMismatch e.detail e.off) := by
  change execLoadImageValidationEnd s = _
  unfold execLoadImageValidationEnd
  rw [hj, hb]
  dsimp only
  rw [hok]
  dsimp only
  rw [he]

theorem exec_loadImageValidationEnd_loaded (hok : imageBad trainTarget b = none) (hfit : s.fitBad (parseImage b) = none) :
    exec .loadImageValidationEnd s = .next ((s.loaded (parseImage b) b).endJob j stDone 0 (parseImage b).id) := by
  change execLoadImageValidationEnd s = _
  unfold execLoadImageValidationEnd
  rw [hj, hb]
  dsimp only
  rw [hok]
  dsimp only
  rw [hfit]
  rfl

end load

/-! ### The end of ARM -/

/-- The training plot ARMED: its scale records come from the image, unless a hamper has brought them, and its lists are laid
out (R117, R78). -/
def State.armedWith (s : State) (i : Image) : State :=
  ((if s.train.restored then s else s.onTrain (fun t => { t with
    records := i.records.map (fun r => (ScaleRec.ofBytes r).fresh) })).layLists i s.train.variant).setPlot0 .armed

theorem State.layLists_records (i : Image) (v : Nat) : (s.layLists i v).train.records = s.train.records :=
  State.layLists_frame (P := fun x : State => x.train.records) (.of_offChecks fun _ => rfl) (fun _ _ _ _ => rfl) (fun _ _ => rfl)
    (fun _ _ => rfl) ..

theorem State.layLists_committed (i : Image) (v : Nat) : (s.layLists i v).train.committed = s.train.committed :=
  State.layLists_frame (P := fun x : State => x.train.committed) (.of_offChecks fun _ => rfl) (fun _ _ _ _ => rfl) (fun _ _ => rfl)
    (fun _ _ => rfl) ..

theorem State.armedWith_records (i : Image) : (s.armedWith i).train.records
    = if s.train.restored then s.train.records else i.records.map (fun r => (ScaleRec.ofBytes r).fresh) := by
  refine (State.layLists_records ..).trans ?_
  split <;> rfl

theorem exec_armEnd {i : Image} (hj : s.job? 0x0402 = some j) (hi : s.train.image = some i) (hfit : s.fitBad i = none) :
    exec .armEnd s = .next ((s.armedWith i).endJob j stDone 0 s.train.committed) := by
  change execArmEnd s = _
  unfold execArmEnd
  rw [hj, hi]
  dsimp only
  rw [hfit]
  have hvariant : (if s.train.restored then s else s.onTrain fun t => { t with
      records := i.records.map (fun r => (ScaleRec.ofBytes r).fresh) }).train.variant = s.train.variant := by
    split <;> rfl
  have hcommitted : (if s.train.restored then s else s.onTrain fun t => { t with
      records := i.records.map (fun r => (ScaleRec.ofBytes r).fresh) }).train.committed = s.train.committed := by
    split <;> rfl
  dsimp only
  rw [State.layLists_committed, hvariant, hcommitted]
  rfl

/-! ### Firmware -/

theorem exec_controllerRestartEnd {k : Nat} (hr : s.chip.restart = some (k, true)) (hj : s.job? 0x0902 = some j) :
    exec .controllerRestartEnd s = .next (State.endJob { s with
      chip := { s.chip with restart := none }, flash := { s.flash with active := k } } j stDone 0 0) := by
  change execControllerRestartEnd s = _
  unfold execControllerRestartEnd
  rw [hr]
  refine congrArg Host.Outcome.next ((if_pos rfl).trans ?_)
  rw [State.endOp, show State.job? { s with
    chip := { s.chip with restart := none }, flash := { s.flash with active := k } } 0x0902 = some j from hj]

theorem State.event_job? (code kind idx : Nat) (params : List Byte) (op : Nat) :
    (s.event code kind idx params).job? op = s.job? op :=
  congrArg (fun l : List Job => l.find? fun j : Job => j.opcode == op)
    (State.event_aq_frame (P := Aqvel.jobs) s (fun _ _ _ _ => rfl) code kind idx params)

theorem exec_fwRevertTimeout {k : Nat} (hr : s.chip.restart = some (k, true)) (hj : s.job? 0x0902 = some j) :
    ∃ t : State, exec .fwRevertTimeout s = .next (t.endJob j stHwFault 0 0) ∧ t.chip.restart = none ∧ t.flash = s.flash := by
  generalize ht : State.event { s with chip := { s.chip with restart := none } } 0x2A 0 0
    (leBytes 4 (nth s.flash.banks k ⟨false, 0, 0⟩).version.toNat) = t
  have hjob : t.job? 0x0902 = some j := by
    rw [← ht, State.event_job?]
    exact hj
  have hoff : t.offEvents = State.offEvents { s with chip := { s.chip with restart := none } } := by
    rw [← ht]
    exact State.event_offEvents ..
  refine ⟨t, ?_, ?_, ?_⟩
  · change execFwRevertTimeout s = _
    unfold execFwRevertTimeout
    rw [hr]
    dsimp only
    rw [ht, State.endOp, hjob]
  · exact congrArg (fun x : State => x.chip.restart) hoff
  · exact congrArg (fun x : State => x.flash) (a₁ := t.offEvents)
      (a₂ := State.offEvents { s with chip := { s.chip with restart := none } }) hoff

end ends

/-- Settles O12, command by command. -/
theorem configurationsEnd : Obligations.ConfigurationsEnd := by
  unfold Obligations.ConfigurationsEnd
  refine fun s j => ⟨fun b n => exec_setProfileEnd, fun b n => exec_writeProfileEnd, fun k p z b => exec_plotReconfigEnd,
    ?_, fun i hj hi hfit => ?_, fun b hr hj => ⟨_, exec_controllerRestartEnd hr hj, rfl, rfl⟩,
    fun b => exec_fwRevertTimeout⟩
  · rintro b i hj hb rfl
    refine ⟨fun e => exec_loadImageValidationEnd_invalid hj hb, fun e => exec_loadImageValidationEnd_mismatch hj hb,
      fun hok hfit => ⟨_, exec_loadImageValidationEnd_loaded hj hb hok hfit, ?_⟩⟩
    have hset := s.loaded_imageSet (parseImage b) b
    simp only [State.imageSet, Prod.mk.injEq] at hset
    obtain ⟨himage, hcarry, hsat, hmap⟩ := hset
    exact ⟨himage, hcarry, hsat, hmap, s.loaded_partners (parseImage b) b⟩
  · exact ⟨_, exec_armEnd hj hi hfit, fun p => State.setPlot0_st, State.armedWith_records i⟩

end Sys2Proof.Machine

/-! O13: what ends a command that waits. -/
namespace Sys2Proof.Machine

section waits

variable {s : State} {j : Job}

section arming

variable {a : Arming} (ha : s.time.arming = some a) (hj : s.job? 0x0506 = some j)
include ha hj

theorem exec_timeArmWaitExpiry (hedge : a.edge = false) (hdue : a.deadline ≤ s.time.cyc) : exec .timeArmWaitExpiry s
    = .next ((s.onTime (fun t => { t with armed := false, arming := none })).endJob j stDeadline 0 0) := by
  change execTimeArmWaitExpiry s = _
  unfold execTimeArmWaitExpiry
  rw [ha, hj]
  exact if_pos (by simp [hedge, hdue])

/-- The ports of an arming that no cell, or more than one, or a wrong one has reached (R30). -/
def Arming.failed (a : Arming) : List Nat := a.mask.filter (fun p => decide (a.seen.filter (fun x => x.1 == p) ≠ [(p, true)]))

omit ha hj in
theorem Arming.failed_eq : a.mask.filter (fun p => !a.passed p) = a.failed := by
  refine List.filter_congr fun p _ => ?_
  rw [Arming.passed, decide_not, beq_eq_decide]

theorem exec_epochCheckWindowClose (hedge : a.edge) (hv : s.time.valid) (htick : 16 ≤ s.time.tick) :
    exec .epochCheckWindowClose s = .next (if a.failed = [] then (s.onTime (fun t => { t with arming := none })).endJob j stDone 0 0
      else (s.onTime (fun t => { t with arming := none, valid := false, checkFail := true })).endJob j stAborted
        (a.failed.map (fun p => 2 ^ p)).sum 0) := by
  change execEpochCheckWindowClose s = _
  unfold execEpochCheckWindowClose
  rw [ha, hj]
  refine (if_pos (by simp [hedge, hv, htick])).trans ?_
  dsimp only
  rw [Arming.failed_eq]
  cases a.failed with
  | nil => rfl
  | cons p rest => rfl

end arming

theorem exec_linkTrainWaitExpiry (hj : s.job? 0x0501 = some j)
    (hdue : j.began + trainWait j.slot * Config.cyclesPerMs ≤ s.time.cyc) : exec .linkTrainWaitExpiry s
      = .next ((trainMask j.slot).foldl (fun s p => s.onPort p (fun q => if q.st == 1 then q.fail 0x0C else q)) s).linkTrainEnd := by
  change execLinkTrainWaitExpiry s = _
  unfold execLinkTrainWaitExpiry
  rw [hj]
  exact if_pos (by simpa using hdue)

section shift

variable {h : Shift} (hs : s.shift = some h) (hj : s.job? 0x0702 = some j)
include hs hj

/-- The training plot ARMED after a plane shift: the records that the shift copied, the absent record of its next run, and the
lists of its variant (R349, R78). -/
def State.shiftPlaced (s : State) (h : Shift) : State :=
  let s := (s.copiedRecords h).onTrain (fun t => { t with nextAbsent := h.absent })
  let s := match s.train.image with
    | some i => s.layLists i s.train.variant
    | none => s
  ({ s with shift := none } : State).setPlot0 .armed

omit hs hj in
theorem State.shiftPlaced_nextAbsent (s : State) (h : Shift) : (s.shiftPlaced h).train.nextAbsent = h.absent := by
  unfold State.shiftPlaced
  extract_lets u v
  change v.train.nextAbsent = u.train.nextAbsent
  unfold v
  split
  · exact State.layLists_frame (P := fun x : State => x.train.nextAbsent) (.of_offChecks fun _ => rfl)
      (fun _ _ _ _ => rfl) (fun _ _ => rfl) (fun _ _ => rfl) ..
  · rfl

theorem exec_planeShiftDone (hmoves : h.moves.all (·.finished)) (hpers : h.persReaders = 0) (hpart : h.partReaders = 0) :
    exec .planeShiftDone s = .next ((s.shiftPlaced h).endJob j stDone 0 h.bytes) := by
  change execPlaneShiftDone s = _
  unfold execPlaneShiftDone
  rw [hs, hj]
  refine (if_neg (by simp [hmoves, hpers, hpart])).trans ?_
  rfl

/-- The streams of a plane shift that ends. -/
def State.shiftDropped (s : State) : State :=
  let ours := fun (x : Stream) => match x.purpose with
    | .shift _ _ => true
    | _ => false
  let s := s.onBgp (fun b => { b with
    ended := b.ended ++ (b.streams.filter ours).map (fun x => (x.chip, x.id, s.ownTick))
    streams := b.streams.filter (fun x => !ours x), serves := [], served := [] })
  { s.onTrain (fun t => { t with shiftAborted := true }) with shift := none }

theorem State.shiftAbort_endJob (cause : Nat) : s.shiftAbort cause = s.shiftDropped.endJob j stAborted cause h.bytes := by
  have hjob : s.shiftDropped.job? 0x0702 = some j := hj
  have hend : s.shiftDropped.endOp 0x0702 stAborted cause h.bytes = s.shiftDropped.endJob j stAborted cause h.bytes := by
    rw [State.endOp, hjob]
  rw [State.shiftAbort, hs, ← hend]
  rfl

theorem exec_planeShiftWaitExpiry (hdue : h.deadline ≤ s.time.cyc) :
    exec .planeShiftWaitExpiry s = .next (s.shiftDropped.endJob j stAborted 1 h.bytes) := by
  change execPlaneShiftWaitExpiry s = _
  unfold execPlaneShiftWaitExpiry
  rw [hs]
  exact congrArg _ ((if_pos hdue).trans (State.shiftAbort_endJob hs hj 1))

end shift

theorem exec_leaveSliceEnd (hj : s.job? 0x0703 = some j) : exec .leaveSliceEnd s
    = .next ((if arg j.slot 0 1 % 2 = 1 then (s.stacksOf 0).foldl
      (fun s k => s.onMem (fun m => { m with hbm := clearStack m.hbm k })) s else s).endJob j stDone 0 0) := by
  have hbit : (bit (arg j.slot 0 1) 0 = true) = (arg j.slot 0 1 % 2 = 1) := by simp [bit]
  change execLeaveSliceEnd s = _
  unfold execLeaveSliceEnd
  rw [hj]
  dsimp only
  simp only [hbit]

/-- A recall whose tick has come halts where its run lets it (R342). -/
theorem exec_recallHalt {tr : Nat} (htr : s.recallTick = some tr)
    (hdue : s.train.run = none ∧ tr ≤ s.time.tick ∨ ∃ r, s.train.run = some r ∧
      (tr < s.updateTick r ∧ s.time.tick < s.updateTick r ∧ tr ≤ s.time.tick ∨
        s.updateTick r ≤ s.time.tick ∧ tr ≤ r.base + r.period ∧ s.runOver r)) :
    exec .recallHalt s = .next (s.recallNow tr) := by
  change execRecallHalt s = _
  unfold execRecallHalt
  rw [htr]
  dsimp only
  obtain ⟨hrun, hle⟩ | ⟨r, hrun, ⟨htr, hnow, hle⟩ | ⟨hupd, hle, hend⟩⟩ := hdue
  · rw [hrun]
    exact congrArg _ (if_pos hle)
  · rw [hrun]
    exact (if_pos (by simp [htr, hnow])).trans (congrArg _ (if_pos hle))
  · rw [hrun]
    exact (if_neg (by simp; omega)).trans (congrArg _ (if_pos (by simp [hle, hend])))

end waits

/-- Settles O13, wait by wait. -/
theorem waitsEnd : Obligations.WaitsEnd := by
  unfold Obligations.WaitsEnd
  refine fun s j => ⟨fun a => exec_timeArmWaitExpiry, fun a ha hj hedge hv htick => ?_, exec_linkTrainWaitExpiry,
    fun h hs hj hmoves hpers hpart => ⟨_, exec_planeShiftDone hs hj hmoves hpers hpart, rfl, s.shiftPlaced_nextAbsent h,
      fun p => State.setPlot0_st⟩,
    fun h hs hj hdue => ⟨_, exec_planeShiftWaitExpiry hs hj hdue, rfl, rfl⟩, exec_leaveSliceEnd, fun tr => exec_recallHalt⟩
  rintro bad rfl
  have hexec := exec_epochCheckWindowClose ha hj hedge hv htick
  exact ⟨fun hnone => hexec.trans (congrArg _ (if_pos hnone)), fun hsome => hexec.trans (congrArg _ (if_neg hsome))⟩

end Sys2Proof.Machine

/-! O11: the commands that answer first and act after. -/
namespace Sys2Proof.Machine

theorem not_not_of {b : Bool} (h : b = true) : ¬ (!b) = true := by simp [h]

section answered

variable {c : Slot} {s u : State} (hu : u = s.taken c)
include hu

theorem exec_plotStop (hsound : Sound s 0x0304 .plot c (fun u => u.chip.profile != 0 && plotIn [.running] u c))
    (hclean : Clean c [(1, 31)] []) (hext : c.extLen = 0) (hmode : arg c 0 1 ≤ 1) :
    exec (.plotStop c) s = .next (((u.onPlot c.target.toNat (Plot.drain (arg c 0 1 == 1))).accept 0x0304 c).stopIfDone
      c.target.toNat) := by
  subst hu
  change execPlotStop c s = _
  unfold execPlotStop
  exact aqvel_clean_acceptedThen (f := fun s => s.stopIfDone c.target.toNat) hsound hclean (fun _ => rfl) (noExt_of _ hext)
    (if_neg (by omega))

theorem exec_linkTrain (hsound : Sound s 0x0501 .chip c (trainIn [.empty, .loaded, .parked]))
    (hclean : Clean c [(3, 1), (8, 24)] [(1, 3)]) (hext : c.extLen = 0) (hcoord : u.place.coord.isSome)
    (hlanes : arg c 2 1 ∈ [8, 12, 16]) (hmost : ∀ p ∈ trainMask c, arg c 2 1 ≤ maxLanes p) {pin : Nat}
    (hpin : pin = if arg c 4 2 = 0 then 160 else arg c 4 2) (hrange : 96 ≤ pin ∧ pin ≤ 2047) (hwait : arg c 6 2 ≤ 10000) :
    exec (.linkTrain c) s = .next ((((trainMask c).foldl (fun s p => (s.onPort p (fun q => q.startTraining (arg c 2 1)
      pin)).onCheck p (fun k => { PortCheck.reset with digTx := k.digTx, digRx := k.digRx })) u).accept 0x0501
        c).linkTrainEnd) := by
  subst hu
  have hpin' : (if arg c 4 2 == 0 then 160 else arg c 4 2) = pin := by rw [hpin]; simp only [beq_iff_eq]
  have hfit : ((trainMask c).any fun p => decide (maxLanes p < arg c 2 1)) = false := by
    simpa [List.any_eq_false] using hmost
  change execLinkTrain c s = _
  unfold execLinkTrain
  refine aqvel_clean_acceptedThen (f := State.linkTrainEnd) hsound hclean (fun _ => rfl) (noExt_of _ hext) ?_
  dsimp only
  rw [hpin', hfit, List.contains_iff_mem.2 hlanes, if_neg (not_isNone_of_isSome hcoord), if_neg (by simp),
    if_neg (by simp; omega), if_neg (by omega)]

omit hu in
theorem State.extBytes_taken : (s.taken c).extBytes c = (s.take c).extBytes c := by
  have hbuf : (s.taken c).aq.buf = (s.take c).aq.buf := by
    rw [State.taken, State.rememberSeq]
    split <;> rfl
  unfold State.extBytes
  rw [hbuf]

theorem exec_planeShift {b : List Byte} {e : VarEntry} {i : Image} {map : List Nat}
    (hsound : Sound s 0x0702 .plot c (fun u => trainIn [.parked] u && !u.flash.suspect && u.modeOf 0 != 0))
    (hclean : Clean c [(30, 2)] [(27, 1)]) (hext : 64 ≤ c.extLen.toNat) (hb : u.extBytes c = some b)
    (hlen : 64 + 32 * fieldAt b 0 4 = c.extLen.toNat) (htable : tableBad b (fieldAt b 0 4) = none)
    (hstep : arg c 0 8 = u.train.committed + 1) (himage : u.train.image = some i) (hvar : i.variant? (arg c 26 1) = some e)
    (hvars : arg c 26 1 ∈ [0, 2, 3, 4]) (hfour : arg c 26 1 = 4 → u.train.variant = 3 ∨ u.train.variant = 4)
    (hmap : map = (slice c.inl 8 17).map (·.toNat)) (hmapOk : mapOk map e.active (nth i.shape 3 1 + i.spare))
    (hroll : arg c 27 1 = 1 → u.modeOf 0 = 2) : exec (.planeShift c) s = .next ((u.accept 0x0702 c).shiftBegin c b) := by
  subst hu hmap
  have hextOk : (decide (64 ≤ c.extLen.toNat) && match (s.take c).extBytes c with
      | some b => c.extLen.toNat == 64 + 32 * fieldAt b 0 4
      | none => c.extLen.toNat % 32 == 0) = true := by
    rw [← State.extBytes_taken, hb]
    simp [hext, hlen]
  have hrolls : (bit (arg c 27 1) 0 && (s.taken c).modeOf 0 != 2) = false := by
    rw [flag_of_clean hclean (List.mem_singleton_self _)]
    by_cases h : arg c 27 1 = 1
    · simp [hroll h]
    · simp [h]
  have hvariant : (arg c 26 1 != 4 || (s.taken c).train.variant == 3 || (s.taken c).train.variant == 4) = true := by
    by_cases h : arg c 26 1 = 4
    · obtain h3 | h4 := hfour h
      · simp [h3]
      · simp [h4]
    · simp [h]
  change execPlaneShift c s = _
  unfold execPlaneShift
  refine aqvel_clean_acceptedThen (f := fun s => s.shiftBegin c b) hsound hclean (fun _ => rfl) hextOk ?_
  refine (readsExt_some hb).trans ?_
  dsimp only
  rw [htable, himage, Option.bind_some, hvar]
  have hgood : ([0, 2, 3, 4].contains (arg c 26 1)
      && (arg c 26 1 != 4 || (s.taken c).train.variant == 3 || (s.taken c).train.variant == 4)
      && mapOk ((slice c.inl 8 17).map (·.toNat)) e.active (nth i.shape 3 1 + i.spare)) = true := by
    rw [List.contains_iff_mem.2 hvars, hvariant, hmapOk]
    rfl
  exact (if_neg (by simp [hstep])).trans ((if_neg (not_not_of hgood)).trans ((if_neg Bool.false_ne_true).trans
    (if_neg (ne_false_of hrolls))))

section reset

variable (hsound : Sound s 0x0B01 .either c anywhere) (hclean : Clean c [(2, 30)] []) (hext : c.extLen = 0)
include hsound hclean hext

/-- What a RESET does once it has been answered (R419). -/
def State.resetBy (k b target : Nat) (t : State) : State :=
  if k == 0 then { t with chip := { t.chip with resetDue := some (b == 1) } }
  else if k == 1 then t.controllerReset
  else t.plotReset target

theorem exec_reset (hkind : arg c 0 1 ≤ 2) (hflag : arg c 0 1 = 0 ∧ arg c 1 1 ≤ 1 ∨ arg c 1 1 = 0)
    (htarget : arg c 0 1 = 2 ↔ c.target ≠ 0xFF) : exec (.reset c) s
      = .next ((u.reply 0x0B01 c stDone 0 0).resetBy (arg c 0 1) (arg c 1 1) c.target.toNat) := by
  subst hu
  have hflag' : ((arg c 0 1 == 0 && decide (arg c 1 1 > 1)) || (arg c 0 1 != 0 && arg c 1 1 != 0)) = false := by
    obtain ⟨h0, h1⟩ | h1 := hflag
    · simp [h0, h1]
    · simp [h1]
  have htarget' : ((arg c 0 1 == 2) == (c.target == 0xFF)) = false := by
    by_cases h : arg c 0 1 = 2
    · have hone : c.target ≠ 0xFF := htarget.1 h
      simpa [h] using hone
    · have hall : c.target = 0xFF := not_not.1 (mt htarget.2 h)
      simp [h, hall]
  change execReset c s = _
  unfold execReset
  refine aqvel_clean_doneThen (f := State.resetBy (arg c 0 1) (arg c 1 1) c.target.toNat) hsound hclean (fun _ => rfl)
    (noExt_of _ hext) ?_
  dsimp only
  rw [if_neg (by omega), hflag', htarget']
  rfl

end reset

end answered

/-! ### Leaving the slice -/

section epoch

variable {β : Type} {P : State → β} (hP : ∀ x : State, P x.offChecks = P x)
  (hdma : ∀ (x : State) (d : Dma), P { x with dma := d } = P x) (hbgp : ∀ (x : State) f, P (x.onBgp f) = P x)
  (htrain : ∀ (x : State) (f : Train → Train), P (x.onTrain f) = P x)
  (hports : ∀ (x : State) f, P (State.onPorts x f) = P x)
include hP hdma hbgp htrain hports

/-- What a new route epoch leaves as it was, once the epoch itself is set. -/
theorem State.newEpoch_frame (s : State) (e : Nat) :
    P (s.newEpoch e) = P { s with place := { s.place with epoch := e } } := by
  have hjobs (t : State) (f : Job → Bool) (d r : Nat) : P (t.abortJobs f d r) = P t :=
    frame_of_offChecks hP (State.offChecks_of_offRecords (State.offRecords_of_offEvents
      (State.offEvents_of_offAq (State.abortJobs_offAq ..))))
  unfold State.newEpoch
  dsimp only
  rw [hbgp, State.dropStale, hbgp, hports, State.countsBgp, hbgp,
    foldl_frame fun _ _ => State.sendDone_frame hdma (.of_offChecks hP) .., htrain, hjobs]

end epoch

section slice

variable (s : State)

theorem State.newEpoch_place (e : Nat) : (s.newEpoch e).place = { s.place with epoch := e } :=
  State.newEpoch_frame (P := State.place) (fun _ => rfl) (fun _ _ => rfl) (fun _ _ => rfl) (fun _ _ => rfl) (fun _ _ => rfl) s e

theorem State.newEpoch_hamper (e : Nat) : (s.newEpoch e).snap.hamper = s.snap.hamper :=
  State.newEpoch_frame (P := fun x : State => x.snap.hamper) (fun _ => rfl) (fun _ _ => rfl) (fun _ _ => rfl) (fun _ _ => rfl)
    (fun _ _ => rfl) s e

/-- A hamper that ends is no longer in hand. -/
theorem State.endHamper_hamper : s.endHamper.snap.hamper = none := by
  refine (State.dropSeal_frame (P := fun x : State => x.snap.hamper) (fun _ => rfl) _).trans ?_
  unfold State.failHamper
  split
  · assumption
  · dsimp only
    split
    · exact frame_of_offAq (P := fun x : State => x.snap.hamper) (fun _ => rfl) (State.endOp_offAq s.dropHamper ..)
    · rfl

/-- What LEAVE_SLICE does once it has been accepted (R356). -/
def State.sliceLeft (s : State) : State :=
  let s := s.endHamper.newEpoch 0
  let s := { s with place := { s.place with map := List.replicate 17 0xFD } }
  let s := (s.setPlot0 .empty).onTrain (fun t => { t.emptied with committed := t.committed, absentLast := t.absentLast })
  let s := s.onSnap (fun n => { n with
    snap := [], copied := [], armedNext := false, partners := [], turn := 0, sealSoon := false })
  s.refreshSlice

theorem State.sliceLeft_place : s.sliceLeft.place.map = List.replicate 17 0xFD ∧ s.sliceLeft.place.epoch = 0 := by
  have hplace : s.sliceLeft.place = { (s.endHamper.newEpoch 0).place with map := List.replicate 17 0xFD } :=
    State.refreshSlice_frame (P := State.place) (fun _ _ _ => rfl) (fun _ _ _ => rfl) _
  rw [hplace, State.newEpoch_place]
  exact ⟨rfl, rfl⟩

theorem State.sliceLeft_image : s.sliceLeft.train.image = none :=
  State.refreshSlice_frame (P := fun x : State => x.train.image) (fun _ _ _ => rfl) (fun _ _ _ => rfl) _

theorem State.sliceLeft_snap : s.sliceLeft.snap.partners = [] ∧ s.sliceLeft.snap.snap = [] ∧ s.sliceLeft.snap.hamper = none := by
  have hsnap : s.sliceLeft.snap = { (s.endHamper.newEpoch 0).snap with
      snap := [], copied := [], armedNext := false, partners := [], turn := 0, sealSoon := false } :=
    State.refreshSlice_frame (P := State.snap) (fun _ _ _ => rfl) (fun _ _ _ => rfl) _
  rw [hsnap]
  exact ⟨rfl, rfl, (State.newEpoch_hamper _ 0).trans s.endHamper_hamper⟩

theorem exec_leaveSlice {c : Slot} (hsound : Sound s 0x0703 .plot c (fun u => trainIn [.empty, .loaded, .parked] u
      && !u.shift.any (fun h => h.persReaders != 0 || h.partReaders != 0))) (hclean : Clean c [(1, 31)] [(0, 1)])
    (hext : c.extLen = 0) : exec (.leaveSlice c) s = .next ((s.taken c).accept 0x0703 c).sliceLeft := by
  change execLeaveSlice c s = _
  unfold execLeaveSlice
  exact aqvel_clean_acceptedThen (f := State.sliceLeft) hsound hclean (fun _ => rfl) (noExt_of _ hext) rfl

end slice

/-- Settles O11: what each command does to the state that its answer leaves. -/
theorem effectsFollowTheFirstCompletion : Obligations.EffectsFollowTheFirstCompletion := by
  unfold Obligations.EffectsFollowTheFirstCompletion
  refine fun c s u hu => ⟨fun hsound hclean hext hmode => ?_, fun hsound hclean hext hcoord hlanes hmost pin hpin hrange hwait =>
    exec_linkTrain hu hsound hclean hext hcoord hlanes hmost hpin hrange hwait, fun b e i map hsound hclean hext hb hlen htable
    hstep himage hvar hvars hfour hmap hmapOk hroll => exec_planeShift hu hsound hclean hext hb hlen htable hstep himage hvar
      hvars hfour hmap hmapOk hroll, fun hsound hclean hext => ⟨_, exec_leaveSlice s hsound hclean hext, ?_⟩,
    fun hsound hclean hext => ⟨fun b hkind hb hb1 htarget w hw => ?_, fun hkind hb htarget => ?_, fun hkind hb htarget => ?_⟩⟩
  · rw [exec_plotStop hu hsound hclean hext hmode]
    unfold Plot.drain
    simp only [beq_iff_eq]
  · obtain ⟨hmap, hepoch⟩ := State.sliceLeft_place ((s.taken c).accept 0x0703 c)
    exact ⟨hmap, hepoch, State.sliceLeft_image _, State.sliceLeft_snap _⟩
  · rw [exec_reset hu hsound hclean hext (by omega) (.inl ⟨hkind, by omega⟩) (by simp [hkind, htarget]), ← hw, hkind, hb]
    rfl
  · rw [exec_reset hu hsound hclean hext (by omega) (.inr hb) (by simp [hkind, htarget]), hkind]
    rfl
  · rw [exec_reset hu hsound hclean hext (by omega) (.inr hb) ⟨fun _ => htarget, fun _ => hkind⟩, hkind]
    rfl

end Sys2Proof.Machine
